-- ==== Sys2Proof/Word.lean ====
section
/-! DEFINITION. The widths the spec names: bytes, 32-bit register words (R11) and 64-bit values. -/
namespace Sys2Proof

/-- One byte (R7). -/
abbrev Byte := BitVec 8
/-- A register or record word: 32 bits (R7, R11). -/
abbrev Word := BitVec 32
/-- A 64-bit value, two words, the low word first (R7). -/
abbrev DWord := BitVec 64

end Sys2Proof
end

