-- ==== Sys2Proof/Operand.lean ====
section
/-! DEFINITION. What the commands carry beside numbers: references to stations and Lath groups, decoded Lath operations, and findings of tests. -/
namespace Sys2Proof.Machine

/-- A seat packet header cell, its four words as received (table "seat packet header cell"). -/
structure SeatHdr where
  w0 : Word
  w1 : Word
  w2 : Word
  w3 : Word
  deriving DecidableEq, Repr

/-- A station of an open run: tenant, run handle, station index (R148, R173). -/
structure StRef where
  tenant : Nat
  handle : Word
  station : Nat
  deriving DecidableEq, Repr

/-- A sheaf in an item slot of a Lath core: core 0 to 575, slot, sheaf index in the item (R332, R336). -/
structure LathAt where
  core : Nat
  slot : Nat
  sheaf : Nat
  deriving DecidableEq, Repr

/-- A Lath instruction as it is fetched: words 0 and 1, and the immediate of words 2 and 3, zero for a short one (R338). -/
structure LInstr where
  w0 : Word
  w1 : Word
  imm : DWord
  deriving DecidableEq, Repr

/-- Comparisons of INT and FVEC. -/
inductive CmpOp where
  | eq | ne | lt | le | gt | ge
  deriving DecidableEq, Repr

/-- INT operations (table "instruction classes"). `undef` stands for an op or mod that the table does not define. -/
inductive IntOp where
  | add | sub | mulLo | mulHiS | mulHiU
  | shl | shrL | shrA
  | and | or | xor | not
  | cmp (op : CmpOp) (signed : Bool)
  | sel
  | packB | packH | unpackB | unpackH
  | undef
  deriving DecidableEq, Repr

/-- FVEC operations (table "instruction classes"). -/
inductive FvecOp where
  | add | mul | fma | min | max
  | cmp (op : CmpOp)
  | rcp | div | sqrt | exp2 | log2
  | undef
  deriving DecidableEq, Repr

/-- Formats of FVEC operands (R224). -/
inductive FvecFmt where
  | fp32 | bf16 | fp16
  deriving DecidableEq, Repr

/-- Atomic operations (R354). -/
inductive AtomOp where
  | add | min | max | and | or | xor | exch | cas
  | undef
  deriving DecidableEq, Repr

/-- A sheaf's part in an atomic cycle of its cluster: the instruction that its group issues, and its operation (R355). -/
structure AtomGroup where
  at_ : LathAt
  i : LInstr
  op : AtomOp
  deriving DecidableEq, Repr

/-- Element types of atomics (R354). -/
inductive AtomTy where
  | u32 | i32 | f32
  deriving DecidableEq, Repr

/-- Special registers of RDSR. -/
inductive SpecReg where
  | lane | sheaf | item | ws | flags | place
  | undef
  deriving DecidableEq, Repr

/-- Symbols of a codeword that read wrong: position 0 to 35 and the XOR difference (R414). -/
abbrev SymErrs := List (Nat × BitVec 16)

/-- A codeword of a stack that reads wrong: an address in its sector, its symbol errors, and whether a corrected error survives its write-back (R415). -/
structure StackErr where
  pa : Nat
  errs : SymErrs
  sticks : Bool
  deriving DecidableEq, Repr

/-- An error met in Felt (R388) or in a stack (R415) while an access reads it. -/
inductive Upset where
  /-- Word `off ÷ 8` of the access holds a single or a double error. -/
  | word (off : Nat) (double : Bool)
  /-- The residency map entry read holds a double error; the field is that of the slice. -/
  | map (field : Nat)
  /-- A single error in a word of a block-owned structure of a field. -/
  | single (field : Nat)
  /-- A double error in a ray state entry, a matching-store entry, a run buffer, or a queue ring entry of a run; station 255 for a ring entry. -/
  | entry (field : Nat) (at_ : StRef)
  /-- A double error in a queue ring entry of an admission queue: the number of the held packet. -/
  | heldRef (field tenant stream seq : Nat)
  /-- A codeword of a stack that a merge, a rebuild or a read of a fixed-function unit meets. -/
  | stack (e : StackErr)
  deriving DecidableEq, Repr

/-- A failing bit, signature or reading that a Screen test finds (R490). `kind` is the record's kind, 0 for a repaired array. -/
structure Finding where
  unit : Nat
  kind : Nat
  array : Nat
  v1 : Word
  v2 : Nat
  v3 : Nat
  /-- Purlin stops: the plane that fails (R488). -/
  plane : Nat
  deriving DecidableEq, Repr

/-- A codeword found in error by a scrub or a copy of a row: pseudo-channel, codeword of the segment, its symbol errors, and whether a corrected error survives its write-back (R415, R431). Codeword 28 is a tag that differs, 29 the metadata (R416). -/
structure ScrubHit where
  pc : Nat
  slot : Nat
  errs : SymErrs
  sticks : Bool
  deriving DecidableEq, Repr

/-- Codewords found in error by a copy of a zone, each with its logical row segment. -/
abbrev SegHits := List (Nat × ScrubHit)

/-- The run whose access needs a page: handle, station, and the detail that its chapter gives (R65, R190). -/
structure Need where
  handle : Word
  station : Nat
  detail : Word
  deriving DecidableEq, Repr

/-- A far-tier device found by enumeration: its port and its capacity in sheets (R120). -/
structure DevFound where
  port : Nat
  sheets : Nat
  deriving DecidableEq, Repr

/-- A gable link trained: port, width and rate codes of CAP_GABLE_LINK, FLIT mode (R61). -/
structure LinkTrained where
  port : Nat
  width : Nat
  rate : Nat
  flit : Bool
  deriving DecidableEq, Repr

/-- Which address space a register access uses: the management map, or BAR2 of a host port (R511). -/
inductive RegSpace where
  | mgmt
  | bar2 (port : Nat)
  deriving DecidableEq, Repr

/-- A step that the Calender pre-loads (R94). -/
inductive StepName where
  | wake (field : Nat)
  | train (eave : Nat)
  | window (eave : Nat)
  | group (g : Nat)
  deriving DecidableEq, Repr

end Sys2Proof.Machine
end

