-- ==== Sys2Proof/Syntax.lean ====
section
/-! DEFINITION. The commands: one constructor for each row of spec/opcode_table.json. A command stands for one indivisible step of the block; its operands are what comes from outside (a packet, a cell, a reading, the outcome of a test) or what names the unit that acts. -/
namespace Sys2Proof
open Sys2Proof.Machine

/-- The commands of the block, in the order of the table. -/
inductive Instr where
  -- resets, start and START_CMD (chapters 02 and 04)
  | pwrGoodRise (mgMode : Bool) (mgAddr : BitVec 3)
  | pwrGoodFall
  | rstNFall
  | rstNRise
  | stopRampEnd
  | rootLock (read1 read2 : List Word)
  | rootLockTimeout
  | rootLockLoss
  | flashReadDone (spi : Bool) (bytes : List Byte)
  | flashReadTimeout
  | imageShareExpiry (spi : Bool)
  | flReleaseNChange (level : Bool)
  | startPhaseDone (seats : BitVec 8) (links : List LinkTrained) (devs : List DevFound)
  | phaseBudgetExpiry (links : List LinkTrained) (devs : List DevFound)
  | fieldWakeDone (field : Nat)
  | stackTrainingDone (eave : Nat) (passed : Bool) (ident : List Word)
  | restart (key : BitVec 16)
  | enterMaint (key : BitVec 16)
  | exitMaint (key : BitVec 16)
  | drainDone
  | maintDrainTimeout
  | cattrip (eave : Nat)
  -- seat links (chapter 02)
  | seatAlert (seat : Nat)
  | seatUncorrectableLinkError (seat : Nat) (bits : Nat)
  | seatLinkRetrainDone (seat : Nat) (ok : Bool) (spares : Nat)
  | seatLinkFlit (seat : Nat) (frame credits corrected : Nat)
  | seatLoad (seat : Nat) (hdr : SeatHdr) (upsets : List Upset)
  | loadData (seat num : Nat)
  | seatStore (seat : Nat) (hdr : SeatHdr) (cells : List Byte) (upsets : List Upset)
  | storeDone (seat num : Nat)
  | seatCommand (seat : Nat) (hdr : SeatHdr) (cells : List Byte)
  | stageAck (seat : Nat) (hdr : SeatHdr)
  | seatCreditTimeout (seat : Nat)
  | stageAckTimeout (seat tenant : Nat) (handle : Word)
  -- gable ports (chapter 02)
  | gabSlotWrite (port slot off : Nat) (bytes : List Byte)
  | gabCommit (port slot : Nat) (word : Word)
  | gabRingSizeWrite (port : Nat) (value : Word)
  | gabRingHeadWrite (port : Nat) (value : Word)
  | hostConfigRequest (port : Nat)
  | gaPerstNFall (port : Nat)
  | gaPerstNRise (port : Nat) (link : LinkTrained)
  | farReadCompletion (tenant sheet page : Nat) (poisoned : Bool)
  | gableCompletionTimeout (tenant sheet page : Nat)
  -- management (chapters 02 and 19)
  | i3cDynamicAddress (addr : BitVec 7)
  | registerWrite (space : RegSpace) (addr : Nat) (value : Word) (nbytes : Nat)
  | clearingRead (space : RegSpace) (addr nbytes : Nat)
  | runtimeSettingWrite (addr : Nat) (value : Word)
  -- Calender and thermal (chapter 03)
  | calenderInterval (est awake withhold fields : Nat) (drawn : List Nat)
  | calenderCalibration (measured est : Nat)
  | preloadDone (step : StepName)
  | fastLoopEnd (step : StepName)
  | thermalSample (temps : List (BitVec 12))
  | testDeferTimeout
  -- command packets (chapter 05)
  | packetArrival (src : Nat) (upsets : List Upset)
  | write (tenant stream : Nat) (upsets : List Upset)
  | read (tenant stream : Nat) (upsets : List Upset)
  | readData (index : Nat)
  | fence (tenant stream : Nat)
  | fenceTargetReached (tenant stream : Nat)
  | run (tenant stream : Nat)
  | runKill (tenant stream : Nat)
  | tile (tenant stream : Nat)
  | alloc (tenant stream : Nat)
  | free (tenant stream : Nat)
  | hint (tenant stream : Nat)
  | grow (tenant stream : Nat)
  | streamReset (src : Nat)
  | regRead (stream : Nat)
  | regWrite (stream : Nat)
  | nop (tenant stream : Nat)
  | streamGapTimeout (tenant stream : Nat)
  -- runs (chapter 06)
  | runLaunch (tenant : Nat) (handle : Word) (upsets : List Upset)
  | stageEnd (tenant : Nat) (handle : Word)
  | runKillDone (tenant : Nat) (handle : Word)
  | watchdogTimeout (at_ : StRef) (ordinal : Nat)
  -- Ridge (chapter 13)
  | operandArrival (at_ : StRef) (port : Nat) (upsets : List Upset)
  | itemDispatch (field : Nat) (upsets : List Upset)
  | itemComplete (at_ : StRef) (ordinal : Nat)
  | ridgeToken (index : Nat)
  | queueHeldResume (tenant : Nat)
  -- Sizing (chapter 07)
  | sizingTile (at_ : StRef) (ordinal : Nat)
  -- Rafter (chapter 08)
  | treeDescriptorArrival (at_ : StRef) (upsets : List Upset)
  | yealmTraversal (at_ : StRef) (ordinal : Nat) (upsets : List Upset)
  | yealmComplete (at_ : StRef) (ordinal : Nat)
  -- Mould (chapter 09)
  | build (at_ : StRef) (ordinal : Nat) (upsets : List Upset)
  | refit (at_ : StRef) (ordinal : Nat) (upsets : List Upset)
  | check (at_ : StRef) (ordinal : Nat) (upsets : List Upset)
  | mouldJobToBack (field : Nat)
  | mouldTileOut (at_ : StRef)
  -- Yealm and Couch (chapter 10)
  | yealmWindowAlloc (at_ : StRef) (upsets : List Upset)
  | yealmWindowSort (at_ : StRef)
  | yealmEmit (at_ : StRef)
  | cohortClose (at_ : StRef)
  | hitTileIngest (at_ : StRef) (ordinal : Nat)
  | batchEmit (at_ : StRef) (upsets : List Upset)
  | courseHeaderWrite (at_ : StRef) (upsets : List Upset)
  | replay (at_ : StRef) (upsets : List Upset)
  -- Lath cores (chapter 12)
  | int (at_ : LathAt) (i : LInstr) (op : IntOp)
  | fvec (at_ : LathAt) (i : LInstr) (op : FvecOp) (fmt : FvecFmt)
  | cvt (at_ : LathAt) (i : LInstr)
  | mxConvertSheaf (at_ : LathAt) (i : LInstr)
  | bra (at_ : LathAt) (i : LInstr)
  | jmpr (at_ : LathAt) (i : LInstr)
  | exit (at_ : LathAt) (i : LInstr)
  | barItem (at_ : LathAt) (i : LInstr)
  | trap (at_ : LathAt) (i : LInstr)
  | lathNop (at_ : LathAt) (i : LInstr)
  | ldG (at_ : LathAt) (i : LInstr) (size : Nat) (upsets : List Upset)
  | ldGNc (at_ : LathAt) (i : LInstr) (size : Nat) (upsets : List Upset)
  | stG (at_ : LathAt) (i : LInstr) (size : Nat) (upsets : List Upset)
  | ldp (at_ : LathAt) (i : LInstr) (size : Nat)
  | ldL (at_ : LathAt) (i : LInstr) (size : Nat)
  | stL (at_ : LathAt) (i : LInstr) (size : Nat)
  | atom (groups : List AtomGroup) (global : Bool) (upsets : List Upset)
  | memoryAccessDone (core id : Nat)
  | mmaT (at_ : LathAt) (i : LInstr)
  | mmaSheaf (at_ : LathAt) (i : LInstr)
  | mmaComplete (core : Nat)
  | tin (at_ : LathAt) (i : LInstr)
  | emit (at_ : LathAt) (i : LInstr)
  | fenceC (at_ : LathAt) (i : LInstr)
  | fenceF (at_ : LathAt) (i : LInstr)
  | cinv (at_ : LathAt) (i : LInstr)
  | rdsr (at_ : LathAt) (i : LInstr) (sr : SpecReg)
  | divergedMatrix (at_ : LathAt)
  -- VAT station and Vatman (chapter 14)
  | vatLoadTile (at_ : StRef) (ordinal : Nat) (upsets : List Upset)
  | vatStoreTile (at_ : StRef) (ordinal : Nat) (upsets : List Upset)
  | vatHintRecord (at_ : StRef) (ordinal : Nat)
  | translationMiss (field tenant addr : Nat)
  | firstTouchFill (tenant addr : Nat)
  | demandPageIn (tenant addr : Nat) (need : Option Need)
  | pageArrival (tenant sheet : Nat)
  | evictionCancel (tenant sheet : Nat)
  | prefetchServe
  -- Eaves (chapter 15)
  | eaveRead (eave index : Nat) (errs : SymErrs) (sticks : Bool) (mates : List StackErr)
  | eaveStore (eave addr : Nat) (bytes : List Byte) (errs : List StackErr)
  | parityDifference (eave : Nat)
  | stackResponseTimeout (eave index : Nat) (mates : List StackErr)
  | stackTemperatureRead (eave : Nat) (temp : BitVec 12)
  | selfRefreshEntry (eave : Nat)
  | scrub (eave : Nat) (hits : List ScrubHit)
  | retrainingWindowOpen (eave pc : Nat)
  | retrainingWindowEnd (eave : Nat) (passed : Bool)
  | zoneCopyDone (row col : Nat) (hits : SegHits) (passed : Bool)
  | rowRemapDone (eave pc seg : Nat) (hits : List ScrubHit) (passed : Bool)
  | pageRetire (eave : Nat) (passed : Bool)
  | maintenanceWindow (eave : Nat) (passed : Bool) (temp : BitVec 12)
  -- splat pipeline (chapter 17)
  | binInputTile (at_ : StRef) (ordinal : Nat) (upsets : List Upset)
  | binScatter (at_ : StRef) (upsets : List Upset)
  | growTimeout (at_ : StRef)
  | fragmentStore (at_ : StRef) (ordinal : Nat) (upsets : List Upset)
  | blendEndTile (at_ : StRef) (ordinal : Nat) (upsets : List Upset)
  | upstreamGradientTile (at_ : StRef) (ordinal : Nat) (upsets : List Upset)
  | blendFinish (at_ : StRef) (upsets : List Upset)
  | pack (at_ : StRef) (ordinal : Nat)
  | unpack (at_ : StRef) (ordinal : Nat)
  -- Screen (chapter 18)
  | screenGroupStart (group : Nat)
  | screenGroupDone (group spares : Nat) (found : List Finding)
  | rotationSlot
  | rotationTestStart
  | rotationTestDone (found : List Finding)
  | unit (key : BitVec 16)
  | eave (key : BitVec 16)
  | block (key : BitVec 16)
  | blockD (key : BitVec 16)
  | rotPause (key : BitVec 16)
  | rotResume (key : BitVec 16)
  -- telemetry (chapter 19)
  | telemetrySample
  | telemetryConfigWrite (addr : Nat) (value : Word)
  -- Eave upkeep and test port
  | refresh (eave : Nat)
  | writeQueueDrain (eave : Nat)
  | farSlotWriteDone (tenant sheet : Nat)
  | tap1500Access (eave : Nat)
  deriving DecidableEq, Repr

end Sys2Proof
end

