-- ==== Sys2Proof/Machine/Kv.lean ====
section
/-! DEFINITION. Sparse tables as lists of key and value pairs, one entry a key, and the two or three list operations the machine uses everywhere. -/
namespace Sys2Proof.Machine

/-- A sparse table: at most one entry a key when built with `Kv.set`. -/
abbrev Kv (κ ν : Type) := List (κ × ν)

/-- The entry at a key, if there is one. -/
def Kv.get {κ ν : Type} [DecidableEq κ] : Kv κ ν → κ → Option ν
  | [], _ => none
  | (k, v) :: m, x => if k = x then some v else Kv.get m x

/-- The entry at a key, or what an absent entry reads as. -/
def Kv.getD {κ ν : Type} [DecidableEq κ] (m : Kv κ ν) (x : κ) (d : ν) : ν :=
  (Kv.get m x).getD d

/-- The table with the entry at one key replaced, or added at the end. -/
def Kv.set {κ ν : Type} [DecidableEq κ] : Kv κ ν → κ → ν → Kv κ ν
  | [], x, w => [(x, w)]
  | (k, v) :: m, x, w => if k = x then (k, w) :: m else (k, v) :: Kv.set m x w

/-- The table without the entry at one key. -/
def Kv.del {κ ν : Type} [DecidableEq κ] : Kv κ ν → κ → Kv κ ν
  | [], _ => []
  | (k, v) :: m, x => if k = x then Kv.del m x else (k, v) :: Kv.del m x

/-- A list with the element at one index changed, when it has one. -/
def modAt {α : Type} : List α → Nat → (α → α) → List α
  | [], _, _ => []
  | a :: l, 0, f => f a :: l
  | a :: l, n + 1, f => a :: modAt l n f

/-- The sum of a list of numbers. -/
def sumNat : List Nat → Nat
  | [] => 0
  | n :: l => n + sumNat l

/-- Quotient rounded up. -/
def ceilDiv (a b : Nat) : Nat := if b = 0 then 0 else (a + b - 1) / b

/-- Insertion into a list ordered by `le`, after the elements that are not above it. -/
def insertBy {α : Type} (le : α → α → Bool) (x : α) : List α → List α
  | [] => [x]
  | y :: l => if le y x then y :: insertBy le x l else x :: y :: l

/-- A stable sort by `le`. -/
def sortBy {α : Type} (le : α → α → Bool) (l : List α) : List α :=
  l.foldl (fun acc x => insertBy le x acc) []

end Sys2Proof.Machine
end

