-- ==== Sys2Proof/Machine/Bits.lean ====
section
/-! DEFINITION. Bit fields and little-endian byte order (R7). -/
namespace Sys2Proof.Machine

/-- Bits [lo + n - 1 : lo] of a number. -/
def bits (x lo n : Nat) : Nat := x / 2 ^ lo % 2 ^ n

/-- Bit `i` of a number. -/
def bitAt (x i : Nat) : Bool := x / 2 ^ i % 2 == 1

/-- Bits [lo + n - 1 : lo] of a word. -/
def wfield (w : Word) (lo n : Nat) : Nat := bits w.toNat lo n

/-- Bit `i` of a word. -/
def wbit (w : Word) (i : Nat) : Bool := bitAt w.toNat i

/-- 1 for true. -/
def b2n (x : Bool) : Nat := if x then 1 else 0

/-- A word with one bit set, or zero. -/
def bitWord (x : Bool) (i : Nat) : Word := if x then BitVec.ofNat 32 (2 ^ i) else 0#32

/-- The number whose little-endian bytes these are. -/
def leNat : List Byte → Nat
  | [] => 0
  | x :: l => x.toNat + 256 * leNat l

/-- The number whose big-endian bytes these are (R128). -/
def beNat (l : List Byte) : Nat := l.foldl (fun n x => n * 256 + x.toNat) 0

/-- The `n` little-endian bytes of a number. -/
def leBytes : Nat → Nat → List Byte
  | 0, _ => []
  | n + 1, x => BitVec.ofNat 8 (x % 256) :: leBytes n (x / 256)

/-- The `n` big-endian bytes of a number. -/
def beBytes (n x : Nat) : List Byte := (leBytes n x).reverse

/-- The little-endian bytes of a list of words. -/
def wordsBytes (ws : List Word) : List Byte := ws.flatMap (fun w => leBytes 4 w.toNat)

/-- `n` bytes from offset `off`, zero past the end. -/
def sliceBytes (l : List Byte) (off n : Nat) : List Byte :=
  let s := (l.drop off).take n
  s ++ List.replicate (n - s.length) 0#8

/-- Word `i` of a record (R7). -/
def wordAt (l : List Byte) (i : Nat) : Word := BitVec.ofNat 32 (leNat (sliceBytes l (4 * i) 4))

/-- A list with `l` written over it from offset `off`. -/
def overlay (base : List Byte) (off : Nat) (l : List Byte) : List Byte :=
  base.take off ++ l ++ base.drop (off + l.length)

/-- Bytes padded with zeros to a multiple of `m`. -/
def padTo (m : Nat) (l : List Byte) : List Byte := l ++ List.replicate (ceilDiv l.length m * m - l.length) 0#8

/-- Bytewise XOR. -/
def xorBytes (x y : List Byte) : List Byte := List.zipWith (fun a b => a ^^^ b) x y

/-- Cut a list into pieces of at most `n`, in order; `fuel` bounds the number of pieces. -/
def chunk {α : Type} (n : Nat) : Nat → List α → List (List α)
  | 0, _ => []
  | _ + 1, [] => []
  | f + 1, l => l.take n :: chunk n f (l.drop n)

/-- The signed value of a 12-bit reading in 1/16 °C. -/
def tempOf (t : BitVec 12) : Int := t.toInt

end Sys2Proof.Machine
end

