-- ==== Sys2Proof/Machine/Fp.lean ====
section
/-! DEFINITION. Floating-point numbers: decoding, rounding and encoding of every format, exact arithmetic, stochastic generators and the matrix unit's groups (chapter 07). -/
namespace Sys2Proof.Machine

/-- The floating-point formats of R198. -/
inductive Fmt where
  | fp32 | bf16 | fp16 | e4m3 | e5m2
  deriving DecidableEq, Repr

/-- Exponent bits, fraction bits and bias (table "floating-point encodings"). -/
def Fmt.eb : Fmt → Nat | .fp32 => 8 | .bf16 => 8 | .fp16 => 5 | .e4m3 => 4 | .e5m2 => 5
def Fmt.mb : Fmt → Nat | .fp32 => 23 | .bf16 => 7 | .fp16 => 10 | .e4m3 => 3 | .e5m2 => 2
def Fmt.bias : Fmt → Nat | .fp32 => 127 | .bf16 => 127 | .fp16 => 15 | .e4m3 => 7 | .e5m2 => 15
/-- Canonical NaN (R200), code of infinity where there is one, largest finite code, bytes of an element. -/
def Fmt.canon : Fmt → Nat | .fp32 => 0x7FC00000 | .bf16 => 0x7FC0 | .fp16 => 0x7E00 | .e4m3 => 0x7F | .e5m2 => 0x7E
def Fmt.infCode : Fmt → Option Nat
  | .fp32 => some 0x7F800000 | .bf16 => some 0x7F80 | .fp16 => some 0x7C00 | .e4m3 => none | .e5m2 => some 0x7C
def Fmt.maxCode : Fmt → Nat | .fp32 => 0x7F7FFFFF | .bf16 => 0x7F7F | .fp16 => 0x7BFF | .e4m3 => 0x7E | .e5m2 => 0x7B
def Fmt.bytes : Fmt → Nat | .fp32 => 4 | .bf16 => 2 | .fp16 => 2 | .e4m3 => 1 | .e5m2 => 1
def Fmt.isMx : Fmt → Bool | .e4m3 => true | .e5m2 => true | _ => false

/-- A number exactly: NaN, an infinity, or ± m × 2^e. -/
inductive Num where
  | nan (neg : Bool)
  | inf (neg : Bool)
  | fin (neg : Bool) (m : Nat) (e : Int)
  deriving DecidableEq, Repr

def Num.isNan : Num → Bool | .nan _ => true | _ => false
def Num.isInf : Num → Bool | .inf _ => true | _ => false
def Num.isFin : Num → Bool | .fin _ _ _ => true | _ => false
def Num.neg : Num → Bool | .nan s => s | .inf s => s | .fin s _ _ => s
def Num.isZero : Num → Bool | .fin _ m _ => m == 0 | _ => false
def Num.zero : Num := .fin false 0 0

/-- The value of a code (R198); an exponent field of zero reads as zero with its sign (R199). -/
def Fmt.decode (f : Fmt) (x : Nat) : Num :=
  let s := bitAt x (f.eb + f.mb)
  let e := bits x f.mb f.eb
  let r := bits x 0 f.mb
  if f = .e4m3 ∧ x % 128 = 0x7F then .nan s
  else if f ≠ .e4m3 ∧ e = 2 ^ f.eb - 1 then (if r = 0 then .inf s else .nan s)
  else if e = 0 then .fin s 0 0
  else .fin s (2 ^ f.mb + r) ((e : Int) - f.bias - f.mb)

/-- Rounding modes: nearest even, stochastic with 16 random bits, and the directed ones of R230. -/
inductive Rm where
  | rne | sr (r : Nat) | up | down
  deriving DecidableEq, Repr

/-- A magnitude rounded to `mb` fraction bits with an unbounded exponent (R202, R207, R208). -/
def roundMag (mb : Nat) (neg : Bool) (rm : Rm) (m : Nat) (e : Int) : Nat × Int :=
  let l := m.log2
  if l ≤ mb then (m * 2 ^ (mb - l), e - ((mb - l : Nat) : Int))
  else
    let k := l - mb
    let t := m / 2 ^ k
    let rest := m % 2 ^ k
    let carry : Bool := match rm with
      | .rne => decide (2 ^ k < 2 * rest) || (decide (2 * rest = 2 ^ k) && decide (t % 2 = 1))
      | .sr r => decide (65536 ≤ rest * 65536 / 2 ^ k + r)
      | .up => !neg && decide (rest ≠ 0)
      | .down => neg && decide (rest ≠ 0)
    (if carry then t + 1 else t, e + (k : Int))

/-- Order of two magnitudes m × 2^e. -/
def magLt (m : Nat) (e : Int) (n : Nat) (f : Int) : Bool :=
  let d := min e f
  decide (m * 2 ^ (e - d).toNat < n * 2 ^ (f - d).toNat)

/-- A code written, with the flags it sets; `nanw` is a NaN written from a source that is none (SIZ_NAN_CNT). -/
structure Enc where
  code : Nat
  ovf : Bool
  unf : Bool
  nanw : Bool
  deriving DecidableEq, Repr

/-- Rounding, overflow and flush into a format (R200, R202 to R204). -/
def Fmt.encode (f : Fmt) (sat : Bool) (rm : Rm) (x : Num) : Enc :=
  let sign (s : Bool) : Nat := if s then 2 ^ (f.eb + f.mb) else 0
  let plain (c : Nat) : Enc := { code := c, ovf := false, unf := false, nanw := false }
  match x with
  | .nan s => plain (f.canon + sign s)
  | .inf s => (match f.infCode with
      | some c => plain (c + sign s)
      | none => { code := f.canon + sign s, ovf := false, unf := false, nanw := true })
  | .fin s m e =>
    if m = 0 then plain (sign s)
    else
      let r := roundMag f.mb s rm m e
      let top := 2 ^ (f.mb + 1) - 1
      let topFrac := f.maxCode % 2 ^ f.mb
      let maxE : Int := ((f.maxCode / 2 ^ f.mb : Nat) : Int) - f.bias - f.mb
      if magLt (min top (2 ^ f.mb + topFrac)) maxE r.1 r.2 then
        (if sat then { code := f.maxCode + sign s, ovf := true, unf := false, nanw := false }
         else match f.infCode with
          | some c => { code := c + sign s, ovf := true, unf := false, nanw := false }
          | none => { code := f.canon + sign s, ovf := true, unf := false, nanw := true })
      else
        let l := r.1.log2
        let lead : Int := r.2 + (l : Int)
        if lead < 1 - (f.bias : Int) then { code := sign s, ovf := false, unf := true, nanw := false }
        else plain (sign s + (lead + f.bias).toNat * 2 ^ f.mb + (r.1 / 2 ^ (l - f.mb) - 2 ^ f.mb))

/-! ## Exact arithmetic (R200, R201) -/

/-- A signed magnitude at an exponent. -/
def signedAt (s : Bool) (m : Nat) (e d : Int) : Int :=
  let v : Int := ((m * 2 ^ (e - d).toNat : Nat) : Int)
  if s then -v else v

/-- Exact sum; an exact zero is +0 unless both are −0. -/
def Num.add : Num → Num → Num
  | .nan _, _ => .nan false
  | _, .nan _ => .nan false
  | .inf s, .inf t => if s = t then .inf s else .nan false
  | .inf s, _ => .inf s
  | _, .inf t => .inf t
  | .fin s m e, .fin t n f =>
    if m = 0 ∧ n = 0 then .fin (s && t) 0 0
    else
      let d := min e f
      let v := signedAt s m e d + signedAt t n f d
      if v = 0 then .fin false 0 0 else .fin (decide (v < 0)) v.natAbs d

/-- Exact product. -/
def Num.mul : Num → Num → Num
  | .nan _, _ => .nan false
  | _, .nan _ => .nan false
  | .inf s, .inf t => .inf (s != t)
  | .inf s, .fin t n _ => if n = 0 then .nan false else .inf (s != t)
  | .fin s m _, .inf t => if m = 0 then .nan false else .inf (s != t)
  | .fin s m e, .fin t n f => if m = 0 ∨ n = 0 then .fin (s != t) 0 0 else .fin (s != t) (m * n) (e + f)

def Num.negate : Num → Num
  | .nan s => .nan s
  | .inf s => .inf (!s)
  | .fin s m e => .fin (!s) m e

def Num.sub (x y : Num) : Num := match y with | .nan _ => .nan false | _ => x.add y.negate

/-- Quotient with a sticky bit below `p` bits: exact for rounding to nearest of fewer bits. -/
def Num.divAt (p : Nat) : Num → Num → Num
  | .nan _, _ => .nan false
  | _, .nan _ => .nan false
  | .inf _, .inf _ => .nan false
  | .inf s, .fin t _ _ => .inf (s != t)
  | .fin s _ _, .inf t => .fin (s != t) 0 0
  | .fin s m e, .fin t n f =>
    if n = 0 then (if m = 0 then .nan false else .inf (s != t))
    else if m = 0 then .fin (s != t) 0 0
    else
      let k := p + n.log2 + 1 - m.log2
      let q := m * 2 ^ k / n
      let sticky := if m * 2 ^ k % n = 0 then 0 else 1
      .fin (s != t) (2 * q + sticky) (e - f - (k : Int) - 1)

/-- Integer square root by bits from `b` down; `acc` is the root so far. -/
def isqrtAux (n : Nat) : Nat → Nat → Nat
  | 0, acc => acc
  | b + 1, acc =>
    let t := acc + 2 ^ b
    isqrtAux n b (if t * t ≤ n then t else acc)

def isqrt (n : Nat) : Nat := isqrtAux n (n.log2 / 2 + 1) 0

/-- Square root with a sticky bit below `p` bits. -/
def Num.sqrtAt (p : Nat) : Num → Num
  | .nan _ => .nan false
  | .inf s => if s then .nan false else .inf false
  | .fin s m e =>
    if m = 0 then .fin s 0 0
    else if s then .nan false
    else
      let k := 2 * p + (if (e - 2 * (p : Int)) % 2 = 0 then 0 else 1)
      let v := m * 2 ^ k
      let r := isqrt v
      let sticky := if r * r = v then 0 else 1
      .fin false (2 * r + sticky) ((e - (k : Int)) / 2 - 1)

/-- Order of two numbers that are not NaN: −1, 0 or 1. -/
def Num.cmp : Num → Num → Int
  | .inf s, .inf t => if s = t then 0 else if s then -1 else 1
  | .inf s, _ => if s then -1 else 1
  | _, .inf t => if t then 1 else -1
  | .fin s m e, .fin t n f =>
    let d := min e f
    let v := signedAt s m e d - signedAt t n f d
    if v < 0 then -1 else if v = 0 then 0 else 1
  | _, _ => 0

/-- Ordered comparisons are false with a NaN (R201). -/
def Num.lt (x y : Num) : Bool := !x.isNan && !y.isNan && decide (x.cmp y < 0)
def Num.le (x y : Num) : Bool := !x.isNan && !y.isNan && decide (x.cmp y ≤ 0)
def Num.eq (x y : Num) : Bool := !x.isNan && !y.isNan && decide (x.cmp y = 0)

/-- minimumNumber and maximumNumber of IEEE 754-2019, −0 below +0 (R201). -/
def Num.min (x y : Num) : Num :=
  if x.isNan then (if y.isNan then .nan false else y) else if y.isNan then x
  else if x.cmp y < 0 then x else if 0 < x.cmp y then y else if x.neg then x else y
def Num.max (x y : Num) : Num :=
  if x.isNan then (if y.isNan then .nan false else y) else if y.isNan then x
  else if x.cmp y < 0 then y else if 0 < x.cmp y then x else if x.neg then y else x

def Num.abs : Num → Num
  | .nan s => .nan s
  | .inf _ => .inf false
  | .fin _ m e => .fin false m e

/-- ⌊log2 |x|⌋ of a finite number that is not zero. -/
def Num.log2 : Num → Int
  | .fin _ m e => e + (m.log2 : Int)
  | _ => 0

/-- A number times a power of two. -/
def Num.scale (x : Num) (k : Int) : Num :=
  match x with
  | .fin s m e => .fin s m (e + k)
  | y => y

/-! ## FP32 (R201 to R204) -/

def f32 (x : Nat) : Num := Fmt.fp32.decode x
/-- A number rounded once to FP32, overflowing to infinity. -/
def toF32 (x : Num) : Enc := Fmt.fp32.encode false .rne x
def f32code (x : Num) : Nat := (toF32 x).code
/-- The number that an exact result becomes in FP32. -/
def Num.r32 (x : Num) : Num := f32 (f32code x)
/-- A natural number as a number. -/
def Num.ofNat (n : Nat) : Num := .fin false n 0
/-- An FP32 value that a word holds. -/
def wordF (w : Word) : Num := f32 w.toNat

/-! ## Directed rounding (R229, R230, R241) -/

/-- An exact number rounded to FP32 toward +∞ or −∞; the direction holds through overflow and flush (R230). -/
def dirF32 (up : Bool) (x : Num) : Num :=
  match x with
  | .fin s m e =>
    if m = 0 then x
    else
      let away := if up then !s else s
      let r := roundMag 23 s (if up then .up else .down) m e
      let top : Int := r.2 + (r.1.log2 : Int)
      if 128 ≤ top then (if away then .inf s else .fin s (2 ^ 24 - 1) 104)
      else if top < -126 then (if away then .fin s 1 (-126) else .fin s 0 0)
      else .fin s r.1 r.2
  | .nan _ => .nan false
  | y => y

/-- Sum rounded in a direction; an exact zero of numbers that are not both +0 is −0 toward −∞. -/
def dirAdd (up : Bool) (x y : Num) : Num :=
  let r := x.add y
  if r.isZero && !up && (x.neg || y.neg) then .fin true 0 0 else dirF32 up r

def dirSub (up : Bool) (x y : Num) : Num := match y with | .nan _ => .nan false | _ => dirAdd up x y.negate
def dirMul (up : Bool) (x y : Num) : Num := dirF32 up (x.mul y)
def dirSqrt (up : Bool) (x : Num) : Num := dirF32 up (x.sqrtAt 40)

/-- Bounds of e^y in units of 2^−p for y = Y ÷ 2^p, 0 ≤ y < 1: `n` terms of the series, the last term, and the sum so far. -/
def expSeries (p y : Nat) : Nat → Nat → Nat → Nat → Nat
  | 0, _, _, acc => acc
  | n + 1, i, term, acc =>
    let t := term * y / 2 ^ p / i
    expSeries p y n (i + 1) t (acc + t)

/-- Repeated squaring of a bound in units of 2^−p; `pad` is added at each step. -/
def sqChain (p pad : Nat) : Nat → Nat → Nat
  | 0, x => x
  | n + 1, x => sqChain p pad n (x * x / 2 ^ p + pad)

/-- A lower and an upper bound of e^|x| in units of 2^−300, for |x| = m × 2^e below 256. -/
def expBounds (m : Nat) (e : Int) : Nat × Nat :=
  let p := 300
  -- |x| ÷ 2^9, which 2^−300 represents exactly
  let y := if 0 ≤ e + 291 then m * 2 ^ (e + 291).toNat else m / 2 ^ (-(e + 291)).toNat
  let lo := expSeries p y 60 1 (2 ^ p) (2 ^ p)
  (sqChain p 0 9 lo, sqChain p 1 9 (lo + 64))

/-- exp↑ (R241): the smallest FP32 value at or above e^x. -/
def expUp (x : Num) : Num :=
  match x with
  | .nan _ => .nan false
  | .inf s => if s then .fin false 1 (-126) else .inf false
  | .fin s m e =>
    if m = 0 then .fin false 1 0
    else if magLt 200 0 m e then (if s then .fin false 1 (-126) else .inf false)
    else
      let b := expBounds m e
      let lo := if s then 2 ^ 600 / b.2 else b.1
      dirF32 true (.fin false (2 * lo + 1) (-301))

/-! ## Stochastic rounding (R205 to R207) -/

/-- xorshift32 (section "Stochastic rounding"). -/
def xorshift32 (x : Word) : Word :=
  let a := x ^^^ (x <<< 13)
  let b := a ^^^ (a >>> 17)
  b ^^^ (b <<< 5)

/-- seed_lane (section "Stochastic rounding"). -/
def seedLane (seed : DWord) (lane : Nat) : Word :=
  let x := BitVec.ofNat 32 seed.toNat ^^^ BitVec.ofNat 32 (seed.toNat / 2 ^ 32) ^^^ BitVec.ofNat 32 (lane * 0x9E3779B9)
  if x = 0#32 then 0x9E3779B9#32 else x

/-- The random bits that a generator's state gives. -/
def srBits (x : Word) : Nat := x.toNat / 65536

/-! ## MX blocks (R211, R212) -/

/-- The value of an element of an MX block (R211). -/
def mxValue (f : Fmt) (elem scale : Nat) : Num :=
  let v := f.decode elem
  if scale = 0xFF then .nan v.neg
  else match v with
    | .fin s m e => .fin s m (e + scale - 127)
    | y => y

/-- emax of R212. -/
def Fmt.emax : Fmt → Int | .e4m3 => 8 | _ => 15

/-- The scale code of a block of values (R212). -/
def mxScale (f : Fmt) (vals : List Num) : Nat :=
  let amax := vals.foldl (fun (m : Num) v => if v.isFin then (if m.lt v.abs then v.abs else m) else m) Num.zero
  if amax.isZero then 0x7F
  else Int.toNat (Max.max 0 (Min.min 254 (amax.log2 - f.emax + 127)))

/-- What the conversion of one element counts. -/
structure Tally where
  ovf : Nat
  unf : Nat
  nan : Nat
  clamp : Nat
  sr : Nat
  deriving DecidableEq, Repr

def Tally.zero : Tally := { ovf := 0, unf := 0, nan := 0, clamp := 0, sr := 0 }
def Tally.add (x y : Tally) : Tally :=
  { ovf := x.ovf + y.ovf, unf := x.unf + y.unf, nan := x.nan + y.nan, clamp := x.clamp + y.clamp, sr := x.sr + y.sr }

/-- One element quantized with a block's scale (R212): a clamp sets no OVF. -/
def mxElem (f : Fmt) (scale : Nat) (v : Num) (rm : Rm) : Nat × Tally :=
  let q := v.scale (127 - (scale : Int))
  let e := f.encode true rm q
  let sr := match rm with | .sr _ => b2n (v.isFin && !v.isZero) | _ => 0
  (e.code, { ovf := 0, unf := b2n e.unf, nan := b2n e.nanw, clamp := b2n e.ovf, sr := sr })

/-! ## The matrix unit's groups (R213 to R217) -/

/-- A product of two elements as (sign, significand product, its exponent): r × 2^x with r in [1, 2). -/
def prodX (m n : Nat) (e f : Int) : Int := e + f + ((m * n).log2 : Int)

/-- Magnitude of a product in the window, weights down to 2^−33 of 2^emax (R214, R215). -/
def winMag (p : Nat) (x emax : Int) : Nat :=
  let r := p * 2 ^ 33 / 2 ^ p.log2
  r / 2 ^ (emax - x).toNat

/-- The result of a group of 32 products (R213 to R217), with its flags. -/
def groupResult (fa fb : Fmt) (a b : List Nat) (sa sb : Nat) : Enc :=
  let va := a.map fa.decode
  let vb := b.map fb.decode
  let prods := List.zipWith (fun x y => (x, y)) va vb
  let plain (c : Nat) : Enc := { code := c, ovf := false, unf := false, nanw := false }
  let infs := prods.filterMap (fun p => if p.1.isInf || p.2.isInf then some (p.1.neg != p.2.neg) else none)
  let infZero := prods.any (fun p => (p.1.isInf && p.2.isZero) || (p.1.isZero && p.2.isInf))
  let fins := prods.filterMap (fun p => match p.1, p.2 with
    | .fin s m e, .fin t n f => if m = 0 ∨ n = 0 then none else some (s != t, m * n, prodX m n e f)
    | _, _ => none)
  if sa = 0xFF ∨ sb = 0xFF then plain Fmt.fp32.canon
  else if prods.any (fun p => p.1.isNan || p.2.isNan) || infZero then plain Fmt.fp32.canon
  else if infs.contains true && infs.contains false then plain Fmt.fp32.canon
  else match infs with
    | s :: _ => plain (0x7F800000 + if s then 2 ^ 31 else 0)
    | [] =>
      match fins with
      | [] => plain 0
      | p :: ps =>
        let emax := ps.foldl (fun (m : Int) q => Max.max m q.2.2) p.2.2
        let v := (p :: ps).foldl (fun (v : Int) q =>
          let w : Int := ((winMag q.2.1 q.2.2 emax : Nat) : Int)
          if q.1 then v - w else v + w) 0
        let t : Int := (sa : Int) + sb - 254
        if v = 0 then plain 0 else toF32 (.fin (decide (v < 0)) v.natAbs (emax + t - 33))

/-- The FP32 accumulator takes a group (R216): the code, and whether OVF and UNF are set by either step. -/
def accGroup (acc : Nat) (g : Enc) : Enc :=
  let r := toF32 ((f32 acc).add (f32 g.code))
  { code := r.code, ovf := r.ovf || g.ovf, unf := r.unf || g.unf, nanw := false }

end Sys2Proof.Machine
end

