-- ==== Sys2Proof/Machine/Elem.lean ====
section
/-! DEFINITION. Base-2 exponential and logarithm, exact enough that one rounding gives the correctly rounded result of R340. -/
namespace Sys2Proof.Machine

/-- Roots 2^(2^−i) for i = 1 up, in units of 2^−160, multiplied where the fraction has a bit: `frac` counts units of 2^−`n`. -/
def exp2Frac : Nat → Nat → Nat → Nat → Nat
  | 0, _, _, acc => acc
  | n + 1, frac, root, acc =>
    let r := isqrt (root * 2 ^ 160)
    exp2Frac n (frac % 2 ^ n) r (if frac / 2 ^ n % 2 = 1 then acc * r / 2 ^ 160 else acc)

/-- 2^x, with a sticky bit below 160 bits when it is not exact. -/
def Num.exp2 : Num → Num
  | .nan _ => .nan false
  | .inf s => if s then Num.zero else .inf false
  | .fin s m e =>
    if m = 0 then .ofNat 1
    -- |x| below 2^−40: the result lies beside 1
    else if e + (m.log2 : Int) < -40 then (if s then .fin false (2 ^ 41 - 1) (-41) else .fin false (2 ^ 41 + 1) (-41))
    -- |x| of 2^12 and above lies beyond every format
    else if 12 ≤ e + (m.log2 : Int) then (if s then .fin false 1 (-5000) else .fin false 1 5000)
    else if 0 ≤ e then .fin false 1 (if s then -((m * 2 ^ e.toNat : Nat) : Int) else ((m * 2 ^ e.toNat : Nat) : Int))
    else
      let n := (-e).toNat
      let v : Int := if s then -(m : Int) else m
      let k := v / ((2 ^ n : Nat) : Int)
      let frac := (v % ((2 ^ n : Nat) : Int)).toNat
      if frac = 0 then .fin false 1 k
      else .fin false (2 * exp2Frac n frac (2 ^ 161) (2 ^ 160) + 1) (k - 161)

/-- Bits of log2 of y ÷ 2^240, for 1 ≤ y ÷ 2^240 < 2, by repeated squaring. -/
def log2Frac : Nat → Nat → Nat → Nat
  | 0, _, acc => acc
  | n + 1, y, acc =>
    let q := y * y / 2 ^ 240
    if 2 ^ 241 ≤ q then log2Frac n (q / 2) (2 * acc + 1) else log2Frac n q (2 * acc)

/-- log2 x, with a sticky bit below 100 bits when it is not exact; log2 of a zero is −∞ and of a negative number NaN (R201, log entry 47). -/
def Num.log2v : Num → Num
  | .nan _ => .nan false
  | .inf s => if s then .nan false else .inf false
  | .fin s m e =>
    if m = 0 then .inf true
    else if s then .nan false
    else
      let l := m.log2
      let k : Int := e + (l : Int)
      if m = 2 ^ l then .fin (decide (k < 0)) k.natAbs 0
      else
        let v : Int := 2 * (k * ((2 ^ 100 : Nat) : Int) + (log2Frac 100 (m * 2 ^ 240 / 2 ^ l) 0 : Nat)) + 1
        .fin (decide (v < 0)) v.natAbs (-101)

end Sys2Proof.Machine
end

