-- ==== Sys2Proof/Config.lean ====
section
/-! DEFINITION. What the spec leaves to each part or leaves open: constants without a body, so that no proof can see a value. -/
namespace Sys2Proof

/-- Free values: the value that the spec does not state, by the model's own counter (log entry 5). -/
opaque Config.freeWord : Nat → Word

/-- Free values of 64 bits. -/
opaque Config.freeDWord : Nat → DWord

/-- The set of the translation cache that a sheet of a tenant falls into (R400 gives 8 ways and 16,384 entries, not the set). -/
opaque Config.xlateSet : Nat → Nat → Nat

/-- The set of a Lath cache part that a line falls into, by number of sets (R348). -/
opaque Config.lathSet : Nat → Nat → Nat

/-- The set of a Rafter node cache that a record address falls into (R253). -/
opaque Config.nodeSet : Nat → Nat

/-- The post-stop draw in microwatts that the Calender computes at an abrupt stop (R96, R514). -/
opaque Config.postStopDraw : Nat → Nat

/-- The bank of a pseudo-channel that holds a logical row segment (R413 fixes no map). -/
opaque Config.bankOf : Nat → Nat

/-- Height, core die density and pin rate, by the codes of the STACK section, that a stack's 128-bit identity names (R58; the layout of the identity is JEDEC's and not stated). -/
opaque Config.stackKind : List Word → Nat × Nat × Nat

/-- Power in microwatts that a maintenance window declares (R94, R430 name it and give no figure). -/
opaque Config.windowPower : Nat

/-- Slate spares of a stack in all its banks. -/
opaque Config.slateTotal : Nat

/-- Refreshes that fall due to a stack in a CK_MGMT cycle at a refresh rate (R427 gives the rates, the stack's JEDEC timing the interval). -/
opaque Config.refreshDue : Nat → Nat → Nat → Nat

/-- A logged row of an Eave (pseudo-channel, segment) finds a post-package repair resource at a start (R440).  -/
opaque Config.repairLeft : Nat → Nat → Nat → Bool

/-- Rows of the Slate reserve in each bank (R438: 0.001 of the rows of the bank). -/
opaque Config.slateRows : Nat

/-- Result of an integer shift by 32 or more, by operation and operands (R339 states none). -/
opaque Config.shiftOver : Nat → Word → Word → Word

/-- The arrangement of pack and unpack of bytes and halves, by operation and operands (R339 states none). -/
opaque Config.packWord : Nat → Word → Word → Word → Word

end Sys2Proof
end

