-- ==== Sys2Proof/Machine/Map.lean ====
section
/-! DEFINITION. The management map (R511): the byte address of every register that an event counts in, sets or records in. -/
namespace Sys2Proof.Machine.Map

/-- Register sets by base. -/
def startBase : Nat := 0x1000
def calBase : Nat := 0x2000
def runBase : Nat := 0x3000
def scrBase : Nat := 0x4000
def vatBase : Nat := 0x5000
def telBase : Nat := 0x6000
def flsBase : Nat := 0x10000
def seatBase (n : Nat) : Nat := 0x20000 + 0x100 * n
def fieldBase (f : Nat) : Nat := 0x100000 + 0x10000 * f
def sizBase (f : Nat) : Nat := fieldBase f
def rafBase (f : Nat) : Nat := fieldBase f + 0x1000
def mldBase (f : Nat) : Nat := fieldBase f + 0x2000
def yeaBase (f : Nat) : Nat := fieldBase f + 0x3000
def couBase (f : Nat) : Nat := fieldBase f + 0x4000
def lthBase (f : Nat) : Nat := fieldBase f + 0x5000
def fltBase (f : Nat) : Nat := fieldBase f + 0x6000
def splBase (f : Nat) : Nat := fieldBase f + 0x7000
def eavBase (k : Nat) : Nat := 0x180000 + 0x100 * k
def rdgBase : Nat := 0x200000

/-- Seat registers (chapter 02). -/
def seatCorrCnt (n : Nat) : Nat := seatBase n + 0x008
def seatErr (n : Nat) : Nat := seatBase n + 0x00C
/-- Calender and thermal registers (chapter 03). -/
def calLimitedCnt : Nat := calBase + 0x01C
def calEvents : Nat := calBase + 0x020
def thmThrottleCnt : Nat := calBase + 0x028
/-- Flashing registers (chapter 05). -/
def flsRangeCnt : Nat := flsBase + 0x018
def flsSeqCnt : Nat := flsBase + 0x01C
def flsBreakCnt : Nat := flsBase + 0x020
def flsGlitchCnt : Nat := flsBase + 0x024
def flsSrcErr (n : Nat) : Nat := flsBase + 0x040 + 4 * n
/-- Run registers (chapter 06). -/
def runLaunchCnt : Nat := runBase + 0x040
def runEndCnt : Nat := runBase + 0x044
def runKillCnt : Nat := runBase + 0x048
def runLastKill : Nat := runBase + 0x04C
/-- Sizing registers (chapter 07). -/
def sizTileCnt (f : Nat) : Nat := sizBase f
def sizOvfCnt (f : Nat) : Nat := sizBase f + 0x004
def sizUnfCnt (f : Nat) : Nat := sizBase f + 0x008
def sizNanCnt (f : Nat) : Nat := sizBase f + 0x00C
def sizClampCnt (f : Nat) : Nat := sizBase f + 0x010
def sizSrCnt (f : Nat) : Nat := sizBase f + 0x014
/-- Rafter registers (chapter 08). -/
def rafNodeCnt (f : Nat) : Nat := rafBase f + 0x00C
def rafLeafCnt (f : Nat) : Nat := rafBase f + 0x010
def rafHitCnt (f : Nat) : Nat := rafBase f + 0x014
def rafNcHit (f : Nat) : Nat := rafBase f + 0x018
def rafNcMiss (f : Nat) : Nat := rafBase f + 0x01C
def rafPruneCnt (f : Nat) : Nat := rafBase f + 0x020
def rafErr (f : Nat) : Nat := rafBase f + 0x02C
/-- Mould registers (chapter 09). -/
def mldJobCnt (f : Nat) : Nat := mldBase f + 0x004
def mldKeyCnt (f : Nat) : Nat := mldBase f + 0x008
def mldPrimCnt (f : Nat) : Nat := mldBase f + 0x00C
def mldNodeCnt (f : Nat) : Nat := mldBase f + 0x010
def mldErr (f : Nat) : Nat := mldBase f + 0x018
def mldLastErr (f : Nat) : Nat := mldBase f + 0x01C
/-- Yealm and Couch registers (chapter 10). -/
def yeaRayCnt (f : Nat) : Nat := yeaBase f + 0x004
def yeaYealmCnt (f : Nat) : Nat := yeaBase f + 0x008
def yeaFullCnt (f : Nat) : Nat := yeaBase f + 0x00C
def yeaTokenWait (f : Nat) : Nat := yeaBase f + 0x010
def couHitCnt (f : Nat) : Nat := couBase f + 0x004
def couRecCnt (f : Nat) : Nat := couBase f + 0x008
def couBatchCnt (f : Nat) : Nat := couBase f + 0x00C
def couSpillCnt (f : Nat) : Nat := couBase f + 0x010
def couErr (f : Nat) : Nat := couBase f + 0x014
/-- Lath registers (chapter 12). -/
def lthItemCnt (f : Nat) : Nat := lthBase f + 0x00C
def lthIssueCnt (f : Nat) : Nat := lthBase f + 0x010
def lthLaneCnt (f : Nat) : Nat := lthBase f + 0x014
def lthMmaCnt (f : Nat) : Nat := lthBase f + 0x018
def lthAtomCnt (f : Nat) : Nat := lthBase f + 0x01C
def lthAtomOps (f : Nat) : Nat := lthBase f + 0x020
def lthConvWait (f : Nat) : Nat := lthBase f + 0x024
def lthCacheHit (f : Nat) : Nat := lthBase f + 0x028
def lthCacheMiss (f : Nat) : Nat := lthBase f + 0x02C
def lthErr (f : Nat) : Nat := lthBase f + 0x030
def lthLastErr (f : Nat) : Nat := lthBase f + 0x034
/-- Ridge registers (chapter 13). -/
def rdgDispCnt : Nat := rdgBase + 0x014
def rdgPreemptCnt : Nat := rdgBase + 0x018
def rdgHeldCnt : Nat := rdgBase + 0x01C
def rdgLaunchWait : Nat := rdgBase + 0x020
def rdgErr : Nat := rdgBase + 0x024
def rdgPrioDisp (p : Nat) : Nat := rdgBase + 0x100 + 4 * p
def rdgCoreItems (c : Nat) : Nat := rdgBase + 0x2004 + 16 * c
def rdgCoreBusy (c : Nat) : Nat := rdgBase + 0x2008 + 16 * c
def rdgCoreWdr (c : Nat) : Nat := rdgBase + 0x200C + 16 * c
def rdgQc (q : Nat) : Nat := rdgBase + 0x100008 + 16 * q
def rdgQd (q : Nat) : Nat := rdgBase + 0x10000C + 16 * q
/-- Felt, Purlin and Vatman registers (chapter 14). -/
def fltCorrCnt (f : Nat) : Nat := fltBase f + 0x008
def fltUncorrCnt (f : Nat) : Nat := fltBase f + 0x00C
def purXoutCnt (f : Nat) : Nat := fltBase f + 0x014
def purXinCnt (f : Nat) : Nat := fltBase f + 0x018
def vatXlateMiss : Nat := vatBase + 0x010
def vatPageinCnt : Nat := vatBase + 0x014
def vatPageoutCnt : Nat := vatBase + 0x018
def vatPageStall : Nat := vatBase + 0x01C
def vatHintCnt : Nat := vatBase + 0x020
def vatHintDrop : Nat := vatBase + 0x024
def vatHintLate : Nat := vatBase + 0x028
def vatFillCnt : Nat := vatBase + 0x02C
def vatErr : Nat := vatBase + 0x030
/-- Eave registers (chapter 15). -/
def eavCorrCnt (k : Nat) : Nat := eavBase k + 0x00C
def eavUncorrCnt (k : Nat) : Nat := eavBase k + 0x010
def eavHoldMax (k : Nat) : Nat := eavBase k + 0x018
def eavRetrainCnt (k : Nat) : Nat := eavBase k + 0x01C
def eavTimeoutCnt (k : Nat) : Nat := eavBase k + 0x024
def eavRemapCnt (k : Nat) : Nat := eavBase k + 0x028
def eavParRebuild (k : Nat) : Nat := eavBase k + 0x03C
def eavErr (k : Nat) : Nat := eavBase k + 0x048
/-- Splat registers (chapter 17). -/
def splBinPrim (f : Nat) : Nat := splBase f
def splBinEntry (f : Nat) : Nat := splBase f + 0x004
def splBinCull (f : Nat) : Nat := splBase f + 0x008
def splGrowCnt (f : Nat) : Nat := splBase f + 0x010
def splFragCnt (f : Nat) : Nat := splBase f + 0x014
def splHoldCnt (f : Nat) : Nat := splBase f + 0x018
def splPortBusy (f : Nat) : Nat := splBase f + 0x020
def splSkipCnt (f : Nat) : Nat := splBase f + 0x024
def splPackCnt (f : Nat) : Nat := splBase f + 0x028
def splPackRaw (f : Nat) : Nat := splBase f + 0x02C
def splErr (f : Nat) : Nat := splBase f + 0x030
def splLastErr (f : Nat) : Nat := splBase f + 0x034
/-- Screen registers (chapter 18). -/
def scrRecLost : Nat := scrBase + 0x018
def scrRotCnt : Nat := scrBase + 0x02C
def scrRotGiveup : Nat := scrBase + 0x030
def scrErr : Nat := scrBase + 0x038
/-- Telemetry registers (chapter 19). -/
def telAct (k : Nat) : Nat := telBase + 0x200 + 4 * k
def telSeatIn (n : Nat) : Nat := telBase + 0x260 + 4 * n
def telSeatOut (n : Nat) : Nat := telBase + 0x280 + 4 * n

end Sys2Proof.Machine.Map
end

