-- ==== Sys2Proof/Machine/TypesMem.lean ====
section
/-! DEFINITION. State of memory, the Vatman, the Eaves, Screen and telemetry (chapters 14, 15, 18 and 19). -/
namespace Sys2Proof.Machine

/-- Memory by block physical address (R386): rising addresses, no entry equal to what an unlisted address reads as. -/
abbrev Mem := List Host.Cell

/-- A physical zone: Eave, pseudo-channel, zone index (R418, R419). -/
structure Zone where
  eave : Nat
  pc : Nat
  idx : Nat
  deriving DecidableEq, Repr

/-- The kinds of zone row (R419). -/
inductive RowKind where
  | near (field : Nat) | spread | parity
  deriving DecidableEq, Repr

/-- A zone row: its interleave table and the sheet slots that R439 has retired. -/
structure ZRow where
  id : Nat
  kind : RowKind
  table : List Zone
  retired : List Nat
  /-- Zone copies in progress: column and new zone (R435, R436). -/
  copies : List (Nat × Zone)
  deriving DecidableEq, Repr

/-- Where a sheet is. -/
inductive Place where
  /-- Slot of a zone row in stack memory. -/
  | stack (row slot : Nat)
  /-- Evicted: slot of a far-tier device. -/
  | far (dev slot : Nat)
  /-- Lost under R65. -/
  | lost
  /-- Pages of a FELT object held in Felt. -/
  | felt
  deriving DecidableEq, Repr

/-- A page-in in progress (R402). -/
structure Paging where
  /-- The slot it goes to, once there is one. -/
  dst : Option (Nat × Nat)
  /-- Page that the access needs, fetched first. -/
  first : Nat
  /-- Pages whose reads are out, with the time each was sent. -/
  out : List (Nat × Nat)
  /-- Pages read and not yet written, and pages arrived. -/
  got : List Nat
  arrived : List Nat
  /-- The runs that need the data (R65). -/
  needs : List Need
  prefetch : Bool
  since : Nat
  deriving DecidableEq, Repr

/-- An eviction in progress (R404, R406). -/
structure Evict where
  dev : Nat
  slot : Nat
  /-- When the victim was chosen; its translations are removed 32 CK_CTL cycles later (R400). -/
  since : Nat
  removed : Bool
  /-- The far slot already holds the sheet as it is: nothing is written (R404). -/
  clean : Bool
  deriving DecidableEq, Repr

/-- One allocated sheet (R396). `key` is the tenant and the sheet number va ÷ 2 MiB. -/
structure Sheet where
  tenant : Nat
  num : Nat
  place : Place
  spar : Bool
  lastUse : Nat
  /-- Backed by a first touch (R398). -/
  touched : Bool
  /-- Held far copy (R404). -/
  farCopy : Option (Nat × Nat)
  dirty : Bool
  paging : Option Paging
  evict : Option Evict
  deriving DecidableEq, Repr

/-- An object (R394), or a range that a run maps: a course store (class 7, R460) or a BLEND window (class 8, R468). -/
structure Obj where
  tenant : Nat
  base : Nat
  pages : Nat
  /-- Class asked for and class placed. -/
  cls : Nat
  placed : Nat
  field : Nat
  rd : Bool
  wr : Bool
  ex : Bool
  spread : Bool
  /-- FELT held in Felt: physical address of each page, in the order of virtual addresses. -/
  felt : List Nat
  /-- Felt pages backed by a first touch. -/
  feltTouched : List Nat
  deriving DecidableEq, Repr

/-- A pending prefetch range (R324, R408). -/
structure PrefetchRange where
  tenant : Nat
  base : Nat
  len : Nat
  conf : Nat
  deadline : Word
  order : Nat
  deriving DecidableEq, Repr

/-- Runtime state of a tenant: its records and quotas (R139), open after phase 8. -/
structure Tenant where
  opened : Bool
  prioMax : Nat
  quotaHbm : Nat
  quotaFelt : Nat
  quotaFar : Nat
  deriving DecidableEq, Repr

/-- Who waits for a stack read. -/
inductive Requester where
  | seat (n num : Nat)
  | lath (core slot : Nat) (op : Nat)
  /-- A READ packet, by its tenant, stream and number. -/
  | packet (tenant stream seq : Nat)
  deriving DecidableEq, Repr

/-- A read outstanding at an Eave (R424, R425). -/
structure EaveRead where
  addr : Nat
  req : Requester
  at_ : Nat
  tries : Nat
  /-- In the hold queue of its pseudo-channel. -/
  held : Bool
  /-- How often a younger read of the open row of its bank has gone first (R501). -/
  passed : Nat
  deriving DecidableEq, Repr

/-- Health of a pseudo-channel (R434, R435, R437). -/
inductive PcHealth where
  | good | failing | dead | mappedOut
  deriving DecidableEq, Repr

/-- One pseudo-channel. -/
structure Pc where
  health : PcHealth
  /-- A retraining event is in progress, with the windows it has run and when the last closed (R432, R434). -/
  event : Option (Nat × Nat)
  /-- Corrected symbol errors of the last millisecond: when they were met, and how many (R432). -/
  corr : List (Nat × Nat)
  /-- Reading when the pseudo-channel was last trained. -/
  trainedTemp : BitVec 12
  /-- Response timeouts in succession. -/
  timeouts : Nat
  deriving DecidableEq, Repr

/-- A logical row moved to a Slate spare (R438): pseudo-channel, logical segment, count, and a copy in progress. -/
structure RowMove where
  pc : Nat
  seg : Nat
  count : Nat
  copying : Bool
  deriving DecidableEq, Repr

/-- One Eave and its stack (chapter 15). -/
structure Eave where
  inService : Bool
  /-- RESET_n of the stack. -/
  resetN : Bool
  start : Bool
  selfRefresh : Bool
  temp : BitVec 12
  hotFlag : Bool
  /-- 0 1×, 1 2×, 2 4× (R427). -/
  band : Nat
  /-- Refreshes owed (R427). -/
  owed : Nat
  pcs : Kv Nat Pc
  reads : List EaveRead
  /-- Sectors in the write queue, oldest first (R417). -/
  wq : List Nat
  /-- Row open in each bank (R501), by `bankKey`. -/
  openRow : Kv Nat Nat
  /-- XOR differences waiting: parity sector address and bytes (R422). -/
  par : List (Nat × List Byte)
  /-- Retraining window: pseudo-channel and when it opened (R433). -/
  window : Option (Nat × Nat)
  /-- Maintenance window: pseudo-channel and when it opened (R430). -/
  test : Option (Nat × Nat)
  /-- Pseudo-channels of a stack test still to do, and when its last window closed (R496). -/
  testTodo : List Nat
  testAt : Nat
  moves : List RowMove
  /-- Spares marked bad: pseudo-channel and bank (R438). -/
  badSpares : List (Nat × Nat)
  /-- Repair log: pseudo-channel, segment, count (R440). -/
  log : List (Nat × Nat × Nat)
  /-- Retired pages of the data space: pseudo-channel and page (R438, R439), and pages waiting for the Vatman. -/
  retired : List (Nat × Nat)
  retiring : List (Nat × Nat)
  scrubSeg : Nat
  scrubPass : Nat
  scrubAt : Nat
  /-- Since when no request and no window is held (R429). -/
  idleAt : Nat
  tempAt : Nat
  lastErr : Word
  /-- Identity words (R510). -/
  ident : List Word
  identValid : Bool
  deriving DecidableEq, Repr

/-- A repair record (R490), its four words. -/
structure RepairRec where
  w0 : Word
  w1 : Word
  w2 : Word
  w3 : Word
  deriving DecidableEq, Repr

/-- A report entry (R491), its four words. -/
abbrev ReportEntry := RepairRec

/-- State of one start-up group (R485 to R487): admitted by the Calender at `t0`, running since that admission, or ended at `t1`. -/
inductive GroupState where
  | admitted (t0 : Nat) | running (t0 : Nat) | ended (t1 : Nat)
  deriving DecidableEq, Repr

/-- What Screen's commands run: none, a start or block test over groups, one unit, one Eave (R497). -/
inductive ScreenCmd where
  | none | unit (id : Nat) | eave (k : Nat) | block (destructive : Bool)
  deriving DecidableEq, Repr

/-- A rotation test: waiting for drain and admission since `t0`, or running since `t0` (R492, R493). -/
inductive RotState where
  | idle | waiting (id t0 : Nat) | running (id t0 : Nat)
  deriving DecidableEq, Repr

/-- Screen (chapter 18). -/
structure Screen where
  records : List RepairRec
  reports : Kv Nat ReportEntry
  groups : Kv Nat GroupState
  rot : RotState
  rotNext : Nat
  rotAt : Nat
  rotPause : Bool
  /-- Unit that a UNIT command puts ahead of rotation order. -/
  unitNext : Option Nat
  cmd : ScreenCmd
  cmdArg : Word
  cmdStatus : Word
  recSel : Word
  rptSel : Word
  /-- Units out of service, by unit id (R488). -/
  out : List Nat
  /-- Rows mapped onto spare rows since the start: unit, array and row (R484). -/
  repaired : List (Nat × Nat × Nat)
  /-- Purlin planes out of service: mesh stop and plane (R488). -/
  planes : List (Nat × Nat)
  deriving DecidableEq, Repr

/-- A sampler slot (R503). -/
structure TelSlot where
  sel : Word
  val : Word
  delta : Word
  max : Word
  /-- The value of the sample before, absent after a restart (R504). -/
  prev : Option Word
  deriving DecidableEq, Repr

/-- Telemetry and error handling (chapter 19). -/
structure Tel where
  enable : Bool
  period : Nat
  seq : Word
  time : Word
  sampleAt : Nat
  slots : List TelSlot
  irqMask : Word
  fatalCause : Word
  fatalTime : Word
  /-- The CK_MGMT cycle in which the first block-fatal error arose (R507). -/
  fatalAt : Nat
  deriving DecidableEq, Repr

/-- An RC counter and its free-running twin (R502). -/
structure Ctr where
  val : Word
  twin : Word
  deriving DecidableEq, Repr

end Sys2Proof.Machine
end

