-- ==== Sys2Proof/Machine/Memory.lean ====
section
/-! DEFINITION. The memory as a canonical list of cells: rising addresses, no zero byte listed. What an unlisted address reads as is `unlisted`. -/
namespace Sys2Proof.Machine

/-- What a byte that nothing has written reads as (DESIGN CHOICE, log entry 4). -/
def unlisted : Byte := 0#8

/-- The byte at an address. -/
def Mem.read : Mem → Nat → Byte
  | [], _ => unlisted
  | (a, v) :: m, x => if a = x then v else Mem.read m x

/-- The memory with one byte written, in canonical form when it was in it. -/
def Mem.write : Mem → Nat → Byte → Mem
  | [], x, v => if v = unlisted then [] else [(x, v)]
  | (a, w) :: m, x, v =>
    if x < a then (if v = unlisted then (a, w) :: m else (x, v) :: (a, w) :: m)
    else if x = a then (if v = unlisted then m else (a, v) :: m)
    else (a, w) :: Mem.write m x v

/-- Bytes from an address up. -/
def Mem.readN (m : Mem) : Nat → Nat → List Byte
  | _, 0 => []
  | a, n + 1 => m.read a :: Mem.readN m (a + 1) n

/-- Bytes written from an address up. -/
def Mem.writeN : Mem → Nat → List Byte → Mem
  | m, _, [] => m
  | m, a, v :: l => Mem.writeN (m.write a v) (a + 1) l

/-- The memory with every cell of a range dropped: it then reads as unlisted. -/
def Mem.clear (m : Mem) (lo n : Nat) : Mem := m.filter (fun c => c.1 < lo || lo + n ≤ c.1)

/-- Cells in rising order of address above `lo`, none of them as an unlisted address reads. -/
def Mem.wfFrom : Option Nat → Mem → Bool
  | _, [] => true
  | none, (a, v) :: m => (v != unlisted) && Mem.wfFrom (some a) m
  | some lo, (a, v) :: m => decide (lo < a) && (v != unlisted) && Mem.wfFrom (some a) m

/-- The canonical form. -/
def Mem.wf (m : Mem) : Bool := Mem.wfFrom none m

/-- The memory in canonical form: of several cells at one address the first counts. -/
def Mem.canon (m : Mem) : Mem := m.foldr (fun c acc => Mem.write acc c.1 c.2) []

end Sys2Proof.Machine
end

