-- ==== Sys2Proof/Machine/TypesRun.lean ====
section
/-! DEFINITION. Runs, stations, edges, tiles and work items (chapters 06 and 13). -/
namespace Sys2Proof.Machine

/-- A run by its tenant and handle (R148). -/
structure RunRef where
  tenant : Nat
  handle : Word
  deriving DecidableEq, Repr

/-- A tile: header fields of R180 and its data. -/
structure Tile where
  fmt : Nat
  ovf : Bool
  unf : Bool
  last : Bool
  /-- Flag bits [15:11]. -/
  flags : Nat
  rows : Nat
  cols : Nat
  no : Nat
  dbytes : Nat
  seq : Nat
  data : List Byte
  deriving DecidableEq, Repr

/-- Station types, in the numbering of R173. -/
inductive StType where
  | size | vat | gate | mould | yealm | rafter | couch | lath | bin | blend | pack
  deriving DecidableEq, Repr

/-- A station entry of the descriptor (R173). -/
structure StationEntry where
  type : StType
  stage : Nat
  field : Nat
  pin : Bool
  units : Nat
  kernel : Nat
  split : Nat
  sheafs : Nat
  paramAddr : Nat
  paramLen : Nat
  gsource : Nat
  gout : Bool
  gstream : Nat
  gfmt : Nat
  codeAddr : Nat
  deriving DecidableEq, Repr

/-- An edge entry of the descriptor (R174). -/
structure EdgeEntry where
  src : Nat
  sport : Nat
  dst : Nat
  dport : Nat
  fmt : Nat
  depth : Nat
  rows : Nat
  cols : Nat
  deriving DecidableEq, Repr

/-- An edge in service: the tiles in its ring not yet taken, the tiles taken and not released, and whether the producer has closed it (R182, R183). -/
structure Edge where
  entry : EdgeEntry
  tiles : List Tile
  taken : Nat
  /-- Tiles emitted so far: the tile_no of the next. -/
  emitted : Nat
  closed : Bool
  /-- The last tile has been taken by the consumer. -/
  drained : Bool
  /-- Pool queue of the edge (R370). -/
  queue : Nat
  deriving DecidableEq, Repr

/-- An operand in a slot of a work item: a tile reference (R366). No chapter names a slot for a token, so tokens stand with the station that awaits them (log entry 123). -/
inductive Operand where
  | tile (t : Tile)
  deriving DecidableEq, Repr

/-- A Ridge token: a yealm's completion, posted to its YEALM station and to the COUCH that counts it (R368, R281, R299). -/
structure Token where
  run : RunRef
  station : Nat
  /-- Ordinal of the yealm tile in its edge. -/
  ordinal : Nat
  tree : Nat
  window : Nat
  yidx : Nat
  ycount : Nat
  /-- Hit entries that the token declares. -/
  hits : Nat
  deriving DecidableEq, Repr

/-- A work item in the matching store or spilled (R364 to R369). -/
structure Item where
  run : RunRef
  station : Nat
  ordinal : Nat
  slots : List (Nat × Operand)
  /-- Slots that it needs. -/
  need : Nat
  fired : Bool
  spilled : Bool
  prio : Nat
  deriving DecidableEq, Repr

/-- A dispatched item of a fixed-function unit: its unit within the field, and when it was dispatched (R361, R375). -/
structure Active where
  ordinal : Nat
  field : Nat
  unit : Nat
  slots : List (Nat × Operand)
  at_ : Nat
  /-- The unit has done the item's work; ITEM_COMPLETE may end it. -/
  done : Bool
  /-- The unit, or the slot of it that takes new items, is free again. -/
  freed : Bool
  deriving DecidableEq, Repr

end Sys2Proof.Machine
end

