-- ==== Sys2Proof/Machine/TypesLath.lean ====
section
/-! DEFINITION. State of the Lath cores: threads, sheafs, item slots, the Lath store and the matrix queue (chapter 12). -/
namespace Sys2Proof.Machine

/-- What a thread does (R335, R336, R342, R344). -/
inductive ThreadState where
  | running | exited | atSheaf | atBar
  deriving DecidableEq, Repr

/-- A thread (R335). Registers and local bytes not listed hold zero. -/
structure Thread where
  /-- Byte offset of the next instruction after the kernel header. -/
  pc : Nat
  regs : Kv Nat Word
  preds : BitVec 7
  /-- Outstanding operations of tokens 1 to 7 (R337). -/
  toks : List Nat
  /-- Stochastic-rounding generator (R205). -/
  gen : Word
  state : ThreadState
  /-- Registers that an earlier instruction has still to write (R337). -/
  busy : List Nat
  deriving DecidableEq, Repr

/-- A sheaf: its 32 threads and the time since which a thread waits at a sheaf-wide instruction (R343). -/
structure Sheaf where
  threads : List Thread
  waitAt : Option Nat
  deriving DecidableEq, Repr

/-- A work item in a slot of a core (R329, R335). -/
structure LItem where
  ordinal : Nat
  tiles : List (Nat × Tile)
  sheafs : List Sheaf
  ovf : Bool
  unf : Bool
  at_ : Nat
  deriving DecidableEq, Repr

/-- What an outstanding operation of a core does when it completes. -/
inductive LOpKind where
  /-- Write these bytes into registers, from the first register on: lane, register, bytes. -/
  | load (lanes : List (Nat × Nat × List Byte))
  | store
  /-- An atomic: the values its lanes receive. -/
  | atomic (lanes : List (Nat × Nat × List Byte))
  /-- FENCE.C and FENCE.F: what must complete first: operations by core and number, and a seat's LOADs and STOREs by seat and number. -/
  | fence (before : List (Nat × Nat)) (seats : List (Nat × Nat))
  /-- EMIT: the tile waits for lower-ordinal items (R360); its bytes as they stood at issue. -/
  | emit (port : Nat) (addr : Nat) (snap : List Byte)
  deriving DecidableEq, Repr

/-- An outstanding memory operation of one issue group. -/
structure LOp where
  id : Nat
  slot : Nat
  sheaf : Nat
  /-- Lanes of the group, whose token `tok` the completion frees. -/
  lanes : List Nat
  tok : Nat
  kind : LOpKind
  /-- Its global accesses: lane, address, bytes. -/
  ranges : List (Nat × Nat × Nat)
  /-- Status memory answers with (R361). -/
  status : Nat
  /-- Byte offset of the instruction, for detail form A. -/
  pc : Nat
  global : Bool
  deriving DecidableEq, Repr

/-- A queued matrix operation (R345, R346). -/
inductive MatKind where
  /-- MMA.T: the lane, the local addresses of A, B and C, the shape ÷ 8, 8 and 32, and the operands' bytes as they stood at issue. -/
  | tile (lane aAddr bAddr cAddr m n k : Nat) (a b c : List Byte)
  /-- MMA.SHEAF: per lane the operand registers as read and the two accumulators; the lanes that receive a result, and the first destination register. -/
  | sheaf (dst : Nat) (lanes : List Nat) (a b : List (List Byte)) (c : List Word) (acc : List Word)
  deriving DecidableEq, Repr

structure MatOp where
  slot : Nat
  sheaf : Nat
  tok : Nat
  accumulate : Bool
  aE5 : Bool
  bE5 : Bool
  kind : MatKind
  deriving DecidableEq, Repr

/-- A line of the cache part: run, line address, bytes (R348). -/
structure CacheLine where
  run : RunRef
  addr : Nat
  data : List Byte
  deriving DecidableEq, Repr

/-- A local window of an item slot (R334). -/
structure Window where
  /-- The run whose item last used it, by its place in the order in which runs opened, which no two share, and the station. -/
  run : Nat
  station : Nat
  /-- What bytes not listed hold: zero, or free values from this count on. -/
  base : Option Nat
  bytes : Kv Nat Byte
  deriving DecidableEq, Repr

/-- The launch a core hosts (R333). -/
structure LLaunch where
  run : RunRef
  station : Nat
  /-- Item slots and window bytes of a slot (R332). -/
  slots : Nat
  window : Nat
  ws : Nat
  regs : Nat
  /-- Ways of 128-byte lines by cache bytes of the split. -/
  cacheBytes : Nat
  codeLen : Nat
  splat : Bool
  deriving DecidableEq, Repr

/-- A Lath core. -/
structure LCore where
  launch : Option LLaunch
  withdraw : Bool
  items : Kv Nat LItem
  /-- Local windows by slot (R334). -/
  windows : Kv Nat Window
  /-- Cache lines, most recently used first. -/
  lines : List CacheLine
  mat : List MatOp
  ops : List LOp
  nextOp : Nat
  /-- CK_CORE cycles with a slot busy past the last full unit of RDG_CORE_BUSYc. -/
  busy : Nat
  deriving DecidableEq, Repr

end Sys2Proof.Machine
end

