-- ==== Sys2Proof/Machine/TypesBody.lean ====
section
/-! DEFINITION. State that each station type keeps beside its ports. -/
namespace Sys2Proof.Machine

/-- GATE: packets sent, tiles taken, and whether the tile with last set has passed (R184, R185). -/
structure GateSt where
  seq : Nat
  taken : Nat
  closed : Bool
  deriving DecidableEq, Repr

/-- A window of a YEALM station: slots of the ray state table, the rays' entries in ordinal order, the sorted order, and per yealm the passes whose token has arrived (R288 to R294). -/
structure YWindow where
  no : Nat
  slots : List Nat
  rays : List (List Word)
  full : Bool
  order : Option (List Nat)
  tokens : List Nat
  deriving DecidableEq, Repr

/-- YEALM (R285 to R294). -/
structure YealmSt where
  /-- Rows taken and not formed yet. -/
  rows : List (List Byte)
  /-- Rays formed. -/
  formed : Nat
  /-- Windows that hold entries, ascending. -/
  windows : List YWindow
  /-- Windows allocated so far. -/
  opened : Nat
  /-- A window waits for entries: its place in the order of the windows that asked (R294). -/
  asked : Option Nat
  /-- The next yealm to emit: cohort, pass, window, yealm (R291). -/
  cohort : Nat
  pass : Nat
  window : Nat
  yealm : Nat
  /-- Windows in all, once no further ray can come. -/
  total : Option Nat
  deriving DecidableEq, Repr

/-- A tree held by a RAFTER station (R251). -/
structure HeldTree where
  ord : Nat
  desc : List Byte
  marked : Bool
  users : Nat
  deriving DecidableEq, Repr

/-- A yealm that has been walked and not completed: its tile's ordinal, its tree, the hit entries, and the entries to write back by slot (R281). -/
structure YealmDone where
  ordinal : Nat
  tree : Nat
  window : Nat
  yidx : Nat
  ycount : Nat
  hits : Nat
  lanes : List (Nat × List Word)
  deriving DecidableEq, Repr

/-- RAFTER (R251, R252). -/
structure RafterSt where
  trees : List HeldTree
  /-- Trees received on port 1. -/
  got : Nat
  /-- The highest ordinal that a yealm has named. -/
  high : Option Nat
  done : List YealmDone
  deriving DecidableEq, Repr

/-- A batch that a COUCH gathers (R299): window, tree ordinal, hit entries, those of them spilled, tokens arrived, entries declared, and the field of the port that takes it. -/
structure Batch where
  window : Nat
  tree : Nat
  entries : List (List Word)
  spilled : Nat
  tokens : Nat
  ycount : Nat
  declared : Nat
  field : Nat
  deriving DecidableEq, Repr

/-- COUCH (R299 to R307). -/
structure CouchSt where
  batches : List Batch
  /-- The next batch to emit: cohort, pass, window. -/
  cohort : Nat
  pass : Nat
  window : Nat
  /-- Record bytes and batches of the course, and its header. -/
  off : Nat
  nbatch : Nat
  header : Bool
  /-- REPLAY: batches emitted; the header read. -/
  replayed : Nat
  total : Option Nat
  deriving DecidableEq, Repr

/-- A job that a Mould has built: its ordinal, the header flags and ordering number of its output tile, its descriptor, and whether it has left the front slot (R258, R277). -/
structure MouldJob where
  ordinal : Nat
  flags : Nat
  seq : Nat
  desc : List Byte
  back : Bool
  /-- Field of its Mould. -/
  field : Nat
  deriving DecidableEq, Repr

/-- MOULD (R256 to R277): jobs built and not emitted, and the ordinal of the next to emit. -/
structure MouldSt where
  jobs : List MouldJob
  next : Nat
  deriving DecidableEq, Repr

/-- LATH: its kernel as its header gave it at launch (R326), the latest tile of each output port, and the flags of the station's items (R360). -/
structure LathSt where
  regs : Nat
  ws : Nat
  code : Nat
  ins : List Nat
  held : Kv Nat Tile
  ovf : Bool
  unf : Bool
  deriving DecidableEq, Repr

/-- A segment of a course, with its place in its draw: shingle, draw, entries, address, and the ordinal of its first primitive (R461). -/
structure Segment where
  shingle : Nat
  draw : Nat
  count : Nat
  addr : Nat
  first : Nat
  deriving DecidableEq, Repr

/-- A BIN that has parked: the sheets its segments and its staging need, and since when (R464). -/
structure Park where
  segs : Nat
  stage : Nat
  since : Nat
  deriving DecidableEq, Repr

/-- BIN (R458 to R466): primitives of the frame so far; the shingles, as columns and rows from and to, that each primitive of the draw takes; the draw in progress; whether it has ended; the end of the segments; records of each shingle emitted; segments whose records REVERSE holds back; and the park. -/
structure BinSt where
  prims : Nat
  boxes : List (Option (Nat × Nat × Nat × Nat))
  draw : Nat
  ended : Bool
  segEnd : Nat
  sks : Kv Nat Nat
  segs : List Segment
  park : Option Park
  lastTile : Nat
  deriving DecidableEq, Repr

/-- A window store on its way to its owner or held there: the operation and thread that issued it, its item, its shingle and pixel, and its four words (R468, R469). -/
structure Frag where
  core : Nat
  op : Nat
  slot : Nat
  sheaf : Nat
  lane : Nat
  item : Nat
  x : Nat
  q : Nat
  words : List Word
  deriving DecidableEq, Repr

/-- A shingle's scoreboard and pixel buffer (R470 to R477). Pixels not listed hold their start values. -/
structure Shingle where
  nextSk : Nat
  /-- REVERSE: the state has been read, and the upstream tile has arrived. -/
  loaded : Bool
  up : Bool
  held : List Frag
  px : Kv Nat (List Word)
  /-- Pixels that have retired a fragment. -/
  touched : List Nat
  /-- Gradient records staged, by pixel. -/
  staged : List (Nat × List Byte)
  ovf : Bool
  unf : Bool
  deriving DecidableEq, Repr

/-- BLEND (R468 to R478). -/
structure BlendSt where
  inbound : List Frag
  sh : Kv Nat Shingle
  /-- Upstream tiles taken. -/
  ups : Nat
  done : Bool
  deriving DecidableEq, Repr

/-- The state of a station beside its ports. -/
inductive Body where
  | none
  | gate (g : GateSt)
  /-- VAT in HINT mode: records passed on, by item (R407). -/
  | vat (hints : Kv Nat Nat)
  | mould (m : MouldSt)
  | yealm (y : YealmSt)
  | rafter (r : RafterSt)
  | couch (c : CouchSt)
  | lath (l : LathSt)
  | bin (x : BinSt)
  | blend (x : BlendSt)
  /-- PACK: blocks emitted, by item. -/
  | pack (blocks : Kv Nat Nat)
  deriving DecidableEq, Repr

/-- Hit entries that a Couch port has spilled to the Gutter (R306). -/
def Body.spilled : Body → Nat
  | .couch c => sumNat (c.batches.map (fun x => x.spilled))
  | _ => 0

/-- Fragments that a blend holds, and records that it stages (R471, R477). -/
def BlendSt.held (x : BlendSt) : Nat := sumNat (x.sh.map (fun e => e.2.held.length))
def BlendSt.staged (x : BlendSt) : Nat := sumNat (x.sh.map (fun e => e.2.staged.length))

/-- Gutter pages that a station takes (table "Gutter use per page", R471, R477). -/
def Body.pages : Body → Nat
  | .couch c => ceilDiv (Body.couch c).spilled 128
  | .blend x => ceilDiv x.held 256 + ceilDiv x.staged 128
  | _ => 0

/-- Entries of the ray state table that a station holds (R279). -/
def Body.rayEntries : Body → List Nat
  | .yealm y => y.windows.flatMap (fun w => w.slots)
  | _ => []

/-- A line of a Rafter's node cache (R253, R254). -/
structure NodeLine where
  run : RunRef
  addr : Nat
  pin : Bool
  deriving DecidableEq, Repr

end Sys2Proof.Machine
end

