-- ==== Sys2Proof/Machine/TypesPort.lean ====
section
/-! DEFINITION. State of the seat links, the gable ports, command packets and tenant streams (chapters 02 and 05). -/
namespace Sys2Proof.Machine

/-- Seat link states (R55, R56; SEAT_LINK_STATUS.state). -/
inductive LinkState where
  | down | training | opened | fault
  deriving DecidableEq, Repr

/-- A LOAD or STORE that the block has numbered (R48) and not completed. -/
structure MemOp where
  num : Nat
  store : Bool
  addr : Nat
  size : Nat
  tag : BitVec 16
  ack : Bool
  /-- STORE: the bytes to write. LOAD: the bytes read, once it has acted. -/
  data : List Byte
  /-- The access has read or written its sectors. -/
  acted : Bool
  /-- The seat short-packet status found so far (R43). -/
  status : Nat
  deriving DecidableEq, Repr

/-- A command packet, its header fields as received (table "command packet header"). -/
structure Pkt where
  src : Nat
  op : Nat
  plen : Nat
  more : Bool
  cpl : Bool
  seq : Nat
  stream : Nat
  tag : Word
  addr : Nat
  args : List Word
  /-- Every rsvd field of the header is zero. -/
  rsvdOk : Bool
  /-- First number and first source of the RUN or TILE chain that this packet closes; its own otherwise (R156, R166). -/
  seq0 : Nat
  src0 : Nat
  /-- The packet's length matches ncells (seats) or is at most 4,096 bytes (hosts) (R148). -/
  lenOk : Bool
  payload : List Byte
  deriving DecidableEq, Repr

/-- A COMMAND received from a seat: its cells and the memory number it waits for (R50). -/
structure SeatCmd where
  cells : Nat
  /-- Every STORE numbered below this one must have completed. -/
  after : Nat
  bytes : List Byte
  ncells : Nat
  deriving DecidableEq, Repr

/-- A packet that the block sends to a seat: its kind, its cells not yet sent, and what it belongs to. -/
structure SeatOut where
  kind : Nat
  hdr : SeatHdr
  data : List Byte
  cells : Nat
  sent : Nat
  /-- TILE packets of a GATE output, and STAGEs: the tenant and handle of the run (R56, R189). -/
  run : Option (Nat × Word)
  deriving DecidableEq, Repr

/-- A STAGE that waits for its STAGE_ACK (R52, R53). -/
structure StageWait where
  tenant : Nat
  handle : Word
  stage : Nat
  armed : Nat
  deriving DecidableEq, Repr

/-- One seat link (chapter 02). -/
structure Seat where
  state : LinkState
  present : Bool
  /-- SEATn_RST_N, driven by the block. -/
  rstN : Bool
  spares : Nat
  retrains : Nat
  /-- Credits the seat holds: LOADs, STORE cells, COMMAND cells (R45). -/
  loadCr : Nat
  storeCr : Nat
  cmdCr : Nat
  /-- Credits consumed and not yet returned in a link flit. -/
  loadRet : Nat
  storeRet : Nat
  cmdRet : Nat
  /-- Response-cell credits the seat has granted and the block has not used. -/
  respCr : Nat
  /-- Response cells sent whose credits have not come back, in order of sending, with the run of a TILE packet (R56). -/
  unret : List (Nat × Option (Nat × Word))
  /-- Number of the next LOAD or STORE, modulo 2^48 (R48). -/
  memNext : Nat
  ops : List MemOp
  cmds : List SeatCmd
  outq : List SeatOut
  /-- R47: armed at this time, with no credit for a ready cell. -/
  creditAt : Option Nat
  stages : List StageWait
  /-- Since when the link retrains (R56). -/
  faultAt : Nat
  /-- Frame number and the sender's corrected-error count of the last link flit received (R39). -/
  frame : Nat
  peerCorr : Nat
  deriving DecidableEq, Repr

/-- A BAR0 slot: the bytes written and whether it is committed and not taken (R62). -/
structure Slot where
  bytes : Kv Nat Byte
  committed : Bool
  deriving DecidableEq, Repr

/-- An entry held for a host port's response ring (R167): its bytes, a multiple of 32. -/
structure RingEntry where
  bytes : List Byte
  event : Bool
  /-- TILE packets of a GATE output name their run (R185). -/
  run : Option (Nat × Word)
  deriving DecidableEq, Repr

/-- One gable port (chapter 02). -/
structure Gable where
  /-- PORT.gab_far gives the role: true far tier. -/
  far : Bool
  /-- Level of GA_PERST_N (in for host ports, out for far-tier ports). -/
  perstN : Bool
  /-- 0 none, 1 x4, 2 x8, 3 x16; 0 none, 1 16, 2 32, 3 64 GT/s (CAP_GABLE_LINK). -/
  width : Nat
  rate : Nat
  /-- The port has trained in FLIT mode and is open to traffic (R61). -/
  opened : Bool
  /-- The link trained in FLIT mode. -/
  flit : Bool
  slots : Kv Nat Slot
  /-- Slots committed and not yet taken, oldest first. -/
  waiting : List Nat
  taken : Nat
  ringBase : DWord
  ringSize : Nat
  ringHead : Nat
  ringTail : Nat
  held : List RingEntry
  err : Word
  deriving DecidableEq, Repr

/-- A far-tier device (R65, R386): its port, its capacity in sheets, its service and the times of failed reads. -/
structure FarDev where
  port : Nat
  sheets : Nat
  inService : Bool
  fails : List Nat
  deriving DecidableEq, Repr

/-- One stream of a tenant (R149 to R159). -/
structure Stream where
  next : Nat
  broken : Bool
  held : List Pkt
  /-- Packets admitted and not begun, in sequence order. -/
  adm : List Pkt
  /-- Numbers admitted and not completed (R153). -/
  live : List Nat
  /-- Packets taken of the chain in progress (R156). -/
  chain : List Pkt
  /-- The FENCE at the head has begun to wait (R154). -/
  fencing : Bool
  /-- Status with which a waiting FENCE has failed (R155). -/
  fenceFail : Bool
  /-- The gap timer, armed at this time (R157). -/
  gapAt : Option Nat
  deriving DecidableEq, Repr

/-- A READ whose data is being returned (R164): what is still to send, the bytes sent, the failing status if a byte fails. -/
structure ReadJob where
  tenant : Nat
  pkt : Pkt
  data : List Byte
  off : Nat
  fail : Option Nat
  /-- Stack sectors whose Eaves have had no place for their reads yet (R424). -/
  todo : List Nat
  deriving DecidableEq, Repr

/-- One entry of the block's output record: what left its ports, oldest first. -/
inductive Out where
  /-- A cell sent to a seat: cell 0 is the packet's header, the others carry 16 bytes. -/
  | seatCell (seat : Nat) (hdr : SeatHdr) (cell : Nat) (data : List Byte)
  /-- A link flit to a seat: frame, LOAD, STORE and COMMAND credits returned, the link state, corrected errors. -/
  | linkFlit (seat : Nat) (frame loads stores cmds : Nat) (link : LinkState) (corr : Word)
  /-- A posted write into a host's response ring at an absolute address. -/
  | ringWrite (port : Nat) (addr : DWord) (bytes : List Byte)
  /-- MSI-X (R63). -/
  | msix (port vector : Nat)
  /-- An in-band interrupt under I3C (R70, R508). -/
  | ibi
  /-- The answer to a Configuration Request: true Retry Status (R122). -/
  | configAnswer (port : Nat) (retry : Bool)
  /-- The value a management read returned (R16, R71). -/
  | regRead (addr : Nat) (value : Word)
  /-- GAB register read by the host through BAR2. -/
  | bar2Read (port off : Nat) (value : Word)
  /-- The answer to a TAP access: refused or carried out (R72). -/
  | tap (eave : Nat) (refused : Bool)
  deriving DecidableEq, Repr

end Sys2Proof.Machine
end

