-- ==== Sys2Proof/Machine/TypesStart.lean ====
section
/-! DEFINITION. State of the pins, the Calender, the start sequence and the applied Plovie image (chapters 02, 03 and 04). -/
namespace Sys2Proof.Machine

/-- Sideband pins and straps (table "sideband pins"), as accepted by the filter of R75. -/
structure Pins where
  /-- PWR_GOOD. -/
  pwrGood : Bool
  /-- RST_N; false holds the block in cold reset. -/
  rstN : Bool
  /-- FL_RELEASE_N (R69). -/
  flReleaseN : Bool
  /-- FAULT_N, an output: false on a block-fatal error, in QUARANTINE and after a failure of ROOT lock. -/
  faultN : Bool
  /-- THERMTRIP_N, an output (R60, R106). -/
  thermTripN : Bool
  /-- MG_ALERT_N, an output, the SMBus alert (R70). -/
  mgAlertN : Bool
  /-- Strap MG_MODE: false I3C, true SMBus (R70, R74). -/
  mgMode : Bool
  /-- Strap MG_ADDR (R74). -/
  mgAddr : BitVec 3
  /-- The I3C dynamic address, when one was given (R70). -/
  dynAddr : Option (BitVec 7)
  /-- The address at which the management target answers: 0x60 plus MG_ADDR, or the dynamic address (R70). -/
  mgTarget : BitVec 7
  /-- FL_CLK, FL_CS_N, FL_IO[7:0] and FL_RESET_N are tri-stated (R69). -/
  flTri : Bool
  deriving DecidableEq, Repr

/-- The block states of R111. -/
inductive BlockState where
  | reset | starting | opened | maintenance | quarantine | stopped
  deriving DecidableEq, Repr

/-- A step that the Calender admits (R94, R98). -/
inductive StepKind where
  /-- Field wake (R99). -/
  | wake (field : Nat)
  /-- Stack training (R100). -/
  | train (eave : Nat)
  /-- A maintenance window on one pseudo-channel (R430). -/
  | window (eave pc : Nat)
  /-- A Screen test group (R485). -/
  | group (g : Nat)
  deriving DecidableEq, Repr

/-- How far an admitted step has come (R94). -/
inductive StepPhase where
  /-- The ballast rises to the declared power. -/
  | preload
  /-- The fast loop is closed on the step's field; `t0` is when it was closed. -/
  | loop (t0 : Nat)
  deriving DecidableEq, Repr

/-- An admitted step with its declared power in microwatts. -/
structure CalStep where
  kind : StepKind
  declared : Nat
  field : Nat
  phase : StepPhase
  /-- Power that the step has added since its loop closed, which its field's ballast has shed. -/
  shed : Nat
  deriving DecidableEq, Repr

/-- The stop ramp (R96): the governed draw falls linearly from `start` to `post`. Powers are in microwatts. -/
structure Ramp where
  start : Nat
  post : Nat
  t0 : Nat
  cycles : Nat
  /-- RESET_n of every stack goes low when the ramp ends (R60). -/
  stacksLow : Bool
  deriving DecidableEq, Repr

/-- The Calender and the thermal sensors (chapter 03). Draws are powers at 12 V in microwatts. -/
structure Cal where
  /-- Governed draw of the last interval, the pseudocode's g_prev. -/
  gPrev : Nat
  /-- Estimated unballasted draw of the last interval (R514). -/
  est : Nat
  /-- Ballast draw, and its parts on VDD_CORE and VDD_FELT (R93). -/
  ballast : Nat
  onCore : Nat
  onFelt : Nat
  /-- hi of the last interval. -/
  hi : Nat
  /-- Admission withheld: 0 nothing, 1 tests and maintenance windows, 2 + p also tenant work up to priority p (R92). -/
  withheld : Nat
  /-- Fields whose tenant work of the highest withheld priority is withheld, and the field whose turn comes next (R92). -/
  withheldAt : List Nat
  turn : Nat
  /-- Ballast held for admitted steps (R94). -/
  held : Nat
  /-- The thermal ceiling (R105). -/
  ceiling : Option Nat
  /-- The Calender runs on REFCLK (R84). -/
  onRefclk : Bool
  /-- CAL_SLEW.limit in mA/µs, CAL_STOP_RAMP in CK_MGMT cycles, CAL_PWR_CAP in W (R90, R91, R96). -/
  slew : Nat
  stopRamp : Nat
  pwrCap : Nat
  /-- Steps admitted and not ended (R94). -/
  steps : List CalStep
  /-- The stop ramp in progress (R96). -/
  ramp : Option Ramp
  /-- When the last interval, calibration and sensor sample were taken. -/
  lastInterval : Nat
  lastCalib : Nat
  lastSample : Nat
  /-- Readings of the 64 sensors at the last sample, two's complement, 1/16 °C (R105). -/
  temps : List (BitVec 12)
  /-- Sensors that read 105.0 °C or more at the last sample (R106). -/
  hot : List Nat
  /-- The hottest sensor in service at the last sample, its reading and index, and the sensors then in service (R105). -/
  hottest : Option (BitVec 12 × Nat)
  sensIn : List Nat
  /-- THM_SENSOR_SEL. -/
  sel : Nat
  deriving DecidableEq, Repr

/-- One tenant's record of the TENANT section (R131, R132). -/
structure TenantCfg where
  enabled : Bool
  prioMax : Nat
  /-- Number of streams, streams_m1 + 1. -/
  streams : Nat
  sources : BitVec 20
  quotaHbm : Nat
  quotaFelt : Nat
  quotaFar : Nat
  gutter : Nat
  deriving DecidableEq, Repr

/-- One stock kernel of the KERNEL section (R133). -/
structure Kernel where
  id : Nat
  code : List Byte
  deriving DecidableEq, Repr

/-- The applied image: the fields of its eight sections (R131 to R133). -/
structure Image where
  serial : Word
  gabEnable : BitVec 12
  gabFar : BitVec 12
  vendor : Nat
  device : Nat
  seatCreditTo : Nat
  slew : Nat
  stopRamp : Nat
  pwrCap : Nat
  /-- 0 12-Hi, 1 16-Hi. -/
  height : Nat
  /-- 0 24 Gb, 1 32 Gb. -/
  density : Nat
  pinRate : Nat
  stackEnable : BitVec 24
  parity : Bool
  fieldEnable : BitVec 8
  seatEnable : BitVec 8
  tenants : List TenantCfg
  rayState : Nat
  matchStore : Nat
  gapTo : Nat
  watchdog : Nat
  gcplTo : Nat
  stackTo : Nat
  growTo : Nat
  maintDrain : Nat
  kernels : List Kernel
  /-- Size of the KERNEL section in bytes (R134). -/
  kernelBytes : Nat
  deriving DecidableEq, Repr

/-- The start sequence and START_CMD (chapter 04). -/
structure Start where
  state : BlockState
  /-- START_STATUS.phase: 1 to 8 while STARTING, else 0. While QUARANTINE is entered from phase 3 the tests of phase 4 run with `qTests` set (R136). -/
  phase : Nat
  qTests : Bool
  imageB : Bool
  qCause : Nat
  lastCmd : Nat
  /-- A drain is in progress since this time (R137). -/
  drainAt : Option Nat
  aResult : Nat
  bResult : Nat
  spi1s : Bool
  imgErr : Word
  /-- START_TIME, units of 1,000 CK_MGMT cycles. -/
  time : Nat
  /-- Beginning of the start sequence (R77), of the phase, of the image's reads and of the read in progress. -/
  seqAt : Nat
  phaseAt : Nat
  imgAt : Nat
  readAt : Nat
  /-- The image being read: false A, true B. -/
  reading : Option Bool
  /-- The image being read is read in single-bit SPI (R124). -/
  spiNow : Bool
  /-- The start waits for FL_RELEASE_N at the image read (R69). -/
  flWait : Bool
  /-- FL_RELEASE_N was low when the start began, and has not gone high since (R69). -/
  flHeld : Bool
  /-- Bytes of the image read so far. -/
  buf : List Byte
  /-- A rise of RST_N waits for the stop ramp (R76). -/
  rstPending : Bool
  /-- ROOT lock failed; reset is held until RST_N or PWR_GOOD falls and rises (R82). -/
  lockFailed : Bool
  /-- ROOT is locked. -/
  locked : Bool
  img : Option Image
  /-- Phase 7 has applied the LIMITS and KERNEL sections and the rest of the TENANT section (R116, R120). -/
  late : Bool
  /-- Fields woken, and the field whose gates are closing with the time it began (R99). -/
  woken : List Nat
  waking : Option (Nat × Nat)
  /-- The Watermark words as read, and WMK_STATUS (R509). -/
  wmk : List Word
  wmkAgree : Bool
  wmkCrc : Bool
  wmkKey : Bool
  /-- Hard repair and training ended for these stacks in phase 5 (R118). -/
  trained : List Nat
  /-- Stacks in training with the time each began (R100). -/
  training : List (Nat × Nat)
  deriving DecidableEq, Repr

end Sys2Proof.Machine
end

