-- ==== Sys2Proof/Machine/State.lean ====
section
/-! DEFINITION. The state of the block, its reset, and the reasons a step can stop. -/
namespace Sys2Proof.Machine

/-- A station of an open run: where it is placed, what has passed its ports, its items, and its type's own state. -/
structure Station where
  entry : StationEntry
  params : List Byte
  /-- Units taken: (field, unit index) (R178). -/
  units : List (Nat × Nat)
  /-- Tiles emitted and not yet in their ring, oldest first (R183). -/
  outbox : List (Nat × Tile)
  /-- Tiles taken at each input port. -/
  takenAt : Kv Nat Nat
  /-- Input ports whose last tile has been taken, in the order they closed. -/
  closedIn : List Nat
  /-- Work items created, dispatched and completed. -/
  made : Nat
  dispatched : Nat
  completed : Nat
  active : List Active
  finished : Bool
  /-- Pool queue of the station's fired items (R370). -/
  queue : Nat
  body : Body
  deriving DecidableEq, Repr

/-- How far a run has come (R176, R178, R187). -/
inductive RunPhase where
  /-- Admitted and not launched. -/
  | waiting
  /-- Stage `k` is about to begin: the seats whose STAGE_ACK is awaited. -/
  | staging (k : Nat) (acks : List Nat)
  | active (k : Nat)
  deriving DecidableEq, Repr

/-- A kill that has taken effect and whose RUN_KILLED is not sent (R189, R190). -/
structure KillInfo where
  cause : Nat
  station : Nat
  /-- Ordinal of the work item that raised it, within its LATH station (R362). -/
  ord : Nat
  detail : Word
  stage : Word
  at_ : Nat
  deriving DecidableEq, Repr

/-- An open run (chapter 06). -/
structure Run where
  ref : RunRef
  src : Nat
  /-- The packet that opened it, for its completion record. -/
  pkt : Pkt
  desc : List Byte
  nstage : Nat
  prio : Nat
  seed : DWord
  phase : RunPhase
  /-- Its RUN packet has acted: the run stands in the queue for launch (R152, R176, R177). -/
  queued : Bool
  /-- Its parameter blocks have been read, and it waits for buffers with the copies (R178, R390). -/
  read : Bool
  launchedAt : Nat
  order : Nat
  stations : List Station
  edges : List Edge
  /-- Felt pages of rings and buffers: stage, field, pages (R178, R389). -/
  bufs : List (Nat × Nat × Nat)
  ovf : Bool
  unf : Bool
  /-- It waits for queues or for buffers (R371, R390). -/
  waitQ : Bool
  /-- Of the two, what it waits for: false queues, true buffers. -/
  waitPool : Bool
  killed : Option KillInfo
  deriving DecidableEq, Repr

/-- A queue or port in the HELD state (R381): a stream's admission queue, an edge, or a Couch input. -/
inductive HeldQueue where
  | admission (stream : Nat)
  | edge (run : RunRef) (edge : Nat)
  /-- The hold of a BLEND station (R471). -/
  | blend (run : RunRef) (station : Nat)
  /-- The queue of a station's fired items (R370). -/
  | items (run : RunRef) (station : Nat)
  deriving DecidableEq, Repr

/-- The Ridge (chapter 13). -/
structure Ridge where
  items : List Item
  /-- Tokens posted and not delivered (R368). -/
  tokens : List Token
  /-- HELD queues of each tenant in the order they entered HELD, with the time (R383). -/
  held : List (Nat × HeldQueue × Nat)
  /-- Queue last served by a field's port at a priority (R375). -/
  served : Kv (Nat × Nat) Nat
  deriving DecidableEq, Repr

/-- The Vatman (chapter 14). -/
structure Vat where
  tenants : List Tenant
  objs : List Obj
  sheets : List Sheet
  rows : List ZRow
  nextRow : Nat
  /-- Sheets of stack memory that the Gutters and the kernel region take (R120). -/
  reserved : Nat
  /-- Sheet slots of the kernel region, in order (R120). -/
  kernelAt : List (Nat × Nat)
  /-- Translation caches of the eight fields, most recently used first: tenant and sheet (R400). -/
  xlate : Kv Nat (List (Nat × Nat))
  ranges : List PrefetchRange
  devs : List FarDev
  /-- Round-robin place of the next far slot. -/
  nextDev : Nat
  order : Nat
  deriving DecidableEq, Repr

/-- The block: every piece of state the spec gives it. -/
structure Block where
  /-- CK_MGMT cycles since the rise of PWR_GOOD (R165, R507). -/
  now : Nat
  /-- The model's own counter of free values drawn. -/
  free : Nat
  pins : Pins
  cal : Cal
  start : Start
  screen : Screen
  tel : Tel
  /-- RC counters and their twins, by management address (R502). A counter not listed holds zero. -/
  ctrs : Kv Nat Ctr
  /-- RW1C registers, by management address. A register not listed holds zero. -/
  errs : Kv Nat Word
  /-- Registers that hold the last value of an event (RUN_LAST_KILL and the LAST_ERR registers), and those of a set out of service that hold what it showed last (R511), by management address. -/
  lasts : Kv Nat Word
  seats : List Seat
  gables : List Gable
  /-- Packets handed to Flashing and not yet classified, by source (R163). -/
  inq : List Pkt
  streams : Kv (Nat × Nat) Stream
  reads : List ReadJob
  runs : List Run
  /-- Handles of runs that have ended, by tenant (R161). -/
  ended : List RunRef
  /-- Order of admission of the next run (R177). -/
  runOrder : Nat
  ridge : Ridge
  cores : Kv Nat LCore
  /-- Node caches of the Rafters, 18 × field + index: lines by run and line address, most recently used first (R253). -/
  nodeCaches : Kv Nat (List NodeLine)
  vat : Vat
  eaves : List Eave
  mem : Mem
  /-- Poisoned sectors of stack memory: ranges of physical addresses, from and below (R417). -/
  poison : List (Nat × Nat)
  /-- Felt words that hold a double error, by physical address ÷ 8 (R388). -/
  feltBad : List Nat
  /-- What left the block's ports, oldest first. -/
  out : List Out
  deriving DecidableEq, Repr

/-- The machine: the commands that wait, first in first out, and the block. -/
structure State where
  pending : List Instr
  b : Block
  deriving DecidableEq, Repr

/-- Reasons for a fault. The block has none: every effect of an error in the spec is an effect on its state. -/
inductive Fault where
  /-- Never raised (safe): the spec gives every error of the block an effect. -/
  | none
  deriving DecidableEq, Repr

/-- Reasons for a refusal. -/
inductive Refusal where
  /-- A command that has no meaning yet: raised by exec's arm alone (safe). -/
  | notModelled (mnemonic : String)
  deriving DecidableEq, Repr

/-- A seat link before any start (R14, R45). -/
def Seat.reset : Seat :=
  { state := .down, present := false, rstN := false, spares := 0, retrains := 0, loadCr := 0, storeCr := 0, cmdCr := 0,
    loadRet := 0, storeRet := 0, cmdRet := 0, respCr := 0, unret := [], memNext := 0, ops := [], cmds := [], outq := [],
    creditAt := none, stages := [], faultAt := 0, frame := 0, peerCorr := 0 }

/-- A gable port before any start. -/
def Gable.reset : Gable :=
  { far := false, perstN := false, width := 0, rate := 0, opened := false, flit := false, slots := [], waiting := [], taken := 0,
    ringBase := 0#64, ringSize := 0, ringHead := 0, ringTail := 0, held := [], err := 0#32 }

/-- A stream when its tenant opens (R149). -/
def Stream.reset : Stream :=
  { next := 0, broken := false, held := [], adm := [], live := [], chain := [], fencing := false, fenceFail := false, gapAt := none }

/-- An Eave before any start. -/
def Eave.reset : Eave :=
  { inService := false, resetN := false, start := false, selfRefresh := false, temp := 0#12, hotFlag := false, band := 0,
    owed := 0, pcs := [], reads := [], wq := [], openRow := [], par := [], window := none, test := none, testTodo := [],
    testAt := 0, moves := [], badSpares := [], log := [], retired := [], retiring := [], scrubSeg := 0, scrubPass := 0,
    scrubAt := 0, idleAt := 0, tempAt := 0, lastErr := 0#32, ident := [0#32, 0#32, 0#32, 0#32], identValid := false }

/-- A pseudo-channel in good health. -/
def Pc.reset : Pc :=
  { health := .good, event := none, corr := [], trainedTemp := 0#12, timeouts := 0 }

/-- A Lath core that hosts nothing. -/
def LCore.reset : LCore :=
  { launch := none, withdraw := false, items := [], windows := [], lines := [], mat := [], ops := [], nextOp := 0, busy := 0 }

/-- A sampler slot after reset. -/
def TelSlot.reset : TelSlot := { sel := 0#32, val := 0#32, delta := 0#32, max := 0#32, prev := none }

/-- A tenant before any start. -/
def Tenant.reset : Tenant := { opened := false, prioMax := 0, quotaHbm := 0, quotaFelt := 0, quotaFar := 0 }

/-- The pins before power is good. -/
def Pins.reset : Pins :=
  { pwrGood := false, rstN := false, flReleaseN := true, faultN := true, thermTripN := true, mgAlertN := true,
    mgMode := false, mgAddr := 0#3, dynAddr := none, mgTarget := 0x60#7, flTri := false }

/-- The Calender before any start: the values of R113. -/
def Cal.reset : Cal :=
  { gPrev := 0, est := 0, ballast := 0, onCore := 0, onFelt := 0, hi := 0, withheld := 0, withheldAt := [], turn := 0, held := 0,
    ceiling := none, onRefclk := false, slew := 500,
    stopRamp := 400000, pwrCap := 900, steps := [], ramp := none, lastInterval := 0, lastCalib := 0, lastSample := 0,
    temps := List.replicate 64 0#12, hot := [], hottest := none, sensIn := [], sel := 0 }

/-- The start sequence before any start: RESET (R111). -/
def Start.reset : Start :=
  { state := .reset, phase := 0, qTests := false, imageB := false, qCause := 0, lastCmd := 0, drainAt := none, aResult := 0,
    bResult := 0, spi1s := false, imgErr := 0#32, time := 0, seqAt := 0, phaseAt := 0, imgAt := 0, readAt := 0,
    reading := none, spiNow := false, flWait := false, flHeld := false, buf := [], rstPending := false, lockFailed := false, locked := false, img := none, late := false,
    woken := [], waking := none, wmk := List.replicate 8 0#32, wmkAgree := false, wmkCrc := false, wmkKey := false,
    trained := [], training := [] }

/-- Screen before any start. -/
def Screen.reset : Screen :=
  { records := [], reports := [], groups := [], rot := .idle, rotNext := 0, rotAt := 0, rotPause := false, unitNext := none,
    cmd := .none, cmdArg := 0#32, cmdStatus := 0#32, recSel := 0#32, rptSel := 0#32, out := [], repaired := [], planes := [] }

/-- Telemetry before any start. -/
def Tel.reset : Tel :=
  { enable := false, period := 100, seq := 0#32, time := 0#32, sampleAt := 0, slots := List.replicate 16 TelSlot.reset,
    irqMask := 0#32, fatalCause := 0#32, fatalTime := 0#32, fatalAt := 0 }

/-- The Ridge before any start. -/
def Ridge.reset : Ridge := { items := [], tokens := [], held := [], served := [] }

/-- The Vatman before any start. -/
def Vat.reset : Vat :=
  { tenants := List.replicate 16 Tenant.reset, objs := [], sheets := [], rows := [], nextRow := 0, reserved := 0, kernelAt := [], xlate := [],
    ranges := [], devs := [], nextDev := 0, order := 0 }

/-- The block before power is good. -/
def Block.reset : Block :=
  { now := 0, free := 0, pins := Pins.reset, cal := Cal.reset, start := Start.reset, screen := Screen.reset,
    tel := Tel.reset, ctrs := [], errs := [], lasts := [], seats := List.replicate 8 Seat.reset,
    gables := List.replicate 12 Gable.reset, inq := [], streams := [], reads := [], runs := [], ended := [], runOrder := 0,
    ridge := Ridge.reset, cores := [], nodeCaches := [], vat := Vat.reset, eaves := List.replicate 24 Eave.reset, mem := [], poison := [],
    feltBad := [], out := [] }

/-- The machine after reset: the RESET state before any start (R111), no command waiting. -/
def State.reset : State := { pending := [], b := Block.reset }

end Sys2Proof.Machine
end

