-- ==== Sys2Proof/Machine/Ops.lean ====
section
/-! DEFINITION. The named operations that the meanings share: time, service, counters and error registers, records and what carries them, kills, and stops. -/
namespace Sys2Proof.Machine

/-! ## Time -/

/-- CK_CTL cycles since a time (R81: 5 a CK_MGMT cycle). -/
def Block.ctlSince (b : Block) (t0 : Nat) : Nat := 5 * (b.now - t0)
/-- CK_CORE cycles since a time. -/
def Block.coreSince (b : Block) (t0 : Nat) : Nat := 12 * (b.now - t0)
/-- CK_MESH cycles since a time. -/
def Block.meshSince (b : Block) (t0 : Nat) : Nat := 10 * (b.now - t0)
/-- Time of records, units of 1,024 CK_CTL cycles (R165). -/
def Block.recTime (b : Block) : Word := BitVec.ofNat 32 (5 * b.now / 1024)
/-- Time of repair records and FATAL_TIME, units of 1,000 CK_MGMT cycles (R490, R507). -/
def Block.mgmtTime (b : Block) : Word := BitVec.ofNat 32 (b.now / 1000)

/-! ## Counters, error registers and alerts -/

/-- The value of an RC counter. -/
def Block.ctr (b : Block) (a : Nat) : Word := (b.ctrs.getD a { val := 0#32, twin := 0#32 }).val

/-- A counter and its twin count `n` events (R502); both wrap. -/
def Block.bump (b : Block) (a n : Nat) : Block :=
  let c := b.ctrs.getD a { val := 0#32, twin := 0#32 }
  { b with ctrs := b.ctrs.set a { val := c.val + BitVec.ofNat 32 n, twin := c.twin + BitVec.ofNat 32 n } }

/-- A counter that keeps a maximum (EAV_HOLD_MAX, TEL_MAX). -/
def Block.bumpMax (b : Block) (a n : Nat) : Block :=
  let c := b.ctrs.getD a { val := 0#32, twin := 0#32 }
  let up (w : Word) : Word := if w.toNat < n then BitVec.ofNat 32 n else w
  { b with ctrs := b.ctrs.set a { val := up c.val, twin := up c.twin } }

/-- The value of an RW1C register. -/
def Block.err (b : Block) (a : Nat) : Word := b.errs.getD a 0#32

/-- The MGT_ERR_SUM bit that an error register belongs to (table "MGT_ERR_SUM fields"). -/
def errBit (a : Nat) : Option Nat :=
  if a = Map.calEvents then some 2
  else if a = Map.rdgErr then some 7
  else if a = Map.vatErr then some 8
  else if a = Map.scrErr then some 11
  else if 0x10040 ≤ a ∧ a < 0x10090 then some 1
  else if 0x20000 ≤ a ∧ a < 0x20800 then some 0
  else if 0x180000 ≤ a ∧ a < 0x181800 then some 9
  else if 0x100000 ≤ a ∧ a < 0x180000 then
    match a % 0x10000 / 0x1000 with
    | 1 => some 3
    | 2 => some 4
    | 4 => some 5
    | 5 => some 6
    | 7 => some 10
    | _ => none
  else none

/-- Whether MGT_ERR_SUM bit `i` is set (R508). -/
def Block.errSumBit (b : Block) (i : Nat) : Bool :=
  if i = 12 then wbit b.tel.fatalCause 16
  else b.errs.any (fun e => decide (errBit e.1 = some i) && decide (e.2 ≠ 0#32))

/-- MGT_ERR_SUM (R508). -/
def Block.errSum (b : Block) : Word :=
  (List.range 13).foldl (fun w i => w ||| bitWord (b.errSumBit i) i) 0#32

/-- An in-band interrupt under I3C, MG_ALERT_N under SMBus (R70). -/
def Block.alert (b : Block) : Block :=
  if b.pins.mgMode then { b with pins := { b.pins with mgAlertN := false } } else { b with out := b.out ++ [.ibi] }

/-- Interrupt or alert when a summary bit has risen while its mask bit is 0 (R508). -/
def Block.alertRise (b : Block) (old : Word) : Block :=
  if b.errSum &&& ~~~old &&& ~~~(b.tel.irqMask ||| 0x800#32) = 0#32 then b else b.alert

/-- An event sets bits of an RW1C register (R15, R508, R499). -/
def Block.setErr (b : Block) (a : Nat) (mask : Word) : Block :=
  let old := b.errSum
  let b1 := { b with errs := b.errs.set a (b.err a ||| mask) }
  if a = Map.scrErr then b1.alert else b1.alertRise old

/-- Sets one bit of an RW1C register. -/
def Block.setErrBit (b : Block) (a i : Nat) : Block := b.setErr a (BitVec.ofNat 32 (2 ^ i))

/-- A register that holds the last event takes a new value. -/
def Block.setLast (b : Block) (a : Nat) (w : Word) : Block := { b with lasts := b.lasts.set a w }

/-- Appends to the record of what left the ports. -/
def Block.emitOut (b : Block) (o : Out) : Block := { b with out := b.out ++ [o] }

/-! ## Parts of the block -/

def Block.seat (b : Block) (n : Nat) : Seat := b.seats.getD n Seat.reset
def Block.modSeat (b : Block) (n : Nat) (f : Seat → Seat) : Block := { b with seats := modAt b.seats n f }
def Block.gable (b : Block) (p : Nat) : Gable := b.gables.getD p Gable.reset
def Block.modGable (b : Block) (p : Nat) (f : Gable → Gable) : Block := { b with gables := modAt b.gables p f }
def Block.eave (b : Block) (k : Nat) : Eave := b.eaves.getD k Eave.reset
def Block.modEave (b : Block) (k : Nat) (f : Eave → Eave) : Block := { b with eaves := modAt b.eaves k f }
def Block.tenant (b : Block) (t : Nat) : Tenant := b.vat.tenants.getD t Tenant.reset
def Block.strm (b : Block) (t s : Nat) : Stream := b.streams.getD (t, s) Stream.reset
def Block.modStrm (b : Block) (t s : Nat) (f : Stream → Stream) : Block :=
  { b with streams := b.streams.set (t, s) (f (b.strm t s)) }
def Block.core (b : Block) (c : Nat) : LCore := b.cores.getD c LCore.reset
def Block.modCore (b : Block) (c : Nat) (f : LCore → LCore) : Block := { b with cores := b.cores.set c (f (b.core c)) }
def Eave.pc (e : Eave) (p : Nat) : Pc := e.pcs.getD p Pc.reset
def Eave.modPc (e : Eave) (p : Nat) (f : Pc → Pc) : Eave := { e with pcs := e.pcs.set p (f (e.pc p)) }
def Block.findRun (b : Block) (r : RunRef) : Option Run := b.runs.find? (fun x => x.ref = r)
def Block.modRun (b : Block) (r : RunRef) (f : Run → Run) : Block :=
  { b with runs := b.runs.map (fun x => if x.ref = r then f x else x) }
def stRun (s : StRef) : RunRef := { tenant := s.tenant, handle := s.handle }
def Run.modSt (r : Run) (i : Nat) (f : Station → Station) : Run := { r with stations := modAt r.stations i f }

/-! ## Service (R21, R22, R488) -/

/-- Unit ids (table "unit id"). -/
def unitId (field cls idx : Nat) : Nat := field + 8 * cls + 256 * idx

def Block.unitOut (b : Block) (field cls idx : Nat) : Bool := b.screen.out.contains (unitId field cls idx)

/-- Thermal sensors of a field in service (R104). -/
def Block.sensorsIn (b : Block) (f : Nat) : Nat := (List.range 8).countP (fun i => !b.unitOut f 11 i)

/-- A Felt slice's own service, its field apart. -/
def Block.sliceOwn (b : Block) (f i : Nat) : Bool := !b.unitOut f 7 i

/-- A field is in service (R22, R104, R488). -/
def Block.fieldIn (b : Block) (f : Nat) : Bool :=
  b.start.woken.contains f && decide (4 ≤ b.sensorsIn f) && (List.range 4).all (fun i => !b.unitOut f 12 i)
    && !b.unitOut f 15 0 && !b.unitOut f 16 0 && (List.range 12).any (fun i => b.sliceOwn f i)

/-- A unit of a field is in service. -/
def Block.unitIn (b : Block) (f cls i : Nat) : Bool := b.fieldIn f && !b.unitOut f cls i

/-- Felt slice `n`, 0 to 95, is in service. -/
def Block.sliceIn (b : Block) (n : Nat) : Bool := b.unitIn (n / 12) 7 (n % 12)

def Block.slicesIn (b : Block) (f : Nat) : List Nat := (List.range 12).filter (fun i => b.unitIn f 7 i)

/-- The field that holds a gable port (R19). -/
def gableField (p : Nat) : Nat := if p < 3 then 1 else if p < 6 then 2 else if p < 9 then 5 else 6

/-- The field of a source (R394). -/
def srcField (src : Nat) : Nat := if src < 8 then src else gableField (src - 8)

/-- A gable port is in service. -/
def Block.portIn (b : Block) (p : Nat) : Bool := b.unitIn (gableField p) 10 (p % 3)

/-- The configured record of a tenant. -/
def Block.tcfg (b : Block) (t : Nat) : Option TenantCfg := b.start.img.bind (fun g => g.tenants[t]?)

def Block.tenantOn (b : Block) (t : Nat) : Bool := (b.tcfg t).any (fun c => c.enabled)

/-- The enabled tenant that owns a source (R132, R143). -/
def Block.owner (b : Block) (src : Nat) : Option Nat :=
  (List.range 16).find? (fun t => (b.tcfg t).any (fun c => c.enabled && c.sources.getLsbD src))

/-- A seat is in service (R36, R117). -/
def Block.seatIn (b : Block) (n : Nat) : Bool :=
  b.unitIn n 9 0 && (b.seat n).present && b.start.img.any (fun g => g.seatEnable.getLsbD n) && (b.owner n).isSome

/-- A host port is open to traffic. -/
def Block.hostOpen (b : Block) (p : Nat) : Bool := (b.gable p).opened && !(b.gable p).far

/-- The event source of a tenant (R166). -/
def Block.eventSource (b : Block) (t : Nat) : Option Nat :=
  match (List.range 12).find? (fun p => b.hostOpen p && decide (b.owner (8 + p) = some t)) with
  | some p => some (8 + p)
  | none => (List.range 8).find? (fun n => b.seatIn n && decide (b.owner n = some t))

/-! ## Sending: packets, records, response rings and seat cells -/

/-- The 64-byte header and payload of a packet (table "command packet header"). -/
def mkPacket (op : Nat) (more cpl : Bool) (seq stream : Nat) (tag : Word) (addr : Nat) (args : List Word)
    (payload : List Byte) : List Byte :=
  let w0 := op % 256 + 256 * (payload.length % 4096) + 2 ^ 20 * b2n more + 2 ^ 21 * b2n cpl
  let ws : List Word := [BitVec.ofNat 32 w0, BitVec.ofNat 32 seq, BitVec.ofNat 32 (seq / 2 ^ 32 % 2 ^ 16 + 2 ^ 16 * (stream % 256)),
    tag, BitVec.ofNat 32 addr, BitVec.ofNat 32 (addr / 2 ^ 32 % 2 ^ 16)] ++ (args ++ List.replicate (8 - args.length) 0#32) ++ [0#32, 0#32]
  wordsBytes ws ++ payload

/-- The header cell of a packet the block sends (table "seat packet header cell"). -/
def mkHdr (kind ncells tag w1 w2lo size status : Nat) : SeatHdr :=
  { w0 := BitVec.ofNat 32 (kind + 16 * ncells + 2 ^ 16 * tag), w1 := BitVec.ofNat 32 w1,
    w2 := BitVec.ofNat 32 (w2lo + 2 ^ 16 * size), w3 := BitVec.ofNat 32 status }

/-- One cell of the packet at the head of a seat's queue leaves (R47). -/
def Seat.sendCell (n : Nat) (s : Seat) : Seat × List Out :=
  match s.outq with
  | [] => (s, [])
  | p :: rest =>
    let cell := Out.seatCell n p.hdr p.sent (if p.sent = 0 then [] else sliceBytes p.data (16 * (p.sent - 1)) 16)
    let outq := if p.sent + 1 < p.cells then { p with sent := p.sent + 1 } :: rest else rest
    ({ s with outq := outq, respCr := s.respCr - 1, unret := s.unret ++ [(1, if p.kind = 5 then p.run else none)] }, [cell])

/-- Cells leave one at a time while there is credit (R47); `fuel` is the credit held. -/
def Seat.sendCells (n : Nat) : Nat → Seat → List Out → Nat → Seat × List Out × Nat
  | 0, s, o, k => (s, o, k)
  | f + 1, s, o, k =>
    match s.outq with
    | [] => (s, o, k)
    | _ :: _ => let r := s.sendCell n; Seat.sendCells n f r.1 (o ++ r.2) (k + 1)

/-- The block sends what it can on a seat link and arms or stops the credit timeout (R47). Before tenants open the link carries no cell (R122). -/
def Block.pumpSeat (b : Block) (n : Nat) : Block :=
  let s := b.seat n
  if s.state = .opened ∧ (b.start.state = .opened ∨ b.start.state = .maintenance) then
    let r := s.sendCells n s.respCr [] 0
    let s' := { r.1 with creditAt := if r.1.outq.isEmpty then none else if r.2.2 = 0 then (match s.creditAt with | some t => some t | none => some b.now) else some b.now }
    let b1 := { (b.modSeat n (fun _ => s')) with out := b.out ++ r.2.1 }
    if r.2.2 = 0 then b1 else b1.bump (Map.telSeatOut n) r.2.2
  else b

/-- A packet enters the queue of what the block sends to a seat. On a link in FAULT it waits for the link to reopen; a link that is down takes nothing (R56). -/
def Block.seatSend (b : Block) (n : Nat) (p : SeatOut) : Block :=
  if (b.seat n).state = .opened ∨ (b.seat n).state = .fault then (b.modSeat n (fun s => { s with outq := s.outq ++ [p] })).pumpSeat n else b

/-- A command packet sent to a seat as COMMAND cells. -/
def Block.seatCommandOut (b : Block) (n : Nat) (bytes : List Byte) (run : Option (Nat × Word)) : Block :=
  let nc := ceilDiv bytes.length 16
  b.seatSend n { kind := 5, hdr := mkHdr 5 nc 0 0 0 0 0, data := padTo 16 bytes, cells := 1 + nc, sent := 0, run := run }

/-- The pad entry of R167. -/
def padEntry (len : Nat) : List Byte := leBytes 4 0xF1 ++ leBytes 4 len ++ List.replicate (len - 8) 0#8

/-- Free bytes between tail and head of a port's response ring. -/
def Gable.ringFree (g : Gable) : Nat :=
  let size := 2 ^ g.ringSize
  size - (g.ringTail + size - g.ringHead % size) % size

/-- Writes the held entries that fit into the response ring (R63, R167). -/
def Gable.flush (p : Nat) : List RingEntry → Gable → List Out → Gable × List Out
  | [], g, o => ({ g with held := [] }, o)
  | e :: l, g, o =>
    let size := 2 ^ g.ringSize
    let len := e.bytes.length
    let toEnd := size - g.ringTail
    let need := if toEnd < len then toEnd + len else len
    if g.ringSize = 0 ∨ g.ringFree ≤ need then ({ g with held := e :: l }, o)
    else
      let at_ (t : Nat) : DWord := g.ringBase + BitVec.ofNat 64 t
      let pad : List Out := if toEnd < len then [.ringWrite p (at_ g.ringTail) (padEntry toEnd)] else []
      let start := if toEnd < len then 0 else g.ringTail
      let tail := (start + len) % size
      let irq : List Out := if e.event then [.msix p 0, .msix p 1] else [.msix p 0]
      Gable.flush p l { g with ringTail := tail } (o ++ pad ++ [.ringWrite p (at_ start) e.bytes] ++ irq)

/-- The response ring of a port is full: it holds records back, and what produces more waits (R63, R385). -/
def Gable.ringFull (g : Gable) : Bool := !g.held.isEmpty

/-- Entries held for a host port flow while its ring has room. -/
def Block.flushRing (b : Block) (p : Nat) : Block :=
  let g := b.gable p
  let r := Gable.flush p g.held g []
  { (b.modGable p (fun _ => r.1)) with out := b.out ++ r.2 }

/-- An entry for a host port's response ring (R167). -/
def Block.ringSend (b : Block) (p : Nat) (bytes : List Byte) (event : Bool) (run : Option (Nat × Word)) : Block :=
  (b.modGable p (fun g => { g with held := g.held ++ [{ bytes := padTo 32 bytes, event := event, run := run }] })).flushRing p

/-- A response packet to a source (R63, R167). -/
def Block.sendPacket (b : Block) (src : Nat) (bytes : List Byte) (run : Option (Nat × Word)) : Block :=
  if src < 8 then b.seatCommandOut src bytes run else b.ringSend (src - 8) bytes false run

/-- A completion or event record to a source: RECORDS packets to seats, ring entries to hosts (R167). -/
def Block.sendRecord (b : Block) (src : Nat) (ws : List Word) (event : Bool) : Block :=
  if src < 8 then b.seatCommandOut src (mkPacket 0x43 false false 0 0 0#32 0 [] (wordsBytes ws)) none
  else b.ringSend (src - 8) (wordsBytes ws) event none

/-- The event codes of the table "event record". -/
def evStart : Nat := 1
def evRunEnd : Nat := 2
def evRunKilled : Nat := 3
def evGrow : Nat := 4
def evStepSkew : Nat := 5
def evStreamError : Nat := 6
def evSheetLost : Nat := 7
def evCapacity : Nat := 8

/-- The words of an event record. -/
def eventWords (code cause : Nat) (handle : Word) (data : List Word) (time : Word) : List Word :=
  [BitVec.ofNat 32 (0xF2 + 256 * code + 65536 * cause), handle] ++ data ++ List.replicate (4 - data.length) 0#32 ++ [0#32, time]

/-- An event record to a source. -/
def Block.sendEvent (b : Block) (src code cause : Nat) (handle : Word) (data : List Word) : Block :=
  b.sendRecord src (eventWords code cause handle data b.recTime) true

/-- An event record to a tenant's event source (R166). -/
def Block.tenantEvent (b : Block) (t code : Nat) (data : List Word) : Block :=
  match b.eventSource t with
  | some src => b.sendEvent src code 0 0#32 data
  | none => b

/-! ## Packets -/

/-- The statuses of R168. -/
def stOk : Nat := 0x00
def stUnmapped : Nat := 0x01
def stDenied : Nat := 0x02
def stUncorrectable : Nat := 0x03
def stRange : Nat := 0x04
def stSeqDup : Nat := 0x05
def stSeqRange : Nat := 0x06
def stStream : Nat := 0x07
def stChain : Nat := 0x08
def stQuota : Nat := 0x09
def stMaint : Nat := 0x0A
def stBusy : Nat := 0x0B
def stKilled : Nat := 0x0C
def stFarLost : Nat := 0x0D
def stLink : Nat := 0x10
def stStageTo : Nat := 0x11
def stWatchdog : Nat := 0x12
def stGrowTo : Nat := 0x13
def stDrain : Nat := 0x14
def stByTenant : Nat := 0x15
def stGraph : Nat := 0x20
def stTileFmt : Nat := 0x21
def stNoUnit : Nat := 0x22
def stNode : Nat := 0x23
def stTree : Nat := 0x24
def stBuild : Nat := 0x25
def stBatch : Nat := 0x26
def stCourse : Nat := 0x27
def stDiverged : Nat := 0x28
def stIllegal : Nat := 0x29
def stAlign : Nat := 0x2A
def stBounds : Nat := 0x2B
def stTrap : Nat := 0x2C
def stEmit : Nat := 0x2D
def stInputCount : Nat := 0x2E
def stVatShape : Nat := 0x2F
def stBlendOrder : Nat := 0x30
def stCstore : Nat := 0x31
def stSplatShape : Nat := 0x32
def stRayShape : Nat := 0x33

/-- detail of a header failure (table "completion record"). -/
def hdrDetail : Nat := 0xFFFFFFFF

/-- The words of a completion record. -/
def completionWords (p : Pkt) (status : Nat) (r0 r1 : Word) (detail : Nat) (time : Word) : List Word :=
  [BitVec.ofNat 32 (0xF0 + 256 * status + 65536 * p.op + 2 ^ 24 * p.stream), p.tag, BitVec.ofNat 32 p.seq,
    BitVec.ofNat 32 (p.seq / 2 ^ 32 + 65536 * p.src), r0, r1, BitVec.ofNat 32 detail, time]

/-- Counts a discarded packet in its registers (tables "Flashing registers" and "FLS_SRC_ERRn fields"). -/
def Block.countStatus (b : Block) (src status : Nat) : Block :=
  if status = stRange then (b.bump Map.flsRangeCnt 1).setErrBit (Map.flsSrcErr src) 0
  else if status = stChain then (b.bump Map.flsRangeCnt 1).setErrBit (Map.flsSrcErr src) 2
  else if status = stSeqDup ∨ status = stSeqRange then (b.bump Map.flsSeqCnt 1).setErrBit (Map.flsSrcErr src) 1
  else b

/-- The record of a packet goes out when it failed or asked for one, a chain's at its last packet (R165). -/
def Block.answer (b : Block) (p : Pkt) (status : Nat) (r0 r1 : Word) (detail : Nat) : Block :=
  let b1 := b.countStatus p.src status
  if status = stOk ∧ (p.cpl = false ∨ p.more = true) then b1
  else b1.sendRecord p.src (completionWords p status r0 r1 detail b.recTime) false

/-- Numbers leave the list of those that live, each once: a number that a reset has let the stream use again may live twice (R153, R159). -/
def dropLive (gone live : List Nat) : List Nat := gone.foldl (fun l n => l.erase n) live

/-- The numbers of a packet: its own, or those of the chain that it closes. -/
def Pkt.nums (p : Pkt) : List Nat := (List.range (p.seq + 1 - p.seq0)).map (fun i => p.seq0 + i)

/-- A packet completes: its numbers are no longer live (R153), and its record goes out (R165). -/
def Block.complete (b : Block) (t : Nat) (p : Pkt) (status : Nat) (r0 r1 : Word) (detail : Nat) : Block :=
  (b.modStrm t p.stream (fun s => { s with live := dropLive p.nums s.live })).answer p status r0 r1 detail

/-- A packet that fails its header checks or its sequence check: it holds no number (R165). -/
def Block.discard (b : Block) (p : Pkt) (status : Nat) : Block :=
  (b.countStatus p.src status).sendRecord p.src (completionWords p status 0#32 0#32 hdrDetail b.recTime) false

/-! ## Kills (R189 to R191) -/

/-- The causes that no station raises (R191). -/
def runLevel (cause : Nat) : Bool :=
  cause = stByTenant || cause = stDrain || cause = stLink || cause = stStageTo || cause = stStream

/-- Whether a new cause is reported in place of one that arose in the same cycle (R191); within one station the item of the lowest ordinal counts, and within it the lowest status (R362). -/
def killBefore (new old : KillInfo) : Bool :=
  match runLevel new.cause, runLevel old.cause with
  | true, true => decide (new.cause < old.cause)
  | true, false => true
  | false, true => false
  | false, false =>
    decide (new.station < old.station) ||
    (decide (new.station = old.station) && (decide (new.ord < old.ord) || (decide (new.ord = old.ord) && decide (new.cause < old.cause))))

/-- The stage in progress, as RUN_KILLED data0 reports it (R190). -/
def Run.stageWord (r : Run) : Word :=
  match r.phase with
  | .waiting => 0xFFFFFFFF#32
  | .staging k _ => BitVec.ofNat 32 k
  | .active k => BitVec.ofNat 32 k

/-- Index of no station (R190). -/
def noStation : Nat := 0xFF

/-- A kill takes effect: the Ridge discards the run's items, tokens and HELD entries, pending STAGE_ACKs are no longer awaited, and RUN_KILLED waits for RUN_KILL_DONE (R189, R192). -/
def Block.killOrd (b : Block) (r : RunRef) (cause station ord : Nat) (detail : Word) : Block :=
  match b.findRun r with
  | none => b
  | some run =>
    let k : KillInfo := { cause := cause, station := station, ord := ord, detail := detail, stage := run.stageWord, at_ := b.now }
    match run.killed with
    | some old => if old.at_ = b.now ∧ killBefore k old = true then b.modRun r (fun x => { x with killed := some k }) else b
    | none =>
      let b1 := b.modRun r (fun x => { x with killed := some k })
      { b1 with
        ridge := { b1.ridge with
          items := b1.ridge.items.filter (fun i => i.run ≠ r)
          tokens := b1.ridge.tokens.filter (fun x => x.run ≠ r)
          held := b1.ridge.held.filter (fun h => match h.2.1 with | .edge x _ => decide (x ≠ r) | .blend x _ => decide (x ≠ r) | .items x _ => decide (x ≠ r) | .admission _ => true) }
        seats := b1.seats.map (fun s => { s with stages := s.stages.filter (fun w => !(w.tenant = r.tenant && w.handle = r.handle)) }) }

/-- A kill that no work item raises (log entry 117). -/
def Block.killRun (b : Block) (r : RunRef) (cause station : Nat) (detail : Word) : Block := b.killOrd r cause station 0 detail

/-- A kill raised by a station. -/
def Block.killAt (b : Block) (s : StRef) (cause : Nat) (detail : Word) : Block := b.killRun (stRun s) cause s.station detail

/-- Kills every open run that a condition picks, with a run-level cause. -/
def Block.killWhere (b : Block) (pick : Run → Bool) (cause : Nat) : Block :=
  (b.runs.filter pick).foldl (fun x r => x.killRun r.ref cause noStation 0#32) b

/-! ## Stops (R95, R506) -/

/-- Governed-draw change of one interval in microwatts: limit in mA/µs × 0.1 µs at 12 V (R89). -/
def Cal.slewStep (c : Cal) : Nat := c.slew * 1200

/-- The stop ramp of R96 from the governed draw in force to the post-stop draw, in CK_MGMT cycles. -/
def rampCycles (c : Cal) (post : Nat) : Nat :=
  max c.stopRamp (20 * ceilDiv (c.gPrev - post) c.slewStep)

/-- Every stack that can be commanded goes into self-refresh, and what its Eave had in hand ends (R95). -/
def Eave.stop (e : Eave) : Eave :=
  { e with selfRefresh := e.selfRefresh || e.inService, reads := [], wq := [], par := [], window := none, test := none, testTodo := [], start := false,
           pcs := e.pcs.map (fun p => (p.1, { p.2 with event := none })), moves := e.moves.filter (fun m => !m.copying), retiring := [] }

/-- Zone copies, page-ins, evictions and pending hints end with the block's work (R95). -/
def Vat.stop (v : Vat) : Vat :=
  { v with tenants := v.tenants.map (fun t => { t with opened := false }), ranges := [], rows := v.rows.map (fun r => { r with copies := [] }),
           sheets := v.sheets.map (fun s => { s with paging := none, evict := none }) }

/-- Every unit stops work: no tenant is open, every test is abandoned, links go down (R95, R111). -/
def Block.stopWork (b : Block) : Block :=
  { b with
    seats := b.seats.map (fun s => { Seat.reset with present := s.present, retrains := s.retrains, spares := s.spares })
    gables := b.gables.map (fun g => { Gable.reset with far := g.far, perstN := if g.far then false else g.perstN })
    inq := [], streams := [], reads := [], runs := [], ended := [], ridge := Ridge.reset, cores := [], nodeCaches := []
    vat := b.vat.stop
    eaves := b.eaves.map Eave.stop
    screen := { b.screen with rot := .idle, cmd := .none, groups := b.screen.groups.filter (fun g => match g.2 with | .ended _ => true | _ => false), unitNext := none }
    start := { b.start with drainAt := none, reading := none, flWait := false, waking := none, training := [], qTests := false } }

/-- The flash pins are released while FL_RELEASE_N is low and the block is held in reset, in QUARANTINE or in MAINTENANCE (R69, R135, R138). -/
def flashReleased (st : BlockState) (releaseN : Bool) : Bool :=
  !releaseN && (match st with
    | .reset => true | .quarantine => true | .maintenance => true
    | .starting => false | .opened => false | .stopped => false)

/-- The block takes a state, and its flash pins follow (R69, R111). -/
def Block.setState (b : Block) (st : BlockState) : Block :=
  { b with start := { b.start with state := st }, pins := { b.pins with flTri := flashReleased st b.pins.flReleaseN } }

/-- The Calender starts the stop ramp; the thermal ceiling stays as it is (R105); pre-loads are cancelled and become part of it (R95, R96, R102). -/
def Block.startRamp (b : Block) : Block :=
  let post := min b.cal.gPrev (Config.postStopDraw b.free)
  let ramp : Ramp := { start := b.cal.gPrev, post := post, t0 := b.now, cycles := rampCycles b.cal post, stacksLow := false }
  { b with free := b.free + 1, cal := { b.cal with ramp := some ramp, steps := [], withheld := 0, withheldAt := [], held := 0 } }

/-- An abrupt stop into a block state (R95). A ramp in progress goes on. -/
def Block.abruptStop (b : Block) (to_ : BlockState) : Block :=
  let b1 := b.stopWork
  let b2 := if b1.cal.ramp.isSome then b1 else b1.startRamp
  ({ b2 with start := { b2.start with phase := 0 } } : Block).setState to_

/-- A block-fatal error: FATAL_CAUSE and FATAL_TIME keep the first, FAULT_N goes low, and an abrupt stop into STOPPED follows (R506, R507). -/
def Block.fatal (b : Block) (code detail : Nat) : Block :=
  let old := b.errSum
  let kept := wbit b.tel.fatalCause 16 && !(b.tel.fatalAt = b.now && decide (code < wfield b.tel.fatalCause 0 8))
  let b1 := if kept then b else
    { b with tel := { b.tel with fatalCause := BitVec.ofNat 32 (code + 256 * detail + 65536), fatalTime := b.mgmtTime, fatalAt := b.now } }
  let b2 := (b1.alertRise old).abruptStop .stopped
  { b2 with pins := { b2.pins with faultN := false } }

/-- The block is serving tenants: OPEN or MAINTENANCE. -/
def Block.serving (b : Block) : Bool := b.start.state = .opened || b.start.state = .maintenance

/-- The units work: the block is neither held in reset nor stopped (R95, R111). -/
def Block.atWork (b : Block) : Bool := b.start.state ≠ .reset && b.start.state ≠ .stopped

/-- The block with its memory in canonical form. -/
def Block.canonMem (b : Block) : Block := { b with mem := b.mem.canon }

/-- The lift of an effect on the block to the machine: the queue of waiting commands is untouched, and memory is kept in canonical form. -/
def lift (s : State) (f : Block → Block) : Host.Outcome State Fault Refusal := .next { s with b := (f s.b).canonMem }

end Sys2Proof.Machine
end

