-- ==== Sys2Proof/Machine/Streams.lean ====
section
/-! DEFINITION. Tenant streams: packet fields, the gap timer, chains, admission in order, the opening of a run, and how a FENCE ends (chapter 05). -/
namespace Sys2Proof.Machine

/-! ## Packet fields -/

def Pkt.arg (p : Pkt) (i : Nat) : Word := p.args.getD i 0#32

/-- Argument words from `k` on are zero (R147). -/
def Pkt.argsFrom (p : Pkt) (k : Nat) : Bool := (p.args.drop k).all (fun w => w = 0#32)

/-- The target of a FENCE (table "packet operations"). -/
def Pkt.fenceSeat (p : Pkt) : Bool := wbit (p.arg 0) 8
def Pkt.fenceTarget (p : Pkt) : Nat := wfield (p.arg 0) 0 8
def Pkt.fenceSeq (p : Pkt) : Nat := (p.arg 1).toNat + 2 ^ 32 * wfield (p.arg 2) 0 16

/-- Operations (table "packet operations"). -/
def opWrite : Nat := 0x01
def opRead : Nat := 0x02
def opFence : Nat := 0x03
def opRun : Nat := 0x04
def opRunKill : Nat := 0x05
def opTile : Nat := 0x06
def opAlloc : Nat := 0x07
def opFree : Nat := 0x08
def opHint : Nat := 0x09
def opGrow : Nat := 0x0A
def opReset : Nat := 0x0B
def opRegRead : Nat := 0x0C
def opRegWrite : Nat := 0x0D
def opNop : Nat := 0x0E

/-- Streams of a tenant. -/
def Block.streamsOf (b : Block) (t : Nat) : Nat := ((b.tcfg t).map (fun c => c.streams)).getD 0

/-! ## Descriptor counts (R172) -/

def descStations (l : List Byte) : Nat := wfield (wordAt l 1) 0 8
def descEdges (l : List Byte) : Nat := wfield (wordAt l 1) 8 8
def descStages (l : List Byte) : Nat := wfield (wordAt l 1) 16 8

/-! ## The gap timer (R157) -/

/-- A waiting FENCE of the tenant awaits a number that a stream has not received (R155). -/
def Block.awaited (b : Block) (t s : Nat) : Bool :=
  let st := b.strm t s
  b.streams.any (fun e => decide (e.1.1 = t) && e.2.fencing && !e.2.fenceFail &&
    (e.2.adm.head?).any (fun p => !p.fenceSeat && decide (p.fenceTarget = s) && decide (st.next ≤ p.fenceSeq) && !st.held.any (fun h => h.seq = p.fenceSeq)))

/-- Packets are held for a number below them that has not come. Packets that only a FENCE of their own stream holds back wait for no number (log entry 118). -/
def Stream.gap (s : Stream) : Bool := s.held.any (fun h => decide (s.next + s.held.length ≤ h.seq))

/-- The timer arms, re-arms when `next` has advanced, or clears (R157). -/
def Block.gapCheck (b : Block) (t s : Nat) (advanced : Bool) : Block :=
  let st := b.strm t s
  let on := st.gap || b.awaited t s
  let at_ : Option Nat := if !on then none else if advanced then some b.now else (match st.gapAt with | some x => some x | none => some b.now)
  b.modStrm t s (fun x => { x with gapAt := at_ })

/-! ## Admission (R150, R156) -/

/-- Operations whose packets may chain (R156). -/
def chainable (op : Nat) : Bool := op = opWrite || op = opRun || op = opTile || op = opHint

/-- The chain acts as one packet when its last is admitted: a RUN or TILE (R156). -/
def joined (op : Nat) : Bool := op = opRun || op = opTile

/-- A packet breaks the chain rules (R156). -/
def chainBad (chain : List Pkt) (p : Pkt) : Bool :=
  match chain with
  | [] => p.more && !chainable p.op
  | c :: _ => decide (p.op ≠ c.op) || decide (p.args ≠ c.args) || decide (4096 ≤ chain.length)

/-- The packet that a RUN or TILE chain makes: the last one with every payload in order. -/
def joinChain (chain : List Pkt) (p : Pkt) : Pkt :=
  match chain with
  | [] => p
  | c :: _ => { p with seq0 := c.seq, src0 := c.src, payload := (chain ++ [p]).flatMap (fun x => x.payload) }

/-- The run that a RUN, RUN_KILL or TILE names. -/
def Pkt.runRef (p : Pkt) (t : Nat) : RunRef := { tenant := t, handle := p.arg 0 }

/-- A run opens with the admission of its RUN (R176). -/
def Block.openRun (b : Block) (t : Nat) (p : Pkt) : Block :=
  let l := p.payload
  let r : Run := { ref := p.runRef t, src := p.src0, pkt := p, desc := l, nstage := descStages l, prio := wfield (wordAt l 2) 0 3,
                   seed := BitVec.ofNat 64 ((wordAt l 3).toNat + 2 ^ 32 * (wordAt l 4).toNat), phase := .waiting, queued := false, read := false,
                   launchedAt := 0, order := b.runOrder, stations := [], edges := [], bufs := [], ovf := false, unf := false, waitQ := false,
                   waitPool := false, killed := none }
  { b with runs := b.runs ++ [r], runOrder := b.runOrder + 1, ended := b.ended.filter (fun x => x ≠ r.ref) }

/-- A whole RUN or TILE is admitted: a RUN opens its run, unless the block is not OPEN or drains (R162) or the handle is taken (R148); a TILE must name an open run (R148, R176), and one for a run that has ended is discarded (R161). -/
def Block.admitJoined (b : Block) (t : Nat) (p : Pkt) : Block :=
  let taken := (b.findRun (p.runRef t)).isSome
  let enter (x : Block) : Block := x.modStrm t p.stream (fun s => { s with adm := s.adm ++ [p] })
  if p.op = opRun then
    if b.start.state ≠ .opened ∨ b.start.drainAt.isSome = true then b.complete t p stMaint 0#32 0#32 0
    else if taken then b.complete t p stRange 0#32 0#32 hdrDetail
    else enter (b.openRun t p)
  else if taken then enter b
  else if b.ended.contains (p.runRef t) then b.complete t p stKilled 0#32 0#32 0
  else b.complete t p stRange 0#32 0#32 hdrDetail

/-- A packet whose number is `next` is admitted (R150, R156, R145). -/
def Block.letIn (b : Block) (t : Nat) (p : Pkt) : Block :=
  let chain := (b.strm t p.stream).chain
  let b1 := b.modStrm t p.stream (fun s => { s with next := p.seq + 1, live := s.live ++ [p.seq] })
  if chainBad chain p then
    let gone := if (chain.head?).any (fun c => joined c.op) then chain.map (fun c => c.seq) else []
    (b1.modStrm t p.stream (fun s => { s with chain := [], live := dropLive gone s.live })).complete t p stChain 0#32 0#32 hdrDetail
  else if t ≠ 0 ∧ (p.op = opRegRead ∨ p.op = opRegWrite) then
    (b1.setErrBit (Map.flsSrcErr p.src) 3).complete t p stDenied 0#32 0#32 0
  else if joined p.op then
    if p.more then b1.modStrm t p.stream (fun s => { s with chain := s.chain ++ [p] })
    else (b1.modStrm t p.stream (fun s => { s with chain := [] })).admitJoined t (joinChain chain p)
  else b1.modStrm t p.stream (fun s => { s with chain := if p.more then s.chain ++ [{ p with payload := [] }] else [], adm := s.adm ++ [p] })

/-- An admitted FENCE that has not ended holds every later packet of its stream (R154). -/
def Stream.fenced (s : Stream) : Bool := s.adm.any (fun p => decide (p.op = opFence))

/-- Held packets that have become `next` are admitted in order, as far as no FENCE holds them (R150, R154). -/
def Block.admitHeld (t s : Nat) : Nat → Block → Block
  | 0, b => b
  | f + 1, b =>
    let st := b.strm t s
    match st.held.find? (fun h => h.seq = st.next) with
    | some p => if st.fenced then b else Block.admitHeld t s f ((b.modStrm t s (fun x => { x with held := x.held.erase p })).letIn t p)
    | none => b

/-- What a stream holds and can admit is admitted, and its gap timer follows (R150, R157). `advanced` says that `next` has already advanced. -/
def Block.admitOn (b : Block) (t s : Nat) (advanced : Bool) : Block :=
  let b1 := Block.admitHeld t s 1024 b
  b1.gapCheck t s (advanced || decide ((b1.strm t s).next ≠ (b.strm t s).next))

/-! ## How a FENCE ends (R153 to R155) -/

/-- A FENCE ends: the packets it has held go on in order (R154, R155). -/
def Block.endFence (b : Block) (t strm : Nat) (p : Pkt) (status : Nat) : Block :=
  let b1 := (b.modStrm t strm (fun x => { x with adm := x.adm.drop 1, fencing := false, fenceFail := false })).complete t p status 0#32 0#32 0
  let b2 := b1.admitOn t strm false
  if p.fenceSeat then b2 else b2.gapCheck t p.fenceTarget false

/-- FENCEs of the streams that a condition picks fail with status STREAM: one that waits at once, one that has not begun when it begins (R152, R155). -/
def Block.failFencesOf (b : Block) (pick : Nat → Pkt → Bool) : Block :=
  b.streams.foldl (fun (x : Block) e =>
    let st := x.strm e.1.1 e.1.2
    match st.adm.find? (fun p => decide (p.op = opFence)) with
    | some p =>
      if !pick e.1.1 p then x
      else if st.fencing then x.endFence e.1.1 e.1.2 p stStream
      else x.modStrm e.1.1 e.1.2 (fun y => { y with fenceFail := true })
    | none => x) b

/-- The FENCEs on a stream fail (R155, R158, R159). -/
def Block.failFences (b : Block) (t strm : Nat) : Block :=
  b.failFencesOf (fun u p => decide (u = t) && !p.fenceSeat && decide (p.fenceTarget = strm))

/-- The FENCEs on a seat's memory stream fail (R56, R155). -/
def Block.failSeatFences (b : Block) (n : Nat) : Block := b.failFencesOf (fun _ p => p.fenceSeat && decide (p.fenceTarget = n))

end Sys2Proof.Machine
end

