-- ==== Sys2Proof/Machine/Place.lean ====
section
/-! DEFINITION. Where every byte is and how it is reached: physical addresses, zone rows and their interleave, objects, translation, capacity, and loads and stores sector by sector (chapters 14 and 15). -/
namespace Sys2Proof.Machine

/-- Bytes of a sheet (R394). -/
def sheetBytes : Nat := 2097152
def pageBytes : Nat := 4096

/-! ## Physical addresses (R386, R413) -/

def physStack (k p o : Nat) : Nat := k * 2 ^ 45 + p * 2 ^ 39 + o
def physFelt (slice off : Nat) : Nat := 2 ^ 50 + slice * 2 ^ 25 + off
def regionOf (pa : Nat) : Nat := pa / 2 ^ 50
def eaveOf (pa : Nat) : Nat := bits pa 45 5
def pcOf (pa : Nat) : Nat := bits pa 39 6
def offOf (pa : Nat) : Nat := pa % 2 ^ 39
/-- The field that holds a physical address of Felt or stack memory. -/
def homeField (pa : Nat) : Nat := if regionOf pa = 1 then bits pa 25 25 / 12 else eaveOf pa / 3
/-- Address of the sector of a byte. -/
def sectorOf (pa : Nat) : Nat := pa / 64 * 64
/-- Logical row segment of a stack address (R413). -/
def segOf (pa : Nat) : Nat := offOf pa / 64 / 28

/-- The far region, laid out by device in the order of enumeration (R386). -/
def Block.physFar (b : Block) (dev slot off : Nat) : Nat :=
  2 ^ 51 + (sumNat ((b.vat.devs.take dev).map (fun d => d.sheets)) + slot) * sheetBytes + off

/-! ## Zones and zone rows (R418 to R421) -/

/-- Zones of a pseudo-channel for the stacks in use (table "zones per pseudo-channel"). -/
def Image.zones (g : Image) : Nat :=
  if g.height = 1 ∧ g.density = 1 then 833 else if g.height = 0 ∧ g.density = 0 then 468 else 625

def Block.zones (b : Block) : Nat := (b.start.img.map Image.zones).getD 0

/-- An Eave and its stack are in service. -/
def Block.eaveIn (b : Block) (k : Nat) : Bool := b.unitIn (k / 3) 8 (k % 3) && (b.eave k).inService

/-- A pseudo-channel is in service: neither mapped out nor dead. -/
def Block.pcIn (b : Block) (k p : Nat) : Bool :=
  b.eaveIn k && (match ((b.eave k).pc p).health with | .good => true | .failing => true | .dead => false | .mappedOut => false)

/-- The ordered column set of a kind of row, by pseudo-channel and then Eave (R419). -/
def Block.columns (b : Block) (kind : RowKind) : List (Nat × Nat) :=
  let eaves := match kind with
    | .near f => [3 * f, 3 * f + 1, 3 * f + 2]
    | .spread => List.range 24
    | .parity => List.range 24
  let all := (List.range 64).flatMap (fun p => (eaves.filter (fun k => b.pcIn k p)).map (fun k => (k, p)))
  match kind with
  | .parity => all.take (all.length / 16 * 16)
  | .near _ => all
  | .spread => all

/-- Zones of a pseudo-channel that a row or a copy holds. -/
def Vat.zonesUsed (v : Vat) (k p : Nat) : List Nat :=
  v.rows.flatMap (fun r => ((r.table ++ r.copies.map (fun c => c.2)).filter (fun z => decide (z.eave = k ∧ z.pc = p))).map (fun z => z.idx))

/-- The lowest free zone of a pseudo-channel. -/
def Block.freeZone (b : Block) (k p : Nat) : Option Zone :=
  let used := b.vat.zonesUsed k p
  ((List.range b.zones).find? (fun i => !used.contains i)).map (fun i => { eave := k, pc := p, idx := i })

/-- A new zone row, when every column has a free zone. PARITY needs 16 stacks in service (R421). -/
def Block.newRow (b : Block) (kind : RowKind) : Option ZRow :=
  let cols := b.columns kind
  let nStacks := (List.range 24).countP (fun k => b.eaveIn k)
  if cols.isEmpty ∨ (kind = .parity ∧ nStacks < 16) then none
  else
    let zs := cols.map (fun c => b.freeZone c.1 c.2)
    if zs.all (fun z => z.isSome) then
      some { id := b.vat.nextRow, kind := kind, table := zs.filterMap (fun z => z), retired := [], copies := [] }
    else none

/-- Sheet slots of a row (R420, R421). -/
def ZRow.slots (r : ZRow) : Nat :=
  match r.kind with
  | .parity => 15 * (r.table.length / 16) / 2
  | .near _ => r.table.length / 2
  | .spread => r.table.length / 2

/-- Column and offset within the zone of a byte of a sheet slot (R420, R421). -/
def ZRow.locate (r : ZRow) (slot off : Nat) : Nat × Nat :=
  let g := slot * 4096 + off / 512
  match r.kind with
  | .parity =>
    let ng := r.table.length / 16
    let row := g / (15 * ng)
    let i := g % (15 * ng)
    let grp := i / 15
    let j := i % 15
    let p := (row + grp) % 16
    (16 * grp + (if p ≤ j then j + 1 else j), row * 512 + off % 512)
  | _ =>
    let ns := r.table.length
    let row := g / ns
    ((g % ns + row * 40503 % ns) % ns, row * 512 + off % 512)

/-- The physical address of a byte of a sheet slot. -/
def ZRow.phys (r : ZRow) (slot off : Nat) : Nat :=
  let c := r.locate slot off
  match r.table[c.1]? with
  | some z => physStack z.eave z.pc (z.idx * 1048576 + c.2)
  | none => 0

def Vat.row (v : Vat) (id : Nat) : Option ZRow := v.rows.find? (fun r => r.id = id)

def Block.modRow (b : Block) (id : Nat) (f : ZRow → ZRow) : Block :=
  { b with vat := { b.vat with rows := b.vat.rows.map (fun r => if r.id = id then f r else r) } }

/-- The row and column whose zone holds a stack address. -/
def Vat.zoneAt (v : Vat) (pa : Nat) : Option (ZRow × Nat) :=
  let hit (z : Zone) : Bool := decide (z.eave = eaveOf pa ∧ z.pc = pcOf pa ∧ z.idx = offOf pa / 1048576)
  v.rows.findSome? (fun r => (r.table.findIdx? hit).map (fun c => (r, c)))

/-- The sheet slot and the offset within the sheet of a byte of a zone row's column; none for a parity granule (R420, R421). -/
def ZRow.slotAt (r : ZRow) (col off : Nat) : Option (Nat × Nat) :=
  let row := off / 512
  let split (g : Nat) : Nat × Nat := (g / 4096, g % 4096 * 512 + off % 512)
  match r.kind with
  | .parity =>
    let ng := r.table.length / 16
    let grp := col / 16
    let p := (row + grp) % 16
    let k := col % 16
    if k = p then none else some (split (row * (15 * ng) + grp * 15 + (if p < k then k - 1 else k)))
  | _ =>
    let ns := r.table.length
    some (split (row * ns + (col + ns - row * 40503 % ns) % ns))

/-- Row, sheet slot and offset of a byte of stack memory. -/
def Vat.slotOf (v : Vat) (pa : Nat) : Option (Nat × Nat × Nat) :=
  if regionOf pa = 0 then
    (v.zoneAt pa).bind (fun x => (x.1.slotAt x.2 (offOf pa % 1048576)).map (fun y => (x.1.id, y)))
  else none

/-- A byte of stack memory lies in a sheet slot. -/
def Vat.inSlot (v : Vat) (row slot pa : Nat) : Bool := (v.slotOf pa).any (fun x => decide (x.1 = row ∧ x.2.1 = slot))

/-- Slots of a row that a sheet, a page-in or the kernel region holds. -/
def Vat.slotsUsed (v : Vat) (id : Nat) : List Nat :=
  v.kernelAt.filterMap (fun d => if d.1 = id then some d.2 else none) ++
  v.sheets.flatMap (fun s =>
    (match s.place with | .stack r x => if r = id then [x] else [] | _ => []) ++
    (match s.paging with
      | some pg => (match pg.dst with | some d => if d.1 = id then [d.2] else [] | none => [])
      | none => []))

/-- The lowest free slot of a row. -/
def Vat.freeSlot (v : Vat) (r : ZRow) : Option Nat :=
  let used := v.slotsUsed r.id
  (List.range r.slots).find? (fun j => !used.contains j && !r.retired.contains j)

/-- Poisoned ranges without the addresses from `lo` up, `n` of them. -/
def poisonDel (l : List (Nat × Nat)) (lo n : Nat) : List (Nat × Nat) :=
  l.flatMap (fun r =>
    if r.2 ≤ lo ∨ lo + n ≤ r.1 then [r]
    else (if r.1 < lo then [(r.1, lo)] else []) ++ (if lo + n < r.2 then [(lo + n, r.2)] else []))

/-- The zones of a new row hold zeros and no mark, so that each parity granule is the XOR of its group's others (R421). -/
def Block.clearZones (b : Block) (zs : List Zone) : Block :=
  let mine (pa : Nat) : Bool := decide (regionOf pa = 0) && zs.contains { eave := eaveOf pa, pc := pcOf pa, idx := offOf pa / 1048576 }
  { b with mem := b.mem.filter (fun c => !mine c.1),
           poison := if b.poison.isEmpty then [] else zs.foldl (fun l z => poisonDel l (physStack z.eave z.pc (z.idx * 1048576)) 1048576) b.poison }

/-- Takes a free slot of a kind of row, making a row when no row has one. -/
def Block.takeSlot (b : Block) (kind : RowKind) : Option (Block × Nat × Nat) :=
  match (b.vat.rows.filter (fun r => r.kind = kind)).findSome? (fun r => (b.vat.freeSlot r).map (fun j => (r.id, j))) with
  | some s => some (b, s)
  | none =>
    match b.newRow kind with
    | none => none
    | some r => if r.slots = 0 then none else
      some ({ b.clearZones r.table with vat := { b.vat with rows := b.vat.rows ++ [r], nextRow := b.vat.nextRow + 1 } }, r.id, 0)

/-! ## Capacity and use -/

/-- Data in zones in service, in MiB (R441). -/
def Block.zoneMiB (b : Block) : Nat :=
  b.zones * sumNat ((List.range 24).map (fun k => (List.range 64).countP (fun p => b.pcIn k p)))

/-- Sheet slots lost to retired pages. -/
def Vat.retiredSlots (v : Vat) : Nat := sumNat (v.rows.map (fun r => r.retired.length))

/-- Sheets of stack data capacity in service. -/
def Block.stackSheets (b : Block) : Nat := b.zoneMiB / 2 - b.vat.retiredSlots

def Sheet.resident (s : Sheet) : Bool := match s.place with | .stack _ _ => true | _ => s.paging.any (fun p => p.dst.isSome)
def Sheet.holdsFar (s : Sheet) : Bool := (match s.place with | .far _ _ => true | _ => false) || s.farCopy.isSome || s.evict.isSome
def Sheet.inFelt (s : Sheet) : Bool := match s.place with | .felt => true | _ => false

/-- Free sheets of stack memory, all fields (VAT_HBM_FREE). -/
def Block.hbmFree (b : Block) : Nat := b.stackSheets - b.vat.reserved - b.vat.sheets.countP Sheet.resident

/-- Sheets of far-tier capacity in service. -/
def Vat.farSheets (v : Vat) : Nat := sumNat (v.devs.map (fun d => if d.inService then d.sheets else 0))
def Vat.farUsed (v : Vat) : Nat := v.sheets.countP Sheet.holdsFar
def Vat.farFree (v : Vat) : Nat := v.farSheets - v.farUsed

/-- Free sheets of stack memory of one field: its zones not in a row, and free slots of its rows. -/
def Block.nearFree (b : Block) (f : Nat) : Nat :=
  let cols := b.columns (.near f)
  let room := (cols.map (fun c => b.zones - (b.vat.zonesUsed c.1 c.2).length)).foldl (fun m x => min m x) b.zones
  let slots := sumNat ((b.vat.rows.filter (fun r => r.kind = .near f)).map
    (fun r => r.slots - (b.vat.slotsUsed r.id).length - r.retired.length))
  min (room * (cols.length / 2) + slots) b.hbmFree

def Vat.useHbm (v : Vat) (t : Nat) : Nat := v.sheets.countP (fun s => decide (s.tenant = t) && s.resident)
def Vat.useFar (v : Vat) (t : Nat) : Nat := v.sheets.countP (fun s => decide (s.tenant = t) && s.holdsFar)
def Vat.sparsOf (v : Vat) (t : Nat) : Nat := v.sheets.countP (fun s => decide (s.tenant = t) && s.spar)
def Vat.spars (v : Vat) : Nat := v.sheets.countP (fun s => s.spar)
/-- Allocated sheets of a tenant, FELT excluded (VAT_ALLOC). -/
def Vat.allocOf (v : Vat) (t : Nat) : Nat := v.sheets.countP (fun s => decide (s.tenant = t) && !s.inFelt)
def Vat.allocAll (v : Vat) : Nat := v.sheets.countP (fun s => !s.inFelt)

/-- Felt pages of a tenant, run buffers included (VAT_USE_FELT). -/
def Block.useFelt (b : Block) (t : Nat) : Nat :=
  sumNat ((b.vat.objs.filter (fun o => o.tenant = t)).map (fun o => o.felt.length)) +
  sumNat ((b.runs.filter (fun r => r.ref.tenant = t)).map (fun r => sumNat (r.bufs.map (fun x => x.2.2))))

/-- Bytes of Felt that the four structures of R119 take. -/
def Block.feltStructs (b : Block) : Nat :=
  (b.start.img.map (fun g => (g.rayState + g.matchStore) * 4194304)).getD 0 + 2 * 33554432

/-- Fields in service. -/
def Block.fieldsIn (b : Block) : List Nat := (List.range 8).filter (fun f => b.fieldIn f)

/-- Pages at the start of each slice of a field that the structures take, spread evenly (R119). -/
def Block.structPages (b : Block) (f : Nat) : Nat :=
  ceilDiv (ceilDiv (ceilDiv b.feltStructs pageBytes) b.fieldsIn.length) (b.slicesIn f).length

/-- Pages of a field's Felt pool (R389). -/
def Block.poolPages (b : Block) (f : Nat) : Nat := (b.slicesIn f).length * (8192 - b.structPages f)

/-- Felt pages of objects that lie in a field. -/
def Vat.objPages (v : Vat) (f : Nat) : List Nat :=
  v.objs.flatMap (fun o => o.felt.filter (fun pa => homeField pa = f))

/-- Free Felt pages of a field's pool (FLT_POOL_FREE). -/
def Block.poolFree (b : Block) (f : Nat) : Nat :=
  b.poolPages f - (b.vat.objPages f).length -
    sumNat (b.runs.map (fun r => sumNat (r.bufs.map (fun x => if x.2.1 = f then x.2.2 else 0))))

/-- The lowest free page of a slice. -/
def freePage (lo slice : Nat) (used : List Nat) : Option Nat :=
  (List.range 8192).findSome? (fun i =>
    let pa := physFelt slice (i * pageBytes)
    if i < lo ∨ used.contains pa then none else some pa)

/-- `n` pages of a field's pool, round-robin over its slices in ascending order (R389); a slice with no free page left is passed over. -/
def takePages (lo : Nat) (slices : List Nat) : Nat → Nat → List Nat → List Nat → Option (List Nat)
  | 0, _, _, acc => some acc.reverse
  | n + 1, i, used, acc =>
    let free := (List.range slices.length).findSome? (fun j =>
      (slices[(i + j) % slices.length]?).bind (fun s => (freePage lo s used).map (fun pa => (i + j, pa))))
    match free with
    | some x => takePages lo slices n (x.1 + 1) (x.2 :: used) (x.2 :: acc)
    | none => none

def Block.takeFelt (b : Block) (f n : Nat) : Option (List Nat) :=
  if b.poolFree f < n then none
  else takePages (b.structPages f) ((b.slicesIn f).map (fun i => 12 * f + i)) n 0 (b.vat.objPages f) []

/-- Residency map entries in use and their bound (R396). -/
def mapEntries : Nat := 1048576

/-! ## Distance (R392) -/

/-- Extra latency of an access from field `f` to field `g`, CK_MESH (table). -/
def purlinCost (f g : Nat) : Nat :=
  let dc := (f % 4 - g % 4) + (g % 4 - f % 4)
  if f / 4 = g / 4 then 24 * dc else if dc = 0 then 8 else 24 * dc + 4

/-- Fields in ascending order of extra latency from one, ties to the lower index (R178, R397). -/
def fieldsFrom (f : Nat) : List Nat := sortBy (fun x y => decide (purlinCost f x ≤ purlinCost f y)) (List.range 8)

/-! ## Translation (R400, R401) -/

inductive Acc where
  | load | store | fetch
  deriving DecidableEq, Repr

/-- What the translation of one byte gives. `wait` is an access that waits for a first touch or a page-in. -/
inductive Tr where
  | ok (pa : Nat) | unmapped | denied | wait | lost
  deriving DecidableEq, Repr

/-- Classes of ranges that a run maps and that are no object. -/
def courseClass : Nat := 7
def windowClass : Nat := 8

/-- An object of the tenant's own, not a course store or a window. -/
def Obj.owned (o : Obj) : Bool := decide (o.cls < 7)

/-- First address past an object: past its last sheet (R396), or past a window's last page. -/
def Obj.top (o : Obj) : Nat := if o.cls = windowClass then o.base + o.pages * pageBytes else o.base + ceilDiv o.pages 512 * sheetBytes

def Vat.findObj (v : Vat) (t va : Nat) : Option Obj :=
  v.objs.find? (fun o => decide (o.tenant = t ∧ o.base ≤ va ∧ va < o.top))

def Vat.sheet (v : Vat) (t num : Nat) : Option Sheet := v.sheets.find? (fun s => decide (s.tenant = t ∧ s.num = num))

def Block.modSheet (b : Block) (t num : Nat) (f : Sheet → Sheet) : Block :=
  { b with vat := { b.vat with sheets := b.vat.sheets.map (fun s => if s.tenant = t ∧ s.num = num then f s else s) } }

/-- Whether an object permits an access (R401). -/
def Obj.permits (o : Obj) : Acc → Bool
  | .load => o.rd
  | .store => o.wr
  | .fetch => o.ex

/-- Where a byte of a stack sheet is now. A sheet that is being evicted is out of reach once its translations are removed (R406). -/
def Vat.sheetPhys (v : Vat) (s : Sheet) (off : Nat) : Tr :=
  let at_ (d : Nat × Nat) : Tr := match v.row d.1 with | some r => .ok (r.phys d.2 off) | none => .wait
  match s.paging with
  | some pg => (match pg.dst with
      | some d => if pg.arrived.contains (off / pageBytes) then at_ d else .wait
      | none => .wait)
  | none => match s.place with
      | .stack r j => if s.touched && !s.evict.any (fun e => e.removed) then at_ (r, j) else .wait
      | .far _ _ => .wait
      | .lost => .lost
      | .felt => .wait

/-- Translation of one byte of a tenant's space (R401, R394). -/
def Vat.translate (v : Vat) (t va : Nat) (acc : Acc) : Tr :=
  match v.findObj t va with
  | none => .unmapped
  | some o =>
    if o.base + o.pages * pageBytes ≤ va then .unmapped
    else if o.permits acc = false then .denied
    else if o.placed = 3 then
      let i := (va - o.base) / pageBytes
      match o.felt[i]? with
      | some pa => if o.feltTouched.contains i then .ok (pa + va % pageBytes) else .wait
      | none => .wait
    else match v.sheet t (va / sheetBytes) with
      | some s => v.sheetPhys s (va % sheetBytes)
      | none => .unmapped

/-- The pieces of a range that lie in one sector each: address and length. -/
def cut64 : Nat → Nat → Nat → List (Nat × Nat)
  | 0, _, _ => []
  | f + 1, va, len =>
    if len = 0 then []
    else let n := min len (64 - va % 64); (va, n) :: cut64 f (va + n) (len - n)

def pieces (va len : Nat) : List (Nat × Nat) := cut64 (len / 64 + 2) va len

/-- No sector of a range waits for memory: each can be answered now. -/
def Block.rangeReady (b : Block) (t va len : Nat) (acc : Acc) : Bool :=
  (pieces va len).all (fun p => match b.vat.translate t p.1 acc with
    | .wait => false
    | .ok pa => !(acc = .store && regionOf pa = 0 && decide (1024 ≤ (b.eave (eaveOf pa)).wq.length))
    | _ => true)

/-- The set of a sheet in a translation cache, one of 2,048: 16,384 entries in 8 ways (R400). Which one is not stated. -/
def xlateSetOf (t num : Nat) : Nat := Config.xlateSet t num % 2048

/-- A translation-cache lookup by a unit of a field (R400): a hit becomes the most recently used, a miss counts, and takes an entry of its set where the sheet is there (R516). -/
def Block.xlate (b : Block) (f t va : Nat) : Block :=
  let key := (t, va / sheetBytes)
  let cache := b.vat.xlate.getD f []
  if cache.contains key then { b with vat := { b.vat with xlate := b.vat.xlate.set f (key :: cache.erase key) } }
  else
    let same := cache.filter (fun e => xlateSetOf e.1 e.2 = xlateSetOf t (va / sheetBytes))
    let cache' := if same.length < 8 then cache else match same.getLast? with | some v => cache.erase v | none => cache
    let b1 : Block := if (b.vat.sheet t (va / sheetBytes)).isSome then { b with vat := { b.vat with xlate := b.vat.xlate.set f (key :: cache') } } else b
    b1.bump Map.vatXlateMiss 1

/-- Removes a sheet's entry from the eight translation caches (R400). -/
def Block.xlateDrop (b : Block) (t num : Nat) : Block :=
  { b with vat := { b.vat with xlate := b.vat.xlate.map (fun e => (e.1, e.2.filter (fun k => k ≠ (t, num)))) } }

/-! ## Sectors -/

/-- Sectors that cross between fields (PUR_XOUT_CNT, PUR_XIN_CNT). -/
def Block.cross (b : Block) (src dst : Nat) : Block :=
  if src = dst then b else (b.bump (Map.purXoutCnt src) 1).bump (Map.purXinCnt dst) 1

/-- A stack serves a request: it leaves self-refresh, and is not idle (R429). -/
def Block.wakeStack (b : Block) (pa : Nat) : Block :=
  if regionOf pa = 0 then b.modEave (eaveOf pa) (fun e => { e with selfRefresh := false, idleAt := b.now }) else b

/-- Felt words of a range that hold a double error. -/
def Block.feltBadIn (b : Block) (pa n : Nat) : List Nat := b.feltBad.filter (fun w => decide (pa / 8 ≤ w ∧ 8 * w < pa + n))

/-- The bytes of a stack sector with differences not yet applied to it (R422). -/
def Block.stackBytes (b : Block) (pa n : Nat) : List Byte :=
  (b.eave (eaveOf pa)).par.foldl (fun l d =>
    if d.1 = sectorOf pa then xorBytes l (sliceBytes d.2 (pa % 64) n) else l) (b.mem.readN pa n)

/-- A sector lies in a poisoned range. -/
def poisoned (l : List (Nat × Nat)) (a : Nat) : Bool := l.any (fun r => decide (r.1 ≤ a ∧ a < r.2))

/-- Poisoned ranges with the addresses from `lo` up, `n` of them. -/
def poisonAdd (l : List (Nat × Nat)) (lo n : Nat) : List (Nat × Nat) := (lo, lo + n) :: poisonDel l lo n

/-- A stack sector answers UNCORRECTABLE: it is poisoned, or its pseudo-channel is dead (R417, R437). -/
def Block.sectorBad (b : Block) (pa : Nat) : Bool :=
  poisoned b.poison (sectorOf pa) || (match ((b.eave (eaveOf pa)).pc (pcOf pa)).health with | .dead => true | _ => false)

/-- The other 15 sectors of a PARITY sector's group and granule row (R421). -/
def Block.parityMates (b : Block) (pa : Nat) : Option (List Nat) :=
  match b.vat.zoneAt pa with
  | some (r, c) =>
    (match r.kind with
    | .parity =>
      let off := offOf pa % 1048576
      some (((List.range 16).filter (fun j => j ≠ c % 16)).filterMap (fun j =>
        (r.table[c / 16 * 16 + j]?).map (fun z => physStack z.eave z.pc (z.idx * 1048576 + off))))
    | _ => none)
  | none => none

/-- Rebuilds a PARITY sector from its 15 mates and writes it back (R422). -/
def Block.rebuild (b : Block) (pa : Nat) : Option Block :=
  match b.parityMates (sectorOf pa) with
  | some mates =>
    if mates.length = 15 ∧ mates.all (fun m => !b.sectorBad m) then
      let data := mates.foldl (fun l m => xorBytes l (b.stackBytes m 64)) (List.replicate 64 0#8)
      some (({ b with mem := b.mem.writeN (sectorOf pa) data, poison := poisonDel b.poison (sectorOf pa) 64 }).bump
        (Map.eavParRebuild (eaveOf pa)) 1)
    else none
  | none => none

/-- Reads bytes of one sector: the block after it, the bytes before the first that cannot be read, and the status (R388, R417, R422). A bad word of Felt takes its own 8 bytes, a bad sector of a stack all of it. -/
def Block.readSector (b : Block) (pa n : Nat) : Block × List Byte × Nat :=
  if regionOf pa = 1 then
    match b.feltBadIn pa n with
    | [] => (b, b.mem.readN pa n, stOk)
    | w :: l =>
      let first := l.foldl (fun m x => min m x) w
      (b.bump (Map.fltUncorrCnt (homeField pa)) (l.length + 1), b.mem.readN pa (8 * first - pa), stUncorrectable)
  else if regionOf pa = 0 then
    let b1 := b.wakeStack pa
    if b1.sectorBad pa then
      match b1.rebuild pa with
      | some b2 => (b2, b2.stackBytes pa n, stOk)
      | none => (b1, [], stUncorrectable)
    else (b1, b1.stackBytes pa n, stOk)
  else (b, b.mem.readN pa n, stOk)

/-- The parity granule's sector that a store to a PARITY sector must change (R421, R422). -/
def Block.paritySector (b : Block) (pa : Nat) : Option Nat :=
  match b.vat.zoneAt pa with
  | some (r, c) =>
    (match r.kind with
    | .parity =>
      let off := offOf pa % 1048576
      let p := (off / 512 + c / 16) % 16
      (r.table[c / 16 * 16 + p]?).map (fun z => physStack z.eave z.pc (z.idx * 1048576 + off / 64 * 64))
    | _ => none)
  | none => none

/-- A window is open on a pseudo-channel, or a test on the whole stack: its requests wait in the hold queue (R430, R433). -/
def Eave.holds (e : Eave) (p : Nat) : Bool := e.test.isSome || e.window.any (fun w => w.1 = p)

/-- A request for an address is served now: no window holds it, and its row is not being copied (R430, R433, R438). -/
def Eave.serves (e : Eave) (pa : Nat) : Bool :=
  !e.holds (pcOf pa) && !e.moves.any (fun m => m.copying && decide (m.pc = pcOf pa ∧ m.seg = segOf pa))

/-- The bank of an address in its stack: pseudo-channel and bank as one number. -/
def bankKey (pa : Nat) : Nat := pcOf pa + 64 * Config.bankOf (segOf pa)

/-- The row of an address is open in its bank (R501). -/
def Eave.rowHit (e : Eave) (pa : Nat) : Bool := decide (e.openRow.get (bankKey pa) = some (segOf pa))

/-- A read of the open row of an address's bank can go out: it goes before requests that need another row (R501). -/
def Eave.hitWaits (e : Eave) (pa : Nat) : Bool :=
  e.reads.any (fun r => !r.held && e.rowHit r.addr && e.serves r.addr && decide (bankKey r.addr = bankKey pa))

/-- The row of an address is opened in its bank. Queued writes of the row that closes have been served in it (R501). -/
def Eave.openFor (e : Eave) (pa : Nat) : Eave :=
  if e.rowHit pa then e
  else
    let closes (a : Nat) : Bool := e.rowHit a && e.serves a && decide (bankKey a = bankKey pa)
    { e with openRow := e.openRow.set (bankKey pa) (segOf pa), wq := e.wq.filter (fun a => !closes a) }

/-- An access opens its row, and a row opened is counted (R501). -/
def Block.openRowOf (b : Block) (k pa : Nat) : Block :=
  let b1 := b.modEave k (fun e => e.openFor pa)
  if (b.eave k).rowHit pa then b1 else b1.bump (Map.telAct k) 1

/-- A sector of an Eave's write queue goes to the stack in its row (R417, R501). -/
def Block.drainSector (b : Block) (k a : Nat) : Block :=
  (b.modEave k (fun e => { e with wq := e.wq.erase a, idleAt := b.now })).openRowOf k a

/-- A queued sector can go to the stack now: it is served, and its row is open or no read of its bank's open row waits (R501). -/
def Eave.mayDrain (e : Eave) (a : Nat) : Bool := e.serves a && (e.rowHit a || !e.hitWaits a)

/-- The oldest sector of the write queue that can go out does. -/
def Block.drainOne (b : Block) (k : Nat) : Block :=
  match (b.eave k).wq.find? (b.eave k).mayDrain with
  | some a => b.drainSector k a
  | none => b

/-- A full write queue gives up a sector: the oldest that can go out, or the oldest of all (R417). -/
def Block.makeRoom (b : Block) (k : Nat) : Block :=
  let q := (b.eave k).wq
  match q.find? (b.eave k).mayDrain, q.head? with
  | some a, _ => b.drainSector k a
  | none, some a => b.drainSector k a
  | none, none => b

/-- The write queue of a sector's Eave has a place for it (R417, R424). -/
def Block.queueOpen (b : Block) (pa : Nat) : Bool :=
  (b.eave (eaveOf pa)).wq.contains (sectorOf pa) || decide ((b.eave (eaveOf pa)).wq.length < 1024)

/-- A sector enters its Eave's write queue of 1,024 sectors, from which another leaves first when it is full (R417). -/
def Block.enqueueWrite (b : Block) (pa : Nat) : Block :=
  let k := eaveOf pa
  if (b.eave k).wq.contains (sectorOf pa) then b
  else
    (if 1024 ≤ (b.eave k).wq.length then b.makeRoom k else b).modEave k (fun e => { e with wq := e.wq ++ [sectorOf pa] })

/-- Bytes of a stack sector written with its parity difference, and the same bytes in a zone that is being copied (R422, R436). -/
def Block.putStack (b : Block) (pa : Nat) (l : List Byte) : Block :=
  let old := b.mem.readN pa l.length
  let whole := l.length = 64
  let put (x : Block) (a : Nat) : Block :=
    ({ x with mem := x.mem.writeN a l, poison := if whole then poisonDel x.poison (sectorOf a) 64 else x.poison }).enqueueWrite a
  let b1 := put b pa
  let b2 := match b.paritySector pa with
    | some q => b1.modEave (eaveOf q) (fun e =>
        { e with par := e.par ++ [(q, overlay (List.replicate 64 0#8) (pa % 64) (xorBytes old l))] })
    | none => b1
  match b.vat.zoneAt pa with
  | some (r, c) => (match r.copies.find? (fun x => x.1 = c) with
      | some x => put b2 (physStack x.2.eave x.2.pc (x.2.idx * 1048576 + offOf pa % 1048576))
      | none => b2)
  | none => b2

/-- Writes bytes of one sector: the block after it and the status (R388, R417, R513). A sector whose store fails is left as it was. -/
def Block.writeSector (b : Block) (pa : Nat) (l : List Byte) : Block × Nat :=
  if regionOf pa = 1 then
    let whole (w : Nat) : Bool := decide (pa ≤ 8 * w ∧ 8 * w + 8 ≤ pa + l.length)
    let bad := b.feltBadIn pa l.length
    if bad.all whole then
      ({ b with mem := b.mem.writeN pa l, feltBad := b.feltBad.filter (fun w => !bad.contains w) }, stOk)
    else (b.bump (Map.fltUncorrCnt (homeField pa)) 1, stUncorrectable)
  else if regionOf pa = 0 then
    let b1 := b.wakeStack pa
    match ((b1.eave (eaveOf pa)).pc (pcOf pa)).health with
    | .dead => (b1, stUncorrectable)
    | _ =>
      if l.length < 64 ∧ b1.sectorBad pa = true then
        match b1.rebuild pa with
        | some b2 => (b2.putStack pa l, stOk)
        | none => (b1, stUncorrectable)
      else (b1.putStack pa l, stOk)
  else ({ b with mem := b.mem.writeN pa l }, stOk)

/-! ## The kernel region (R120) -/

/-- Physical address of byte `off` of the kernel region. -/
def Vat.kernelPhys (v : Vat) (off : Nat) : Option Nat :=
  (v.kernelAt[off / sheetBytes]?).bind (fun d => (v.row d.1).map (fun r => r.phys d.2 (off % sheetBytes)))

/-- Takes `n` sheet slots for the kernel region. -/
def Block.takeKernel : Nat → Block → Block
  | 0, b => b
  | n + 1, b =>
    match b.takeSlot .spread with
    | some r => Block.takeKernel n { r.1 with vat := { r.1.vat with kernelAt := r.1.vat.kernelAt ++ [r.2] } }
    | none => b

/-- The stock kernels go into the kernel region, one after another in the order of the KERNEL section. -/
def Block.copyKernels (b : Block) (code : List Byte) : Block :=
  (pieces 0 code.length).foldl (fun (x : Block) p =>
    match x.vat.kernelPhys p.1 with
    | some pa => (x.putStack pa (sliceBytes code p.1 p.2))
    | none => x) (b.takeKernel (ceilDiv code.length sheetBytes))

/-- Bytes of the kernel region. -/
def Block.kernelRead (b : Block) (off len : Nat) : List Byte :=
  (pieces off len).flatMap (fun p => match b.vat.kernelPhys p.1 with
    | some pa => b.stackBytes pa p.2
    | none => List.replicate p.2 0#8)

/-- Where a stock kernel lies in the kernel region: the offset and length of its code. -/
def kernelSpan (id : Nat) : List Kernel → Nat → Option (Nat × Nat)
  | [], _ => none
  | k :: l, off => if k.id = id then some (off, k.code.length) else kernelSpan id l (off + k.code.length)

end Sys2Proof.Machine
end

