-- ==== Sys2Proof/Machine/Rs.lean ====
section
/-! DEFINITION. The sector code of R414 and R415: Reed–Solomon over GF(2^16) with four check symbols. -/
namespace Sys2Proof.Machine

/-- Product in GF(2^16) modulo x^16 + x^12 + x^3 + x + 1; `fuel` counts the bits of the multiplier. -/
def gfMulAux : Nat → Nat → Nat → Nat → Nat
  | 0, _, _, acc => acc
  | f + 1, a, b, acc =>
    let acc' := if b % 2 = 1 then acc ^^^ a else acc
    let a2 := 2 * a
    gfMulAux f (if 65536 ≤ a2 then a2 ^^^ 0x1100B else a2) (b / 2) acc'

def gfMul (a b : Nat) : Nat := gfMulAux 16 a b 0

/-- Powers by squaring; `fuel` counts the bits of the exponent. -/
def gfPowAux : Nat → Nat → Nat → Nat → Nat
  | 0, _, _, acc => acc
  | f + 1, a, n, acc => gfPowAux f (gfMul a a) (n / 2) (if n % 2 = 1 then gfMul acc a else acc)

def gfPow (a n : Nat) : Nat := gfPowAux 17 a n 1

/-- Inverse, a^(2^16 − 2). -/
def gfInv (a : Nat) : Nat := gfPow a 65534

/-- The coefficients of g(x) below its highest: x^3, x^2, x, 1 (R414). -/
def rsGen : List Nat := [15, 54, 120, 64]

/-- The four check symbols of data symbols, highest power first (R414). -/
def rsChecks (d : List Nat) : List Nat :=
  d.foldl (fun r s =>
    let q := (r.getD 0 0) ^^^ s
    List.zipWith (fun x g => x ^^^ gfMul q g) (r.drop 1 ++ [0]) rsGen) [0, 0, 0, 0]

/-- The locator of a symbol: position 0 is the highest power, x^(n − 1). -/
def rsLoc (n i : Nat) : Nat := gfPow 2 (n - 1 - i)

/-- Syndrome `j` of an error pattern over a code of `n` symbols. -/
def rsSyn (n j : Nat) (errs : List (Nat × Nat)) : Nat :=
  errs.foldl (fun acc e => acc ^^^ gfMul e.2 (gfPow (rsLoc n e.1) j)) 0

/-- What decoding finds (R415): no error, the errors to correct, or UNCORRECTABLE. -/
inductive RsAns where
  | clean
  | fix (errs : List (Nat × Nat))
  | bad
  deriving DecidableEq, Repr

/-- Decoding by the syndromes of R415: one or two symbols, or UNCORRECTABLE. -/
def rsDecode (n : Nat) (errs : List (Nat × Nat)) : RsAns :=
  let s := (List.range 4).map (fun j => rsSyn n j errs)
  let g (j : Nat) : Nat := s.getD j 0
  let agrees (l : List (Nat × Nat)) : Bool := (List.range 4).all (fun j => rsSyn n j l = g j)
  if s.all (fun x => x = 0) then .clean
  else
    match (List.range n).find? (fun i => g 0 ≠ 0 && agrees [(i, g 0)]) with
    | some i => .fix [(i, g 0)]
    | none =>
      let pairs := (List.range n).flatMap (fun i => (List.range i).map (fun j => (j, i)))
      let two (p : Nat × Nat) : Option (List (Nat × Nat)) :=
        let x := rsLoc n p.1
        let y := rsLoc n p.2
        let e1 := gfMul (g 1 ^^^ gfMul y (g 0)) (gfInv (x ^^^ y))
        let e2 := e1 ^^^ g 0
        let l := [(p.1, e1), (p.2, e2)]
        if e1 ≠ 0 ∧ e2 ≠ 0 ∧ agrees l = true then some l else none
      match pairs.findSome? two with
      | some l => .fix l
      | none => .bad

/-- The difference in the 64 data bytes that symbol errors make. -/
def rsDiff (errs : List (Nat × Nat)) : List Byte :=
  (List.range 32).flatMap (fun i =>
    leBytes 2 (errs.foldl (fun acc e => if e.1 = i then acc ^^^ e.2 else acc) 0))

end Sys2Proof.Machine
end

