-- ==== Sys2Proof/Machine/Codeword.lean ====
section
/-! DEFINITION. Codewords of the stacks: symbol errors met by a read, their correction and their marks, the row metadata, and rows that fail (R415 to R417, R432, R438). -/
namespace Sys2Proof.Machine

/-- An event starts on a pseudo-channel that is in none. -/
def Pc.startEvent (p : Pc) : Pc :=
  match p.health, p.event with
  | .dead, _ => p
  | .mappedOut, _ => p
  | _, some _ => p
  | _, none => { p with event := some (0, 0) }

/-- Free Slate spares of a bank of a pseudo-channel. -/
def Eave.spares (e : Eave) (p bank : Nat) : Nat :=
  Config.slateRows - e.moves.countP (fun m => decide (m.pc = p ∧ Config.bankOf m.seg = bank)) - e.badSpares.countP (fun x => decide (x = (p, bank)))

/-- The 4 KiB pages that hold a byte of a logical row. -/
def rowPages (seg : Nat) : List Nat :=
  let lo := seg * 1792 / pageBytes
  let hi := (seg * 1792 + 1791) / pageBytes
  if lo = hi then [lo] else [lo, hi]

/-- The pages of a row are to be retired. -/
def Eave.retireRow (e : Eave) (p seg : Nat) : Eave :=
  let new := ((rowPages seg).map (fun g => (p, g))).filter (fun x => !e.retired.contains x && !e.retiring.contains x)
  { e with retiring := e.retiring ++ new }

/-- A failure of a logical row (R438): a spare, another spare, or retired pages. -/
def Eave.failRow (e : Eave) (p seg : Nat) : Eave :=
  let bank := Config.bankOf seg
  match (e.pc p).health with
  | .good =>
    (match e.moves.find? (fun m => decide (m.pc = p ∧ m.seg = seg)) with
    | none =>
      if 0 < e.spares p bank then { e with moves := e.moves ++ [{ pc := p, seg := seg, count := 1, copying := true }] }
      else e.retireRow p seg
    | some m =>
      if m.copying then e
      else if m.count = 1 ∧ 0 < e.spares p bank then
        { e with badSpares := e.badSpares ++ [(p, bank)],
                 moves := e.moves.map (fun x => if x = m then { x with count := 2, copying := true } else x) }
      else e.retireRow p seg)
  | _ => e

/-- The differences that an error pattern and its correction leave in the data. -/
def netDiff (errs fix : List (Nat × Nat)) : List Byte := xorBytes (rsDiff errs) (rsDiff fix)

/-- An uncorrectable codeword is counted, kept and poisoned (R417). -/
def Block.uncorrectable (b : Block) (k pa : Nat) : Block :=
  let slot := offOf pa / 64 % 28
  let b1 := (({ b with poison := poisonAdd b.poison (sectorOf pa) 64 } : Block).bump (Map.eavUncorrCnt k) 1).setErrBit (Map.eavErr k) 0
  b1.modEave k (fun e => { e with lastErr := BitVec.ofNat 32 (pcOf pa + 64 * slot + 2048 * (segOf pa % 2097152)) })

/-- A pseudo-channel's corrected errors after `n` more, those of more than 1 ms before gone (R432). -/
def Block.corrected (b : Block) (x : Pc) (n : Nat) : List (Nat × Nat) :=
  x.corr.filter (fun c => decide (b.meshSince c.1 < 2000000)) ++ [(b.now, n)]

/-- Corrected symbols count towards an event: 64 within 1 ms (R432). -/
def Block.countCorrected (b : Block) (k p n : Nat) : Block :=
  b.modEave k (fun e => e.modPc p (fun x =>
    let x1 : Pc := { x with corr := b.corrected x n }
    if 64 ≤ sumNat (x1.corr.map (fun c => c.2)) then x1.startEvent else x1))

/-- Decoding of a codeword read with errors (R415, R417): the block after it, the change of the data, and whether it is uncorrectable. -/
def Block.decodeSector (b : Block) (k pa : Nat) (errs : SymErrs) (sticks : Bool) : Block × List Byte × Bool :=
  let es := (errs.filter (fun e => e.1 < 36)).map (fun e => (e.1, e.2.toNat))
  let none_ := List.replicate 64 0#8
  let change (x : Block) (d : List Byte) : Block :=
    if d.all (fun y => y = 0#8) then x else { x with mem := x.mem.writeN (sectorOf pa) (xorBytes (x.mem.readN (sectorOf pa) 64) d) }
  match rsDecode 36 es with
  | .clean => (change b (netDiff es []), netDiff es [], false)
  | .fix l =>
    let b1 := (b.bump (Map.eavCorrCnt k) 1).countCorrected k (pcOf pa) l.length
    let b2 := if sticks then b1.modEave k (fun e => e.failRow (pcOf pa) (segOf pa)) else b1
    (change b2 (netDiff es l), netDiff es l, false)
  | .bad => ((b.uncorrectable k pa).modEave k (fun e => e.failRow (pcOf pa) (segOf pa)), none_, true)

/-! ## The row metadata (R416) -/

/-- The tag of a segment differs from the one expected, or cannot be read: each codeword counts as uncorrectable, and the row is failing. -/
def Block.tagLost (b : Block) (k p seg : Nat) : Block :=
  ((List.range 28).foldl (fun (x : Block) j => x.uncorrectable k (physStack k p ((28 * seg + j) * 64))) b).modEave k (fun e => e.failRow p seg)

/-- The metadata of a segment as decoded with a difference `d` left in it: another tag, or other poison bits. -/
def Block.metaDiff (b : Block) (k p seg : Nat) (d : List Byte) : Block :=
  if wordAt d 0 ≠ 0#32 then b.tagLost k p seg
  else (List.range 28).foldl (fun (x : Block) j =>
    let a := physStack k p ((28 * seg + j) * 64)
    if wbit (wordAt d 1) j then { x with poison := if poisoned x.poison a then poisonDel x.poison a 64 else poisonAdd x.poison a 64 } else x) b

/-- The metadata codeword, 16 symbols of which 12 carry data, read with errors. One that is uncorrectable gives no tag. -/
def Block.decodeMeta (b : Block) (k p seg : Nat) (errs : SymErrs) (sticks : Bool) : Block :=
  let es := (errs.filter (fun e => e.1 < 16)).map (fun e => (e.1, e.2.toNat))
  match rsDecode 16 es with
  | .clean => b.metaDiff k p seg (netDiff es [])
  | .fix l =>
    let b1 := (b.bump (Map.eavCorrCnt k) 1).countCorrected k p l.length
    (if sticks then b1.modEave k (fun e => e.failRow p seg) else b1).metaDiff k p seg (netDiff es l)
  | .bad => b.tagLost k p seg

/-! ## Errors that an access meets -/

/-- A codeword read with errors by an access that waits for no Eave of its own, such as a merge or a rebuild. A sector in the write queue is served from it, and a poisoned or dead one is not decoded (R417). -/
def Block.meetStack (b : Block) (x : StackErr) : Block :=
  let k := eaveOf x.pa
  let served := (b.eave k).wq.contains (sectorOf x.pa) || b.sectorBad x.pa
  if regionOf x.pa ≠ 0 || !b.pcIn k (pcOf x.pa) || served then b
  else (b.decodeSector k x.pa x.errs x.sticks).1

end Sys2Proof.Machine
end

