-- ==== Sys2Proof/Machine/Paging.lean ====
section
/-! DEFINITION. Sheets and their places: contents of sheet slots and far slots, victims, evictions and the page-ins that wait for a slot (R402 to R406). -/
namespace Sys2Proof.Machine

/-! ## Sheet contents -/

/-- Parity takes the difference of bytes that change outside a store (R421). -/
def Block.fixParity (b : Block) (cells : List Host.Cell) : Block :=
  { b with mem := cells.foldl (fun (m : Mem) c =>
      match b.paritySector c.1 with
      | some q => m.write (q + c.1 % 64) (m.read (q + c.1 % 64) ^^^ c.2)
      | none => m) b.mem }

/-- A sheet slot is written with zeros (R398). -/
def Block.clearSlot (b : Block) (row slot : Nat) : Block :=
  let mine (a : Nat) : Bool := b.vat.inSlot row slot a
  let old := b.mem.filter (fun c => mine c.1)
  let granules : List Nat := match b.vat.row row with | some r => (List.range 4096).map (fun i => r.phys slot (512 * i)) | none => []
  let poison := if b.poison.isEmpty then [] else granules.foldl (fun l a => poisonDel l a 512) b.poison
  ({ b with mem := b.mem.filter (fun c => !mine c.1), poison := poison } : Block).fixParity old

/-- The bytes of a sheet slot that are not zero, by offset. -/
def Block.slotCells (b : Block) (row slot : Nat) : List (Nat × Byte) :=
  b.mem.filterMap (fun c => match b.vat.slotOf c.1 with
    | some (r, j, off) => if r = row ∧ j = slot then some (off, c.2) else none
    | none => none)

/-- Cells written into a sheet slot, parity kept. -/
def Block.putSlot (b : Block) (row slot : Nat) (cells : List (Nat × Byte)) : Block :=
  match b.vat.row row with
  | some r =>
    let new : List Host.Cell := cells.map (fun c => (r.phys slot c.1, c.2))
    let diff : List Host.Cell := new.map (fun c => (c.1, c.2 ^^^ b.mem.read c.1))
    ({ b with mem := new.foldl (fun (m : Mem) c => m.write c.1 c.2) b.mem } : Block).fixParity diff
  | none => b

/-- The bytes of a far slot that are not zero, by offset. -/
def Block.farCells (b : Block) (dev slot : Nat) : List (Nat × Byte) :=
  let lo := b.physFar dev slot 0
  (b.mem.filter (fun c => decide (lo ≤ c.1 ∧ c.1 < lo + sheetBytes))).map (fun c => (c.1 - lo, c.2))

def Block.clearFar (b : Block) (dev slot : Nat) : Block := { b with mem := b.mem.clear (b.physFar dev slot 0) sheetBytes }

/-! ## Far slots (R402, R404) -/

def Vat.farSlotsUsed (v : Vat) (dev : Nat) : List Nat :=
  v.sheets.flatMap (fun s =>
    (match s.place with | .far d x => if d = dev then [x] else [] | _ => []) ++
    (match s.farCopy with | some d => if d.1 = dev then [d.2] else [] | none => []) ++
    (match s.evict with | some e => if e.dev = dev then [e.slot] else [] | none => []))

/-- A free far slot, round-robin over the devices in service; the lowest slot of the device. -/
def Vat.takeFar (v : Vat) : Option (Nat × Nat) :=
  let n := v.devs.length
  (List.range n).findSome? (fun i =>
    let d := (v.nextDev + i) % n
    match v.devs[d]? with
    | some x => if x.inService then
        ((List.range x.sheets).find? (fun j => !(v.farSlotsUsed d).contains j)).map (fun j => (d, j)) else none
    | none => none)

/-- Sheets of far tier that a tenant's quota allows. -/
def Block.farQuota (b : Block) (t : Nat) : Nat := (b.tenant t).quotaFar * 8192

/-! ## Slots of stack memory -/

/-- The kind of zone row that holds a class. -/
def kindOf (placed field : Nat) (spread : Bool) : RowKind :=
  if placed = 2 ∨ spread = true then .spread else if placed = 6 then .parity else .near field

/-- Takes one free sheet of stack memory: of the preferred field first, then of the others (R397). -/
def Block.takeSheet (b : Block) (kind : RowKind) : Option (Block × Nat × Nat) :=
  if b.hbmFree = 0 then none
  else
    match kind with
    | .near f => (fieldsFrom f).findSome? (fun g => b.takeSlot (.near g))
    | _ => b.takeSlot kind

/-! ## Victims and evictions (R403, R404, R406) -/

/-- A sheet has an access in flight: an Eave holds a read of it (R403). -/
def Block.sheetBusy (b : Block) (row slot : Nat) : Bool :=
  b.eaves.any (fun e => e.reads.any (fun r => b.vat.inSlot row slot r.addr))

/-- A pending prefetch range covers a sheet. -/
def Vat.hinted (v : Vat) (s : Sheet) : Bool :=
  v.ranges.any (fun r => decide (r.tenant = s.tenant ∧ r.base / sheetBytes ≤ s.num ∧ s.num < r.base / sheetBytes + r.len))

/-- The sheet may be evicted from rows of a kind now (R403, R404). -/
def Block.victimOk (b : Block) (kind : RowKind) (s : Sheet) : Bool :=
  match s.place with
  | .stack r j => !s.spar && s.paging.isNone && s.evict.isNone && (b.vat.row r).any (fun x => decide (x.kind = kind)) && !b.sheetBusy r j &&
      (s.farCopy.isSome || (decide (b.vat.useFar s.tenant < b.farQuota s.tenant) && b.vat.takeFar.isSome))
  | _ => false

/-- Order of victims (R403): FAR class, no pending hint, earliest last use, lowest address. -/
def Block.victimKey (b : Block) (s : Sheet) : List Nat :=
  let far := (b.vat.findObj s.tenant (s.num * sheetBytes)).any (fun o => decide (o.cls = 5))
  let pa := match s.place with | .stack r j => (b.vat.row r).elim 0 (fun x => x.phys j 0) | _ => 0
  [b2n (!far), b2n (b.vat.hinted s), s.lastUse, pa]

/-- Lexicographic order of keys. -/
def keyLe : List Nat → List Nat → Bool
  | [], _ => true
  | _, [] => false
  | x :: xs, y :: ys => if x < y then true else if y < x then false else keyLe xs ys

def Block.victim (b : Block) (kind : RowKind) (own : Option Nat) : Option Sheet :=
  let ok := b.vat.sheets.filter (fun s => b.victimOk kind s && (match own with | some t => decide (s.tenant = t) | none => true))
  (sortBy (fun x y => keyLe (b.victimKey x) (b.victimKey y)) ok).head?

/-- The order of a sheet's pages in a page-in: the one an access needs first (R402). -/
def pageOrder (first : Nat) : List Nat := (List.range 512).map (fun i => (first + i) % 512)

/-- The next far read of a page-in goes out. -/
def Paging.send (p : Paging) (now : Nat) : Paging :=
  match (pageOrder p.first).find? (fun i => !p.arrived.contains i && !p.got.contains i && !(p.out.any (fun o => o.1 = i))) with
  | some i => { p with out := p.out ++ [(i, now)] }
  | none => p

/-- The port of a far-tier device. -/
def Vat.portOf (v : Vat) (dev : Nat) : Nat := (v.devs[dev]?.map (fun d => d.port)).getD 0

/-- Sheets in flight on a far-tier port (R402): page-ins that have their slot, and evictions that are being written. -/
def Vat.inFlight (v : Vat) (port : Nat) : Nat :=
  v.sheets.countP (fun s =>
    (s.paging.any (fun p => p.dst.isSome) && (match s.place with | .far d _ => decide (v.portOf d = port) | _ => false)) ||
    s.evict.any (fun e => !e.clean && decide (v.portOf e.dev = port)))

/-- A page-in has its slot, and its reads begin. -/
def Block.startPaging (b : Block) (t num : Nat) (d : Nat × Nat) : Block :=
  (b.clearSlot d.1 d.2).modSheet t num (fun x => { x with dirty := false, paging := x.paging.map (fun p => ({ p with dst := some d } : Paging).send b.now) })

/-- A page-in of a sheet waits for its slot. -/
def Sheet.waits (s : Sheet) : Bool := s.paging.any (fun p => p.dst.isNone)

/-- The kind of row that a sheet is placed in. -/
def Vat.kindAt (v : Vat) (s : Sheet) : Option RowKind := (v.findObj s.tenant (s.num * sheetBytes)).map (fun o => kindOf o.placed o.field o.spread)

/-- A waiting page-in may have a slot now: its port carries fewer than 64 sheets (R402), and a prefetch leaves its tenant within quota_hbm (R140, R403). -/
def Block.mayStart (b : Block) (s : Sheet) : Bool :=
  match s.place, s.paging with
  | .far d _, some p => p.dst.isNone && decide (b.vat.inFlight (b.vat.portOf d) < 64) &&
      (!p.prefetch || decide (b.vat.useHbm s.tenant < (b.tenant s.tenant).quotaHbm))
  | _, _ => false

/-- Evictions in progress in rows of a kind, and page-ins that wait for a slot of the kind. -/
def Vat.evictsOf (v : Vat) (kind : RowKind) : Nat :=
  v.sheets.countP (fun s => s.evict.isSome && (match s.place with | .stack r _ => (v.row r).any (fun x => decide (x.kind = kind)) | _ => false))
def Vat.waitsOf (v : Vat) (kind : RowKind) : Nat := v.sheets.countP (fun s => s.waits && decide (v.kindAt s = some kind))

/-- An eviction begins (R404): into the far copy's slot where one is held, else into a new one. An unchanged sheet whose copy is held is not written again. -/
def Block.beginEvict (b : Block) (v : Sheet) : Block :=
  match (match v.farCopy with | some d => some d | none => b.vat.takeFar) with
  | some d =>
    let clean := v.farCopy.isSome && !v.dirty
    if !clean && decide (64 ≤ b.vat.inFlight (b.vat.portOf d.1)) then b
    else
      let b1 : Block := if v.farCopy.isSome then b else { b with vat := { b.vat with nextDev := (d.1 + 1) % b.vat.devs.length } }
      b1.modSheet v.tenant v.num (fun x => { x with farCopy := none, evict := some { dev := d.1, slot := d.2, since := b.now, removed := false, clean := clean } })
  | none => b

/-- A waiting page-in gets its slot (R403): a free one of its field; else one resident sheet is evicted first, the tenant's own when it is at its quota and has a victim; where no sheet is a victim, a free slot of another field. -/
def Block.findRoom (b : Block) (t num : Nat) (kind : RowKind) : Block :=
  if !(b.vat.sheet t num).any b.mayStart then b
  else
    match (if b.hbmFree = 0 then none else b.takeSlot kind) with
    | some x => x.1.startPaging t num x.2
    | none =>
      if b.vat.waitsOf kind ≤ b.vat.evictsOf kind then b
      else
        let own := if (b.tenant t).quotaHbm ≤ b.vat.useHbm t then b.victim kind (some t) else none
        match (match own with | some v => some v | none => b.victim kind none) with
        | some v => b.beginEvict v
        | none => (match b.takeSheet kind with | some x => x.1.startPaging t num x.2 | none => b)

/-- The order of waiting page-ins: demands before prefetches (R408), the tenants' priority ceilings from the highest, then age (R393). -/
def Block.waitKey (b : Block) (s : Sheet) : List Nat :=
  match s.paging with
  | some p => [b2n p.prefetch, 7 - (b.tenant s.tenant).prioMax, p.since]
  | none => []

/-- The waiting page-ins have the slots that there are, in their order. -/
def Block.serveWaits (b : Block) : Block :=
  (sortBy (fun x y => keyLe (b.waitKey x) (b.waitKey y)) (b.vat.sheets.filter Sheet.waits)).foldl (fun (x : Block) s =>
    match b.vat.kindAt s with
    | some k => x.findRoom s.tenant s.num k
    | none => x) b

/-- The eviction of a sheet is cancelled before its translations are removed (R406): what is written far is discarded, a copy that still stands stays, and another victim is chosen. -/
def Block.cancelEvict (b : Block) (t num : Nat) : Block :=
  match b.vat.sheet t num with
  | some s =>
    (match s.evict with
    | some e =>
      if e.removed then b
      else (b.modSheet t num (fun x => { x with evict := none, lastUse := 5 * b.now / 1024, farCopy := if e.clean then some (e.dev, e.slot) else none })).serveWaits
    | none => b)
  | none => b

/-- An evicted sheet leaves stack memory (R404): its bytes stand in the far slot, zeros for one never touched (R398), and its slot is free. -/
def Block.leaveStack (b : Block) (s : Sheet) (e : Evict) : Block :=
  match s.place with
  | .stack r j =>
    let lo := b.physFar e.dev e.slot 0
    let b1 : Block := if e.clean then b else
      let b0 := b.clearFar e.dev e.slot
      { b0 with mem := (if s.touched then b.slotCells r j else []).foldl (fun (m : Mem) c => m.write (lo + c.1) c.2) b0.mem }
    (b1.modSheet s.tenant s.num (fun x => { x with place := .far e.dev e.slot, evict := none, farCopy := none, dirty := false, touched := true })).bump Map.vatPageoutCnt 1
  | _ => b

/-- The translations of the victims chosen 32 CK_CTL cycles ago are removed (R400, R406); a sheet whose far copy stands leaves with them, and page-ins that wait are looked at again. -/
def Block.removeVictims (b : Block) : Block :=
  let due := b.vat.sheets.filter (fun s => s.evict.any (fun e => !e.removed && decide (32 ≤ b.ctlSince e.since)))
  if due.isEmpty && !b.vat.sheets.any Sheet.waits then b
  else
    (due.foldl (fun (x : Block) s =>
      let x1 := x.xlateDrop s.tenant s.num
      match s.evict with
      | some e => if e.clean then x1.leaveStack s e else x1.modSheet s.tenant s.num (fun y => { y with evict := some { e with removed := true } })
      | none => x1) b).serveWaits

end Sys2Proof.Machine
end

