-- ==== Sys2Proof/Machine/Access.lean ====
section
/-! DEFINITION. Loads and stores of a tenant, sector by sector, the errors that they meet, and the reads that go out to the Eaves (R388, R401, R406, R513). -/
namespace Sys2Proof.Machine

/-! ## Loads and stores of a tenant -/

/-- The status of a translation that gives no address. -/
def Tr.status : Tr → Nat
  | .ok _ => stOk
  | .unmapped => stUnmapped
  | .denied => stDenied
  | .wait => stUnmapped
  | .lost => stFarLost

/-- Marks the use of a sheet (R396), and that a store has changed it (R404); an eviction of it that can still be cancelled is cancelled (R406). -/
def Block.useSheet (b : Block) (t num : Nat) (store : Bool) : Block :=
  (b.cancelEvict t num).modSheet t num (fun s => { s with lastUse := 5 * b.now / 1024, dirty := s.dirty || store })

/-- One piece of a load by a unit of field `f`: the bytes before the first that fails. -/
def Block.loadPiece (b : Block) (f t va n : Nat) (acc : Acc) : Block × List Byte × Nat :=
  let b1 := b.xlate f t va
  match b1.vat.translate t va acc with
  | .ok pa =>
    let b2 := (b1.useSheet t (va / sheetBytes) false).cross (homeField pa) f
    b2.readSector pa n
  | r => (b1, [], r.status)

/-- Loads pieces in order of address until one fails: the bytes before it, its status. -/
def Block.loadPieces (f t : Nat) (acc : Acc) : List (Nat × Nat) → Block → List Byte → Block × List Byte × Nat
  | [], b, l => (b, l, stOk)
  | p :: ps, b, l =>
    let r := b.loadPiece f t p.1 p.2 acc
    if r.2.2 = stOk then Block.loadPieces f t acc ps r.1 (l ++ r.2.1) else (r.1, l ++ r.2.1, r.2.2)

/-- A load of a range: the bytes before the first that fails, and the status (R164, R444). -/
def Block.load (b : Block) (f t va len : Nat) (acc : Acc) : Block × List Byte × Nat :=
  Block.loadPieces f t acc (pieces va len) b []

/-- One piece of a store by a unit of field `f`. -/
def Block.storePiece (b : Block) (f t va : Nat) (l : List Byte) : Block × Nat :=
  let b1 := b.xlate f t va
  match b1.vat.translate t va .store with
  | .ok pa =>
    let b2 := (b1.useSheet t (va / sheetBytes) true).cross f (homeField pa)
    b2.writeSector pa l
  | r => (b1, r.status)

/-- Stores every piece that does not fail: the status and offset of the failing piece at the lowest address (R513). -/
def Block.storePieces (f t base : Nat) (l : List Byte) : List (Nat × Nat) → Block → Nat → Nat → Block × Nat × Nat
  | [], b, st, off => (b, st, off)
  | p :: ps, b, st, off =>
    let r := b.storePiece f t p.1 (sliceBytes l (p.1 - base) p.2)
    if st = stOk ∧ r.2 ≠ stOk then Block.storePieces f t base l ps r.1 r.2 (p.1 - base)
    else Block.storePieces f t base l ps r.1 st off

/-- A store of bytes at an address: the block, the status, the offset of the first byte of the failing sector (R513). -/
def Block.store (b : Block) (f t va : Nat) (l : List Byte) : Block × Nat × Nat :=
  Block.storePieces f t va l (pieces va l.length) b stOk 0

/-- Where a byte of a tenant's space is, whatever its object permits. -/
def Vat.whereIs (v : Vat) (t va : Nat) : Option Nat :=
  match v.translate t va .load, v.translate t va .store, v.translate t va .fetch with
  | .ok pa, _, _ => some pa
  | _, .ok pa, _ => some pa
  | _, _, .ok pa => some pa
  | _, _, _ => none

/-- Errors met by an access (R388, R415): in Felt a single one is corrected and counted, a double one stays in its word, a double one in the residency map is block-fatal; a codeword of a stack is decoded. -/
def Block.applyUpsets (b : Block) (t va : Nat) (ups : List Upset) : Block :=
  ups.foldl (fun x u => match u with
    | .map f => (x.bump (Map.fltUncorrCnt f) 1).fatal 4 f
    | .single f => x.bump (Map.fltCorrCnt f) 1
    | .entry f a => (x.bump (Map.fltUncorrCnt f) 1).killAt a stUncorrectable 0#32
    | .heldRef f ten strm seq =>
      let x1 := x.bump (Map.fltUncorrCnt f) 1
      (match (x1.strm ten strm).held.find? (fun h => h.seq = seq) with
      | some h => ((x1.modStrm ten strm (fun st => { st with held := st.held.erase h })).discard h stUncorrectable).gapCheck ten strm false
      | none => x1)
    | .stack e => x.meetStack e
    | .word off double =>
      (match x.vat.whereIs t (va + off) with
      | some pa =>
        if regionOf pa = 1 then
          (if double then { x with feltBad := if x.feltBad.contains (pa / 8) then x.feltBad else (pa / 8) :: x.feltBad }
           else x.bump (Map.fltCorrCnt (homeField pa)) 1)
        else x
      | none => x)) b

/-- An access of a tenant with the errors it meets, whose offsets are addresses: where the access does nothing now it meets none. -/
def Block.meeting (b : Block) (t : Nat) (ups : List Upset) (f : Block → Block) : Block :=
  if ups.isEmpty || decide (f b = b) then f b else f (b.applyUpsets t 0 ups)

/-! ## Parity differences (R422) -/

/-- The difference at the head of an Eave's list is applied. -/
def Block.applyDiff (b : Block) (k : Nat) : Block :=
  match (b.eave k).par with
  | [] => b
  | d :: rest =>
    let b1 := b.modEave k (fun e => { e with par := rest })
    ({ b1 with mem := b1.mem.writeN d.1 (xorBytes (b1.mem.readN d.1 64) d.2) } : Block).enqueueWrite d.1

/-- Applies `n` differences of an Eave. -/
def Block.applyDiffs (k : Nat) : Nat → Block → Block
  | 0, b => b
  | n + 1, b => Block.applyDiffs k n (b.applyDiff k)

/-- Applies every difference that waits. -/
def Block.drainPar (b : Block) : Block :=
  (List.range 24).foldl (fun (x : Block) k => Block.applyDiffs k (x.eave k).par.length x) b

/-- A store to a range has a parity difference that is not yet in its Eave's write queue: it is not complete. -/
def Block.parWaits (b : Block) (t va len : Nat) : Bool :=
  (pieces va len).any (fun p => match b.vat.translate t p.1 .store with
    | .ok pa => regionOf pa = 0 && (b.paritySector pa).any (fun q => (b.eave (eaveOf q)).par.any (fun d => decide (d.1 = q)))
    | _ => false)

/-! ## Reads at the Eaves -/


/-- Stack sectors of a range, whose reads an Eave issues (R423). -/
def Block.stackSectors (b : Block) (t va len : Nat) (acc : Acc) : List Nat :=
  (pieces va len).filterMap (fun p => match b.vat.translate t p.1 acc with
    | .ok pa => if regionOf pa = 0 then some (sectorOf pa) else none
    | _ => none)

/-- Every Eave that a read of a range needs grants a read credit: it holds fewer than 4,096 reads (R424). -/
def Block.readOpen (b : Block) (t va len : Nat) (acc : Acc) : Bool :=
  (b.stackSectors t va len acc).all (fun a => decide ((b.eave (eaveOf a)).reads.length < 4096))

/-- Each Eave of the sectors `secs` has places for all the reads of `all` that go to it (R424). -/
def Block.readRoom (b : Block) (secs all : List Nat) : Bool :=
  secs.all (fun a => decide ((b.eave (eaveOf a)).reads.length + all.countP (fun q => decide (eaveOf q = eaveOf a)) ≤ 4096))

/-- Reads go out to the Eaves for a requester (R424). -/
def Block.issueReads (b : Block) (req : Requester) (secs : List Nat) : Block :=
  secs.foldl (fun x a => x.modEave (eaveOf a) (fun e =>
    let held := match e.window with | some w => decide (w.1 = pcOf a) | none => false
    let r : EaveRead := { addr := a, req := req, at_ := x.now, tries := 0, held := held, passed := 0 }
    { e with reads := e.reads ++ [r], selfRefresh := false, idleAt := x.now })) b

/-- Reads of sectors in order, up to the first whose Eave has no place: the block, and the sectors left (R424). -/
def Block.issueSome (req : Requester) : List Nat → Block → Block × List Nat
  | [], b => (b, [])
  | a :: l, b => if (b.eave (eaveOf a)).reads.length < 4096 then Block.issueSome req l (b.issueReads req [a]) else (b, a :: l)

/-- Whether an Eave still holds a read for a requester. -/
def Block.readsOut (b : Block) (req : Requester) : Bool := b.eaves.any (fun e => e.reads.any (fun r => r.req = req))

end Sys2Proof.Machine
end

