-- ==== Sys2Proof/Machine/Groups.lean ====
section
/-! DEFINITION. Screen's start-up groups, what a failing unit takes out of service, records and report entries (chapter 18). -/
namespace Sys2Proof.Machine

/-- The order in which fields wake (R99). -/
def wakeOrder : List Nat := [1, 0, 2, 3, 4, 5, 6, 7]

/-- Fields with gable ports (R19). -/
def gableFields : List Nat := [1, 2, 5, 6]

/-- Declared power of group `k` of a field in microwatts (table "start-up test groups per field"). -/
def groupPower (k : Nat) : Nat :=
  match k with
  | 0 => 1000000 | 1 => 18750000 | 2 => 4000000 | 3 => 24000000 | 4 => 30000000 | 5 => 20000000
  | 6 => 50000000 | 7 => 8000000 | 8 => 10000000 | 9 => 20000000
  | _ => if k ≤ 12 then 14400000 else 12800000

/-- Last method of a group: 1 loop-back, 2 reference, 3 march, 4 scan. -/
def groupMethod (k : Nat) : Nat := if k ≤ 2 then 2 else if k ≤ 5 then 1 else 3

/-- Coverage word of a group (R491). -/
def groupCoverage (k : Nat) : Nat := if k ≤ 6 then 10000 else if k ≤ 8 then 9650 else 9720

/-- Units of a group: class and index within the field. -/
def groupUnits (f k : Nat) : List (Nat × Nat) :=
  let run (c lo n : Nat) : List (Nat × Nat) := (List.range n).map (fun i => (c, lo + i))
  match k with
  | 0 => run 11 0 8 ++ run 12 0 4
  | 1 => run 13 0 13
  | 2 => run 14 0 (if gableFields.contains f then 6 else 3)
  | 3 => run 8 0 3
  | 4 => run 9 0 1
  | 5 => run 10 0 3
  | 6 => run 7 0 12
  | 7 => run 17 0 12
  | 8 => run 15 0 1 ++ run 16 0 1
  | 9 => run 2 0 1 ++ run 3 0 1 ++ run 4 0 9 ++ run 5 0 4 ++ run 6 0 12
  | _ => if k ≤ 12 then run 1 (6 * (k - 10)) 6 else run 0 (8 * (k - 13)) 8 ++ run 18 (k - 13) 1

/-- The group that must have ended before group `k` of its field is ready (R485). -/
def groupPred (k : Nat) : Option Nat :=
  if k = 0 then none else if k ≤ 2 then some (k - 1) else if k ≤ 7 then some 2 else some (k - 1)

/-- Fields that wake: those of the image, or all when no image has been applied (R117, R136). -/
def Block.fieldOn (b : Block) (f : Nat) : Bool :=
  match b.start.img with
  | some g => g.fieldEnable.getLsbD f
  | none => true

/-- A destructive or plain block test runs (R498). -/
def Block.blockTest (b : Block) : Option Bool := match b.screen.cmd with | .block d => some d | _ => none

/-- Screen's groups run: phase 4, the tests of R136, or a block test. -/
def Block.groupsRun (b : Block) : Bool :=
  decide (b.start.state = .starting ∧ b.start.phase = 4) || b.start.qTests || b.blockTest.isSome

/-- Group `k` of field `f` takes part in the run in progress (R117, R132, R136, R498). -/
def Block.groupIn (b : Block) (f k : Nat) : Bool :=
  decide (k < 22) && b.start.woken.contains f &&
  (if k = 4 then b.start.state ≠ .quarantine && (b.seat f).present && (b.owner f).isSome
      && b.start.img.any (fun g => g.seatEnable.getLsbD f)
   else if k = 5 then gableFields.contains f
   else if k = 6 then b.blockTest ≠ some false
   else true)

def Block.group (b : Block) (g : Nat) : Option GroupState := b.screen.groups.get g

def Block.groupEnded (b : Block) (g : Nat) : Bool :=
  match b.group g with | some (.ended _) => true | _ => false

/-- Every group of every woken field has ended (R487). -/
def Block.allGroupsEnded (b : Block) : Bool :=
  b.start.woken.all (fun f => (List.range 22).all (fun k => !b.groupIn f k || b.groupEnded (32 * f + k)))

/-- The group's predecessor has ended and been reinitialised (R483, R485). -/
def Block.groupReady (b : Block) (f k : Nat) : Bool :=
  match groupPred k with
  | none => true
  | some p => (match b.group (32 * f + p) with | some (.ended t1) => decide (t1 + 4000 ≤ b.now) | _ => false)

/-- Groups that wait for the Calender, in Screen's order (R485). -/
def Block.waitingGroups (b : Block) : List Nat :=
  if b.groupsRun then
    (wakeOrder.filter (fun f => b.start.woken.contains f)).flatMap (fun f =>
      ((List.range 22).filter (fun k => b.groupIn f k && (b.group (32 * f + k)).isNone && b.groupReady f k)).map (fun k => 32 * f + k))
  else []

def Block.setGroup (b : Block) (g : Nat) (s : GroupState) : Block :=
  { b with screen := { b.screen with groups := b.screen.groups.set g s } }

/-- A word from fields: value and lowest bit. -/
def packFields (l : List (Nat × Nat)) : Word := l.foldl (fun w x => w ||| (BitVec.ofNat 32 x.1 <<< x.2)) 0#32

/-- Bit `i` for each `i` below `n` that holds. -/
def flagsWord (n : Nat) (p : Nat → Bool) : Word := (List.range n).foldl (fun w i => w ||| bitWord (p i) i) 0#32

def w32 (n : Nat) : Word := BitVec.ofNat 32 n

/-! ## The registers of a seat (chapter 02) -/

/-- SEAT_CREDIT_TO, CK_CTL cycles (RWI). -/
def Block.seatCreditTo (b : Block) : Nat := (b.start.img.map (fun g => g.seatCreditTo)).getD 10000

/-- Numbers of a memory stream are 48 bits wide (R48). -/
def memNums : Nat := 2 ^ 48

/-- The position of the memory stream: the lowest number that it has not reached. LOADs and STOREs stand in link order, so it is the first one's. -/
def Seat.position (s : Seat) : Nat := match s.ops with | o :: _ => o.num | [] => s.memNext

def linkCode : LinkState → Nat
  | .down => 0 | .training => 1 | .opened => 2 | .fault => 3

/-- LOADs accepted and not answered: those in hand, and those whose LOAD_DATA has not left. A LOAD_DATA that answers a range error is none. -/
def Seat.loadsOut (s : Seat) : Nat :=
  s.ops.countP (fun o => !o.store) + s.outq.countP (fun p => decide (p.kind = 3 ∧ wfield p.hdr.w3 0 8 ≠ stRange))

/-- Seat registers (chapter 02). -/
def Block.seatReg (b : Block) (n off : Nat) : Word :=
  let s := b.seat n
  match off with
  | 0x00 => packFields [(linkCode s.state, 0), (b2n s.present, 2), (s.spares % 4096, 3), (min s.retrains 1023, 15)]
  | 0x04 => w32 b.seatCreditTo
  | 0x10 => w32 s.loadsOut
  | 0x14 => w32 (s.position % 2 ^ 32)
  | 0x18 => w32 (s.position / 2 ^ 32 % 65536)
  | _ => 0#32

/-- A seat's set keeps what it held when the seat left service, its link DOWN (R36, R511). -/
def Block.keepSeatSet (b : Block) (f : Nat) : Block :=
  let hold (x : Block) (off : Nat) : Block := x.setLast (Map.seatBase f + off) (b.seatReg f off)
  let b1 := [0x10, 0x14, 0x18].foldl hold b
  b1.setLast (Map.seatBase f) (b.seatReg f 0 &&& ~~~3#32)

/-- A field's set keeps the free pages that it showed when the field left service (R511). Nothing else of the set moves once no unit of the field works. -/
def Block.keepFieldSet (b : Block) (f : Nat) (free : Nat) : Block := b.setLast (Map.fltBase f + 4) (w32 free)

/-! ## Out of service (R488) -/

/-- The units that leave service with one (table "effect of a failure"). -/
def failsWith (cls idx : Nat) : List (Nat × Nat) :=
  if cls = 18 then (18, idx) :: (4, idx) :: (List.range 8).map (fun i => (0, 8 * idx + i))
  else if cls = 14 then [(14, idx), (if idx < 3 then (8, idx) else (10, idx - 3))]
  else [(cls, idx)]

/-- A seat's link goes DOWN for good (R36). -/
def Block.closeSeat (b : Block) (f : Nat) : Block :=
  let b1 := if (b.lasts.get (Map.seatBase f)).isNone then b.keepSeatSet f else b
  b1.modSeat f (fun s => { Seat.reset with present := s.present })

/-- Gable ports of a field close to traffic, those whose place in the field a condition picks. -/
def Block.closePorts (b : Block) (f : Nat) (pick : Nat → Bool) : Block :=
  { b with gables := b.gables.mapIdx (fun p g => if gableField p = f ∧ pick (p % 3) = true then { g with opened := false } else g) }

/-- A field that leaves service takes its seat, its stacks and its gable ports out (R21, R22). -/
def Block.closeField (b : Block) (f : Nat) : Block :=
  let off (k : Nat) (e : Eave) : Eave := if k / 3 = f then { e with inService := false, start := false } else e
  let b1 : Block := { b with eaves := b.eaves.mapIdx off }
  (b1.closeSeat f).closePorts f (fun _ => true)

/-- A unit leaves service, with what depends on it. A Purlin stop does not (R22). -/
def Block.removeUnit (b : Block) (f cls idx : Nat) : Block :=
  if cls = 17 then b else
  let ids := (failsWith cls idx).map (fun u => unitId f u.1 u.2)
  let b1 : Block := { b with screen := { b.screen with out := b.screen.out ++ ids.filter (fun i => !b.screen.out.contains i) } }
  let b2 := (failsWith cls idx).foldl (fun (x : Block) u =>
    if u.1 = 8 then x.modEave (3 * f + u.2) (fun e => { e with inService := false, start := false })
    else if u.1 = 9 then x.closeSeat f
    else if u.1 = 10 then x.closePorts f (fun i => decide (i = u.2))
    else x) b1
  if b.fieldIn f && !b2.fieldIn f then (b2.keepFieldSet f (b.poolFree f)).closeField f else b2

/-! ## Records and reports (R490, R491) -/

/-- A repair record is stored, or counted when the store is full (R490). -/
def Block.addRecord (b : Block) (when_ : Nat) (x : Finding) : Block :=
  if 4096 ≤ b.screen.records.length then (b.bump Map.scrRecLost 1).setErrBit Map.scrErr 3
  else
    let v3 := if x.kind = 1 then 0xFFFF else if x.kind = 0 ∨ x.kind = 2 then x.v3 % 65536 else 0
    let r : RepairRec :=
      { w0 := BitVec.ofNat 32 (x.unit % 65536 + 65536 * (x.kind % 16) + 2 ^ 20 * when_ + (if x.kind ≤ 1 then 2 ^ 24 * (x.array % 256) else 0)),
        w1 := x.v1, w2 := BitVec.ofNat 32 (x.v2 % 65536 + 65536 * v3), w3 := b.mgmtTime }
    { b with screen := { b.screen with records := b.screen.records ++ [r] } }

/-- The report entry of a group. -/
def reportEntry (g result duration failed : Nat) : ReportEntry :=
  let k := g % 32
  { w0 := BitVec.ofNat 32 (g + 65536 * groupMethod k + 2 ^ 24 * result), w1 := BitVec.ofNat 32 (groupCoverage k),
    w2 := BitVec.ofNat 32 duration, w3 := BitVec.ofNat 32 (failed % 65536) }

/-- The report entry that Screen shows; one never run reads result 3 (R491). -/
def Block.report (b : Block) (g : Nat) : ReportEntry := b.screen.reports.getD g (reportEntry g 3 0 0)

def Block.setReport (b : Block) (g result duration failed : Nat) : Block :=
  { b with screen := { b.screen with reports := b.screen.reports.set g (reportEntry g result duration failed) } }

/-- Spare rows of an array: 16 in a Felt bank, 4 in any other (R484). -/
def spareRows (cls : Nat) : Nat := if cls = 7 then 16 else 4

/-- A finding takes effect: a failing row beyond the spares of its array is no repair (R484). Its record, the repair or the removal, and the event bits (R484, R488, R93, R104). -/
def Block.applyFinding (b : Block) (when_ : Nat) (x : Finding) : Block :=
  let f := x.unit % 8
  let cls := x.unit / 8 % 32
  let idx := x.unit / 256 % 256
  let row := (x.unit % 65536, x.array % 256, x.v1.toNat)
  let known := b.screen.repaired.contains row
  let kind := if x.kind = 0 ∧ known = false ∧ spareRows cls ≤ b.screen.repaired.countP (fun r => decide (r.1 = row.1 ∧ r.2.1 = row.2.1)) then 1 else x.kind
  let b1 := b.addRecord when_ { x with kind := kind }
  if kind = 0 then { b1.setErrBit Map.scrErr 1 with screen := { b1.screen with repaired := b1.screen.repaired ++ (if known then [] else [row]) } }
  else if cls = 17 then
    let stop := (3 * (f / 4) + idx / 4, 4 * (f % 4) + idx % 4)
    let n := 16 * stop.1 + stop.2
    let planes := if b1.screen.planes.contains (n, x.plane) then b1.screen.planes else b1.screen.planes ++ [(n, x.plane)]
    let b2 : Block := { b1 with screen := { b1.screen with planes := planes } }
    if planes.contains (n, 0) && planes.contains (n, 1) then b2.fatal 5 n else b2
  else
    let b2 := (b1.removeUnit f cls idx).setErrBit Map.scrErr 0
    if cls = 13 then b2.setErrBit Map.calEvents 3 else if cls = 11 then b2.setErrBit Map.calEvents 5 else b2

/-- The command test that runs has ended (table "SCR_CMD_STATUS fields"). -/
def Block.endCmd (b : Block) : Block := { b with screen := { b.screen with cmd := .none, cmdStatus := b.screen.cmdStatus ||| 0x100#32 } }

/-- A command test has put a unit out of service. -/
def Block.cmdFailed (b : Block) (failed : Bool) : Block :=
  if failed then { b with screen := { b.screen with cmdStatus := b.screen.cmdStatus ||| 0x200#32 } } else b

/-! ## Ballast (R93) -/

/-- Ballast segments in service (R21, R93). -/
def Block.segments (b : Block) : Nat :=
  sumNat ((List.range 8).map (fun f => if b.fieldIn f then (List.range 13).countP (fun i => !b.unitOut f 13 i) else 0))

/-- Ballast capacity in service, whole watts: 18.75 W a segment. -/
def Block.ballastCap (b : Block) : Nat := 75 * b.segments / 4

/-- Ballast capacity on VDD_CORE in microwatts: 1,450 W of the 1,950 W, and of what is in service the same share (R93, log entry 110). -/
def Block.coreCap (b : Block) : Nat := 1450000000 * b.segments / 104

/-- Ballast segments of a field that have passed, in microwatts of their rating (R486). -/
def Block.fieldBallast (b : Block) (f : Nat) : Nat := 18750000 * (List.range 13).countP (fun i => !b.unitOut f 13 i)

/-- The ballast draws a power; VDD_CORE is filled first (R93). -/
def Block.setBallast (b : Block) (p : Nat) : Block :=
  let core := min p b.coreCap
  { b with cal := { b.cal with ballast := p, onCore := core, onFelt := p - core } }

/-- The effective cap in watts (R91). -/
def Block.effCap (b : Block) : Nat := min b.cal.pwrCap (270 + b.ballastCap)

end Sys2Proof.Machine
end

