-- ==== Sys2Proof/Machine/Seat.lean ====
section
/-! DEFINITION. The seat links: headers, credits, the memory stream, faults, stages and sideband alerts (chapter 02). -/
namespace Sys2Proof.Machine

/-! ## Header cells (table "seat packet header cell") -/

def SeatHdr.kind (h : SeatHdr) : Nat := wfield h.w0 0 4
def SeatHdr.ncells (h : SeatHdr) : Nat := wfield h.w0 4 9
def SeatHdr.tag (h : SeatHdr) : Nat := wfield h.w0 16 16
def SeatHdr.addr (h : SeatHdr) : Nat := h.w1.toNat + 2 ^ 32 * wfield h.w2 0 16
def SeatHdr.size (h : SeatHdr) : Nat := wfield h.w2 16 8 + 1
def SeatHdr.status (h : SeatHdr) : Nat := wfield h.w3 0 8
def SeatHdr.ack (h : SeatHdr) : Bool := wbit h.w3 8
def SeatHdr.rsvdOk (h : SeatHdr) : Bool := wfield h.w0 13 3 = 0 && wfield h.w2 24 8 = 0 && wfield h.w3 9 23 = 0

/-- Range checks of a header cell by its kind (R42, R43). -/
def SeatHdr.ok (h : SeatHdr) : Bool :=
  h.rsvdOk && h.status = 0 &&
  (match h.kind with
  | 0 => h.ncells = 0 && h.tag = 0 && h.addr = 0 && h.size = 1 && !h.ack
  | 1 => h.ncells = 0 && !h.ack && decide (h.addr % 256 + h.size ≤ 256)
  | 2 => decide (h.ncells = ceilDiv h.size 16) && decide (h.addr % 256 + h.size ≤ 256)
  | 5 => decide (4 ≤ h.ncells ∧ h.ncells ≤ 256) && h.tag = 0 && h.addr = 0 && h.size = 1 && !h.ack
  | 7 => h.ncells = 0 && h.tag = 0 && h.size = 1 && !h.ack
  | _ => false)

/-! ## The memory stream (R48) -/

/-- How far a number lies past the position, modulo 2^48. -/
def Seat.ahead (s : Seat) (num : Nat) : Nat := (num + memNums - s.position) % memNums

/-- A LOAD or STORE takes its number and its place in the memory stream (R48). -/
def Seat.accept (s : Seat) (o : MemOp) : Seat := { s with memNext := (s.memNext + 1) % memNums, ops := s.ops ++ [o] }

/-- Two accesses touch a common 64-byte sector (R49). -/
def MemOp.meets (x y : MemOp) : Bool :=
  decide (x.addr / 64 ≤ (y.addr + y.size - 1) / 64) && decide (y.addr / 64 ≤ (x.addr + x.size - 1) / 64)

/-- A seat short-packet status (R43) of what memory answers: a lost sheet reads as data that memory cannot return. -/
def seatStatus (st : Nat) : Nat := if st = stFarLost then stUncorrectable else st

def Block.modOp (b : Block) (n num : Nat) (f : MemOp → MemOp) : Block :=
  b.modSeat n (fun s => { s with ops := s.ops.map (fun o => if o.num = num then f o else o) })

/-- An access reads or writes its sectors once memory can answer and every earlier access to a common sector has acted (R49). -/
def Block.actOp (b : Block) (n : Nat) (o : MemOp) : Block :=
  match b.owner n with
  | none => b
  | some t =>
    let acc := if o.store then Acc.store else Acc.load
    let earlier := ((b.seat n).ops.takeWhile (fun x => decide (x.num ≠ o.num))).any (fun x => !x.acted && x.meets o)
    if o.acted || earlier || !b.rangeReady t o.addr o.size acc then b
    else if o.store then
      let r := b.store n t o.addr o.data
      r.1.modOp n o.num (fun x => { x with acted := true, status := seatStatus r.2.1 })
    else
      let secs := b.stackSectors t o.addr o.size .load
      if !b.readRoom secs secs then b
      else
        let r := b.load n t o.addr o.size .load
        let b1 := r.1.modOp n o.num (fun x => { x with acted := true, data := r.2.1, status := seatStatus r.2.2 })
        b1.issueReads (.seat n o.num) secs

/-! ## Answers -/

/-- LOAD_DATA (R44): its data cells are zero when the status is not OK. -/
def Block.sendLoadData (b : Block) (n tag size status : Nat) (data : List Byte) : Block :=
  let nc := ceilDiv size 16
  b.seatSend n { kind := 3, hdr := mkHdr 3 nc tag 0 0 (size - 1) status,
                 data := padTo 16 (if status = stOk then data else List.replicate size 0#8), cells := 1 + nc, sent := 0, run := none }

/-- STORE_DONE (R44). -/
def Block.sendStoreDone (b : Block) (n tag status : Nat) : Block :=
  b.seatSend n { kind := 4, hdr := mkHdr 4 0 tag 0 0 0 status, data := [], cells := 1, sent := 0, run := none }

/-! ## FAULT (R56) -/

/-- Runs with a command packet in flight on a seat link (R56). -/
def Seat.runsInFlight (s : Seat) (t : Nat) : List RunRef :=
  (s.cmds.filterMap (fun c => if wfield (wordAt c.bytes 0) 0 8 = 6 then some { tenant := t, handle := wordAt c.bytes 6 } else none)) ++
  ((s.outq.filter (fun p => p.kind = 5)).filterMap (fun p => p.run.map (fun r => { tenant := r.1, handle := r.2 }))) ++
  (s.unret.filterMap (fun u => u.2.map (fun r => { tenant := r.1, handle := r.2 })))

/-- A link flit leaves with the link's state (R39, R57); its frame number is the one last received (log entry 114). -/
def Block.sendFlit (b : Block) (n loads stores cmds : Nat) : Block :=
  b.emitOut (.linkFlit n (b.seat n).frame loads stores cmds (b.seat n).state (b.ctr (Map.seatCorrCnt n)))

/-- Entry to FAULT: cells in flight are discarded in both directions, LOADs and STOREs that have acted stand and the others are dropped (log entry 115), runs with a TILE in flight are killed, the memory stream ends, and the link flits carry the state (R56, R57). -/
def Block.linkFault (b : Block) (n : Nat) : Block :=
  let s := b.seat n
  let b1 : Block := match b.owner n with
    | some t => (s.runsInFlight t).foldl (fun (x : Block) r => x.killRun r stLink noStation 0#32) b
    | none => b
  let b2 := b1.modSeat n (fun s => { s with state := .fault, faultAt := b1.now, ops := [], cmds := [], outq := [], unret := [],
                                            creditAt := none, respCr := 0, loadCr := 0, storeCr := 0, cmdCr := 0,
                                            loadRet := 0, storeRet := 0, cmdRet := 0, memNext := 0 })
  let mine (r : EaveRead) : Bool := match r.req with | .seat m _ => decide (m = n) | .lath _ _ _ => false | .packet _ _ _ => false
  let quiet (e : Eave) : Eave := { e with reads := e.reads.filter (fun r => !mine r) }
  let b3 : Block := { b2 with eaves := b2.eaves.map quiet }
  (b3.failSeatFences n).sendFlit n 0 0 0

/-- A credit overrun (R46). -/
def Block.overrun (b : Block) (n : Nat) : Block := (b.setErrBit (Map.seatErr n) 1).linkFault n

/-- The link is OPEN. -/
def Block.linkOpen (b : Block) (n : Nat) : Bool := (b.seat n).state = .opened && decide (n < 8)

/-- Credits granted when the block serves tenants (R45, R121). -/
def Seat.grant (s : Seat) : Seat := { s with loadCr := 4096, storeCr := 8192, cmdCr := 8192, loadRet := 0, storeRet := 0, cmdRet := 0 }

/-- A STAGE to a seat, with its timeout armed (R52, R53); a kill of its run takes it from the link's queue (R189). On a link in FAULT it is sent once the link reopens (R79). -/
def Block.sendStage (b : Block) (n : Nat) (r : RunRef) (k : Nat) : Block :=
  let b1 := b.modSeat n (fun s => { s with stages := s.stages ++ [{ tenant := r.tenant, handle := r.handle, stage := k, armed := b.now }] })
  if (b1.seat n).state = .fault then b1 else b1.seatSend n { kind := 6, hdr := mkHdr 6 0 0 r.handle.toNat k 0 0, data := [], cells := 1, sent := 0, run := some (r.tenant, r.handle) }

/-- SEAT_ALERT (R57): a falling edge counts only while the link is OPEN. -/
def execSeatAlert (n : Nat) (s : State) : Host.Outcome State Fault Refusal :=
  lift s (fun b => if b.linkOpen n then b.linkFault n else b)

/-- SEAT_UNCORRECTABLE_LINK_ERROR (R55): two or more bits in one group stop the link, a single bit is corrected and counted. -/
def execSeatUncorrectableLinkError (n errBits : Nat) (s : State) : Host.Outcome State Fault Refusal :=
  lift s (fun b =>
    if !b.linkOpen n || errBits = 0 then b
    else if errBits = 1 then b.bump (Map.seatCorrCnt n) 1
    else (b.setErrBit (Map.seatErr n) 0).linkFault n)

/-- The link reopens: credits granted afresh, pending STAGEs sent again with their timeouts armed from the reopening (R56, R79). -/
def Block.reopen (b : Block) (n spares : Nat) : Block :=
  let old := (b.seat n).stages
  let b1 := b.modSeat n (fun s =>
    let s1 := { s with state := .opened, spares := spares, retrains := min 1023 (s.retrains + 1), memNext := 0, stages := [], rstN := true }
    if b.serving then s1.grant else s1)
  old.foldl (fun x w => x.sendStage n { tenant := w.tenant, handle := w.handle } w.stage) b1

/-- SEAT_LINK_RETRAIN_DONE (R56, R79): the link reopens, or stays DOWN and the event goes to the admin tenant. -/
def execSeatLinkRetrainDone (n : Nat) (ok : Bool) (spares : Nat) (s : State) : Host.Outcome State Fault Refusal :=
  lift s (fun b =>
    if (b.seat n).state ≠ .fault then b
    else if ok then b.reopen n spares
    else
      let b1 := b.modSeat n (fun s => { s with state := .down, rstN := false })
      let b2 := { b1 with screen := { b1.screen with out := unitId n 9 0 :: b1.screen.out } }
      b2.tenantEvent 0 evCapacity [0#32, 0#32, 0#32, BitVec.ofNat 32 b2.zoneMiB])

/-- Response-cell credits that come back, oldest cells first (R56). -/
def dropReturned : Nat → List (Nat × Option (Nat × Word)) → List (Nat × Option (Nat × Word))
  | _, [] => []
  | n, (k, r) :: l => if n = 0 then (k, r) :: l else if k ≤ n then dropReturned (n - k) l else (k - n, r) :: l

/-- COMMAND-cell credits are denied while an admission queue of the seat's tenant is HELD (R382). -/
def Block.admissionHeld (b : Block) (t : Nat) : Bool :=
  b.ridge.held.any (fun h => decide (h.1 = t) && (match h.2.1 with | .admission _ => true | _ => false))

/-- SEAT_LINK_FLIT (R39, R45, R57, R122): the sender's frame number and corrected-error count are taken. On an OPEN link credits come in, credits consumed go back once tenants are open, and waiting cells leave; in FAULT the answer carries the state alone. -/
def execSeatLinkFlit (n frame credits corrected : Nat) (s : State) : Host.Outcome State Fault Refusal :=
  lift s (fun b =>
    let b1 := b.modSeat n (fun x => { x with frame := frame, peerCorr := corrected })
    if (b.seat n).state = .fault then b1.sendFlit n 0 0 0
    else if !b.linkOpen n then b else
    let st := b1.seat n
    let denied := (b1.owner n).any (fun t => b1.admissionHeld t)
    let cmds := if denied then 0 else st.cmdRet
    let b2 := b1.modSeat n (fun x =>
      let x1 := { x with respCr := x.respCr + credits, unret := dropReturned credits x.unret }
      if b1.serving then { x1 with loadCr := x1.loadCr + x1.loadRet, storeCr := x1.storeCr + x1.storeRet, cmdCr := x1.cmdCr + cmds,
                                   loadRet := 0, storeRet := 0, cmdRet := x1.cmdRet - cmds } else x1)
    let ret (k : Nat) : Nat := if b1.serving then k else 0
    (b2.sendFlit n (ret st.loadRet) (ret st.storeRet) (ret cmds)).pumpSeat n)

/-- SEAT_LOAD (R43, R45, R48, R54): a header cell that no other command takes; of those a kind that is reserved or that only the block sends is a range error (log entry 114). A LOAD: credit, range check, number, translation; the read starts when memory can answer. -/
def execSeatLoad (n : Nat) (h : SeatHdr) (upsets : List Upset) (s : State) : Host.Outcome State Fault Refusal :=
  lift s (fun b =>
    if !b.linkOpen n || (h.kind = 0 && h.ok) || h.kind = 2 || h.kind = 5 || h.kind = 7 then b
    else if h.kind = 0 then b.setErrBit (Map.seatErr n) 4
    else if h.kind ≠ 1 then ((b.bump (Map.telSeatIn n) 1).setErrBit (Map.seatErr n) 4)
    else if (b.seat n).loadCr = 0 then b.overrun n
    else
      let b1 := (b.bump (Map.telSeatIn n) 1).modSeat n (fun x => { x with loadCr := x.loadCr - 1, loadRet := x.loadRet + 1 })
      if !h.ok then (b1.setErrBit (Map.seatErr n) 4).sendLoadData n h.tag h.size stRange []
      else
        let num := (b1.seat n).memNext
        let o : MemOp := { num := num, store := false, addr := h.addr, size := h.size, tag := BitVec.ofNat 16 h.tag, ack := false,
                           data := [], acted := false, status := stOk }
        let b2 := b1.modSeat n (fun x => x.accept o)
        let b3 := match b2.owner n with | some t => b2.applyUpsets t h.addr upsets | none => b2
        if (b3.seat n).state = .opened then b3.actOp n o else b3)

/-- LOAD_DATA (R44): a LOAD whose reads have returned is answered. -/
def execLoadData (n num : Nat) (s : State) : Host.Outcome State Fault Refusal :=
  lift s (fun b =>
    match (b.seat n).ops.find? (fun o => decide (o.num = num) && !o.store) with
    | none => b
    | some o =>
      let b1 := b.actOp n o
      match (b1.seat n).ops.find? (fun o => o.num = num) with
      | none => b1
      | some o1 =>
        if !o1.acted || b1.readsOut (.seat n num) then b1
        else
          let b2 := b1.modSeat n (fun x => { x with ops := x.ops.filter (fun y => y.num ≠ num) })
          let b3 := if o1.status = stOk then b2 else b2.setErrBit (Map.seatErr n) 5
          b3.sendLoadData n o1.tag.toNat o1.size o1.status o1.data)

/-- SEAT_STORE (R43, R45, R46, R48, R516): a STORE whose cells have all arrived is numbered and its sectors are written. -/
def execSeatStore (n : Nat) (h : SeatHdr) (cells : List Byte) (upsets : List Upset) (s : State) : Host.Outcome State Fault Refusal :=
  lift s (fun b =>
    let k := 1 + h.ncells
    if !b.linkOpen n || h.kind ≠ 2 then b
    else if (b.seat n).storeCr < k then (b.bump (Map.telSeatIn n) ((b.seat n).storeCr + 1)).overrun n
    else
      let b1 := (b.bump (Map.telSeatIn n) k).modSeat n (fun x => { x with storeCr := x.storeCr - k, storeRet := x.storeRet + k })
      if !h.ok then (b1.setErrBit (Map.seatErr n) 4).sendStoreDone n h.tag stRange
      else
        let o : MemOp := { num := (b1.seat n).memNext, store := true, addr := h.addr, size := h.size, tag := BitVec.ofNat 16 h.tag,
                           ack := h.ack, data := sliceBytes cells 0 h.size, acted := false, status := stOk }
        let b2 := b1.modSeat n (fun x => x.accept o)
        let b3 := match b2.owner n with | some t => b2.applyUpsets t h.addr upsets | none => b2
        if (b3.seat n).state = .opened then b3.actOp n o else b3)

/-! ## COMMANDs (R42, R50) -/

/-- The packet of a byte string (table "command packet header"). -/
def parsePacket (src : Nat) (l : List Byte) (lenOk : Nat → Bool) : Pkt :=
  let w (i : Nat) : Word := wordAt l i
  let plen := wfield (w 0) 8 12
  let seq := (w 1).toNat + 2 ^ 32 * wfield (w 2) 0 16
  { src := src, op := wfield (w 0) 0 8, plen := plen, more := wbit (w 0) 20, cpl := wbit (w 0) 21,
    seq := seq, seq0 := seq, src0 := src, stream := wfield (w 2) 16 8, tag := w 3,
    addr := (w 4).toNat + 2 ^ 32 * wfield (w 5) 0 16, args := (List.range 8).map (fun i => w (6 + i)),
    rsvdOk := wfield (w 0) 22 10 = 0 && wfield (w 2) 24 8 = 0 && wfield (w 5) 16 16 = 0 && w 14 = 0#32 && w 15 = 0#32,
    lenOk := lenOk plen, payload := sliceBytes l 64 (min plen (l.length - 64)) }

/-- COMMANDs at the head that wait for no STORE are handed to Flashing, and their cells consumed (R45, R50). `before` says whether an outstanding STORE precedes a number. -/
def releaseCmds (n : Nat) (before : Nat → Bool) : List SeatCmd → List Pkt × Nat × List SeatCmd
  | [] => ([], 0, [])
  | c :: l =>
    if before c.after then ([], 0, c :: l)
    else
      let r := releaseCmds n before l
      let p := parsePacket n c.bytes (fun plen => c.ncells = ceilDiv (64 + plen) 16)
      (p :: r.1, c.cells + r.2.1, r.2.2)

/-- Hands over what the STOREs outstanding let through (R50). -/
def Block.handOver (b : Block) (n : Nat) : Block :=
  let s := b.seat n
  let before (after : Nat) : Bool := s.ops.any (fun o => o.store && decide (s.ahead o.num < s.ahead after))
  let r := releaseCmds n before s.cmds
  let b1 := b.modSeat n (fun s => { s with cmds := r.2.2, cmdRet := s.cmdRet + r.2.1 })
  { b1 with inq := b1.inq ++ r.1 }

/-- STORE_DONE (R44, R48, R422): a STORE whose parity writes are queued completes; it is answered when it asked for it or failed, and COMMANDs behind it may go on. -/
def execStoreDone (n num : Nat) (s : State) : Host.Outcome State Fault Refusal :=
  lift s (fun b =>
    match (b.seat n).ops.find? (fun o => decide (o.num = num) && o.store) with
    | none => b
    | some o =>
      let b1 := b.actOp n o
      match (b1.seat n).ops.find? (fun o => o.num = num) with
      | none => b1
      | some o1 =>
        if !o1.acted || (b1.owner n).any (fun t => o1.status = stOk && b1.parWaits t o1.addr o1.size) then b1
        else
          let b2 := b1.modSeat n (fun x => { x with ops := x.ops.filter (fun y => y.num ≠ num) })
          let b3 := if o1.status = stOk then b2 else b2.setErrBit (Map.seatErr n) 5
          let b4 := if o1.ack || o1.status ≠ stOk then b3.sendStoreDone n o1.tag.toNat o1.status else b3
          b4.handOver n)

/-- A COMMAND as its cells bring it: it waits for the STOREs numbered so far (R50). -/
def seatCmdOf (s : Seat) (h : SeatHdr) (cells : List Byte) : SeatCmd :=
  { cells := 1 + h.ncells, after := s.memNext, bytes := sliceBytes cells 0 (16 * h.ncells), ncells := h.ncells }

/-- SEAT_COMMAND (R42, R43, R45, R46, R50, R56): a COMMAND that overruns its credit is discarded in part by the FAULT, which kills the run of a TILE (log entry 115); another is taken in, and handed to Flashing once every STORE before it has completed. -/
def execSeatCommand (n : Nat) (h : SeatHdr) (cells : List Byte) (s : State) : Host.Outcome State Fault Refusal :=
  lift s (fun b =>
    let k := 1 + h.ncells
    if !b.linkOpen n || h.kind ≠ 5 then b
    else if (b.seat n).cmdCr < k then ((b.bump (Map.telSeatIn n) ((b.seat n).cmdCr + 1)).modSeat n (fun x => { x with cmds := x.cmds ++ [seatCmdOf x h cells] })).overrun n
    else
      let b1 := (b.bump (Map.telSeatIn n) k).modSeat n (fun x => { x with cmdCr := x.cmdCr - k })
      if !h.ok then (b1.modSeat n (fun x => { x with cmdRet := x.cmdRet + k })).setErrBit (Map.seatErr n) 4
      else
        (b1.modSeat n (fun x => { x with cmds := x.cmds ++ [seatCmdOf x h cells] })).handOver n)

/-! ## Stages (R52, R53, R192) -/

/-- A stage begins once its last STAGE_ACK has come. -/
def Run.ackStage (r : Run) (n k : Nat) : Run :=
  match r.phase with
  | .staging j acks => if j = k then (let rest := acks.erase n; { r with phase := if rest.isEmpty then .active k else .staging k rest }) else r
  | _ => r

/-- The RUN packet of a run whose stage 0 has begun completes (R179). -/
def Block.runBegun (b : Block) (ref : RunRef) (k : Nat) : Block :=
  match b.findRun ref with
  | some r => if k = 0 ∧ r.phase = .active 0 then b.complete ref.tenant r.pkt stOk ref.handle 0#32 0 else b
  | none => b

/-- STAGE_ACK (R53, R192): releases a pending stage start; one that names no pending STAGE is a range error, unless its run was killed. -/
def execStageAck (n : Nat) (h : SeatHdr) (s : State) : Host.Outcome State Fault Refusal :=
  lift s (fun b =>
    if !b.linkOpen n || h.kind ≠ 7 then b
    else
      let b0 := b.bump (Map.telSeatIn n) 1
      if !h.ok then b0.setErrBit (Map.seatErr n) 4
      else
        match b0.owner n with
        | none => b0
        | some t =>
          let k := wfield h.w2 0 16
          let ref : RunRef := { tenant := t, handle := h.w1 }
          let mine (w : StageWait) : Bool := decide (w.tenant = t ∧ w.handle = h.w1 ∧ w.stage = k)
          if (b0.seat n).stages.any mine then
            ((b0.modSeat n (fun x => { x with stages := x.stages.filter (fun w => !mine w) })).modRun ref (fun r => r.ackStage n k)).runBegun ref k
          else if b0.ended.contains ref || (b0.findRun ref).any (fun r => r.killed.isSome) then b0
          else b0.setErrBit (Map.seatErr n) 4)

/-- SEAT_CREDIT_TIMEOUT (R47, R10): no credit let a ready cell go within SEAT_CREDIT_TO. -/
def execSeatCreditTimeout (n : Nat) (s : State) : Host.Outcome State Fault Refusal :=
  lift s (fun b =>
    match (b.seat n).creditAt with
    | some t0 => if b.linkOpen n && !(b.seat n).outq.isEmpty && decide (b.seatCreditTo ≤ b.ctlSince t0) then (b.setErrBit (Map.seatErr n) 2).linkFault n else b
    | none => b)

/-- STAGE_ACK_TIMEOUT (R53, R10): the run is killed with STAGE_TO, and the link stays OPEN. -/
def execStageAckTimeout (n t : Nat) (handle : Word) (s : State) : Host.Outcome State Fault Refusal :=
  lift s (fun b =>
    match (b.seat n).stages.find? (fun w => decide (w.tenant = t ∧ w.handle = handle)) with
    | some w =>
      if decide ((b.seat n).state ≠ .fault) && decide (b.seatCreditTo ≤ b.ctlSince w.armed) then
        (b.setErrBit (Map.seatErr n) 3).killRun { tenant := t, handle := handle } stStageTo noStation 0#32
      else b
    | none => b)

end Sys2Proof.Machine
end

