-- ==== Sys2Proof/Machine/Gable.lean ====
section
/-! DEFINITION. The host role of the gable ports, the management bus and the test port (chapter 02). -/
namespace Sys2Proof.Machine

/-- Sets a bit of GAB_ERR and signals a port error (R63, table "error classes"). -/
def Block.gabErr (b : Block) (p i : Nat) : Block :=
  (b.modGable p (fun g => { g with err := g.err ||| BitVec.ofNat 32 (2 ^ i) })).emitOut (.msix p 2)

/-- The 4,096 bytes of a slot. -/
def Slot.all (s : Slot) : List Byte := (List.range 4096).map (fun i => s.bytes.getD i 0#8)

def Gable.slot (g : Gable) (k : Nat) : Slot := g.slots.getD k { bytes := [], committed := false }

/-- Bytes written into a slot from an offset. -/
def Slot.put (s : Slot) (off : Nat) (l : List Byte) : Slot :=
  { s with bytes := (l.zip (List.range l.length)).foldl (fun m x => m.set (off + x.2) x.1) s.bytes }

/-- GAB_SLOT_WRITE (R62): bytes go into an uncommitted slot; a committed one discards them and sets GAB_ERR.slot. A write that leaves the bytes of its slot before the commit word is discarded and sets GAB_ERR.range (log entry 116). -/
def execGabSlotWrite (p k off : Nat) (l : List Byte) (s : State) : Host.Outcome State Fault Refusal :=
  lift s (fun b =>
    if !b.hostOpen p then b
    else if 4096 ≤ k ∨ 4092 < off + l.length then b.gabErr p 2
    else if ((b.gable p).slot k).committed then b.gabErr p 0
    else b.modGable p (fun g => { g with slots := g.slots.set k ((g.slot k).put off l) }))

/-- The block takes committed packets (R62): after phase 8, unless an admission queue of the port's tenant is HELD (R122, R382) or the port's response ring is full (R63, log entry 119). -/
def Block.takeSlots (b : Block) (p : Nat) : Block :=
  let held := (b.owner (8 + p)).any (fun t => b.admissionHeld t)
  let full := decide ((b.gable p).ringSize ≠ 0) && (b.gable p).ringFull
  if !b.serving || held || full then b
  else
    let g := b.gable p
    let pkts := g.waiting.map (fun k => parsePacket (8 + p) (g.slot k).all (fun plen => decide (64 + plen ≤ 4096)))
    let free (m : Kv Nat Slot) (k : Nat) : Kv Nat Slot := m.set k { g.slot k with committed := false }
    let b1 : Block := b.modGable p (fun g => { g with waiting := [], taken := (g.taken + pkts.length) % 2 ^ 32, slots := g.waiting.foldl free g.slots })
    { b1 with inq := b1.inq ++ pkts }

/-- GAB_COMMIT (R62, R146): the commit word is bytes 4,092 to 4,095 of the packet. -/
def execGabCommit (p k : Nat) (w : Word) (s : State) : Host.Outcome State Fault Refusal :=
  lift s (fun b =>
    if !b.hostOpen p then b
    else if 4096 ≤ k then b.gabErr p 2
    else if ((b.gable p).slot k).committed then b.gabErr p 0
    else
      let put (g : Gable) : Slot := { (g.slot k).put 4092 (leBytes 4 w.toNat) with committed := true }
      (b.modGable p (fun g => { g with slots := g.slots.set k (put g), waiting := g.waiting ++ [k] })).takeSlots p)

/-- A write of GAB_RING_SIZE (R64): 16 to 28 registers the ring, with GAB_RING_TAIL modulo its size; any other value, a word with a rsvd bit set among them (log entry 116), sets GAB_ERR.ring_range and leaves no ring. -/
def Block.ringSizeWrite (b : Block) (p : Nat) (v : Word) : Block :=
  if !b.hostOpen p then b
  else if 16 ≤ v.toNat ∧ v.toNat ≤ 28 then
    ((b.modGable p (fun g => { g with ringSize := v.toNat, ringTail := g.ringTail % 2 ^ v.toNat })).flushRing p).takeSlots p
  else (b.modGable p (fun g => { g with ringSize := 0 })).gabErr p 1

/-- A write of GAB_RING_HEAD (R63): the host frees ring space, held records flow, and slots are taken again. -/
def Block.ringHeadWrite (b : Block) (p : Nat) (v : Word) : Block :=
  if !b.hostOpen p then b else ((b.modGable p (fun g => { g with ringHead := v.toNat })).flushRing p).takeSlots p

/-- GAB_RING_SIZE_WRITE (R64). -/
def execGabRingSizeWrite (p : Nat) (v : Word) (s : State) : Host.Outcome State Fault Refusal :=
  lift s (fun b => b.ringSizeWrite p v)

/-- GAB_RING_HEAD_WRITE (R63). -/
def execGabRingHeadWrite (p : Nat) (v : Word) (s : State) : Host.Outcome State Fault Refusal :=
  lift s (fun b => b.ringHeadWrite p v)

/-- HOST_CONFIG_REQUEST (R122): Retry Status until phase 8 has finished. -/
def execHostConfigRequest (p : Nat) (s : State) : Host.Outcome State Fault Refusal :=
  lift s (fun b => if !b.hostOpen p then b else b.emitOut (.configAnswer p (!b.serving)))

/-- Sources that the GATE stations of a descriptor name. -/
def descGates (l : List Byte) : List Nat :=
  (List.range (wfield (wordAt l 1) 0 8)).filterMap (fun i =>
    if wfield (wordAt l (16 + 8 * i)) 0 4 = 2 then some (wfield (wordAt l (21 + 8 * i)) 0 5) else none)

/-- GA_PERST_N_FALL (R78): the port closes, its runs are killed, its records and untaken slots go, its BAR2 registers reset. -/
def execGaPerstNFall (p : Nat) (s : State) : Host.Outcome State Fault Refusal :=
  lift s (fun b =>
    if (b.gable p).far || decide (12 ≤ p) then b
    else
      let b1 := b.killWhere (fun r => (descGates r.desc).contains (8 + p)) stLink
      let clear (g : Gable) : Kv Nat Slot := g.slots.map (fun e => (e.1, { e.2 with committed := false }))
      b1.modGable p (fun g => { Gable.reset with slots := clear g }))

/-- A trained link may open its port when it is x4 or wider, 16 GT/s or faster, and in FLIT mode (R61). -/
def Gable.mayOpen (g : Gable) : Bool := decide (1 ≤ g.width) && decide (1 ≤ g.rate) && g.flit

/-- A link has trained: its width, rate and mode are kept, and the port opens when they allow it. -/
def Gable.train (g : Gable) (l : LinkTrained) : Gable :=
  let g1 : Gable := { g with width := l.width % 4, rate := l.rate % 4, flit := l.flit }
  { g1 with opened := g1.mayOpen }

/-- Screen has passed the port's PHY loop-back test: the group PHY_G of its field has ended and left the port in service (R117). -/
def Block.phyGPassed (b : Block) (p : Nat) : Bool := b.portIn p && (match b.screen.groups.get (32 * gableField p + 5) with | some (.ended _) => true | _ => false)

/-- GA_PERST_N_RISE (R78, R117): an enabled host port in service trains again. -/
def execGaPerstNRise (p : Nat) (link : LinkTrained) (s : State) : Host.Outcome State Fault Refusal :=
  lift s (fun b =>
    if (b.gable p).far || decide (12 ≤ p) then b
    else
      let b1 := b.modGable p (fun g => { g with perstN := true })
      let may := b.portIn p && b.start.img.any (fun g => g.gabEnable.getLsbD p) && (b.owner (8 + p)).isSome
        && (b.serving || decide (4 ≤ b.start.phase)) && b.phyGPassed p && !(b.gable p).opened
      if may then b1.modGable p (fun g => g.train link) else b1)

/-- I3C_DYNAMIC_ADDRESS (R70): the I3C target takes a dynamic address; an SMBus target has none. -/
def execI3cDynamicAddress (a : BitVec 7) (s : State) : Host.Outcome State Fault Refusal :=
  lift s (fun b => if b.pins.mgMode || !b.pins.pwrGood then b else { b with pins := { b.pins with dynAddr := some a, mgTarget := a } })

/-- TAP_1500_ACCESS (R72): refused while the stack's Eave is in service. -/
def execTap1500Access (k : Nat) (s : State) : Host.Outcome State Fault Refusal :=
  lift s (fun b => if k < 24 then b.emitOut (.tap k (b.eaveIn k)) else b)

end Sys2Proof.Machine
end

