-- ==== Sys2Proof/Machine/Queues.lean ====
section
/-! DEFINITION. Hardware queues, the Gutter and the HELD state (R370 to R373, R380 to R384). -/
namespace Sys2Proof.Machine

/-- Gutter pages of the entries of a queue beyond its on-die ring (R372, R380). -/
def queueSpill (n : Nat) : Nat := ceilDiv (n - 16) 128

/-- Gutter pages that a run's queues and spilled hit entries take. -/
def Run.gutter (items : List Item) (r : Run) : Nat :=
  sumNat (r.edges.map (fun e => queueSpill e.tiles.length)) +
  sumNat (r.stations.map (fun s => s.body.pages)) +
  sumNat ((List.range r.stations.length).map (fun i => queueSpill (items.countP (fun x => decide (x.run = r.ref ∧ x.station = i) && x.fired))))

/-- Gutter pages in use by a tenant (RDG_GUTTER_USED). -/
def Block.gutterUsed (b : Block) (t : Nat) : Nat :=
  sumNat ((b.streams.filter (fun e => e.1.1 = t)).map (fun e => e.2.held.length + queueSpill e.2.held.length)) +
  sumNat ((b.runs.filter (fun r => r.ref.tenant = t)).map (fun r => r.gutter b.ridge.items)) +
  ceilDiv (b.ridge.items.countP (fun x => decide (x.run.tenant = t) && x.spilled)) 64

/-- Pages of a tenant's Gutter (R380). -/
def Block.gutterSize (b : Block) (t : Nat) : Nat := ((b.tcfg t).map (fun c => if c.enabled then c.gutter * 262144 else 0)).getD 0

def Block.gutterFree (b : Block) (t : Nat) : Nat := b.gutterSize t - b.gutterUsed t

def Block.isHeld (b : Block) (t : Nat) (q : HeldQueue) : Bool := b.ridge.held.any (fun h => decide (h.1 = t ∧ h.2.1 = q))

/-- A queue enters HELD (R381). -/
def Block.hold (b : Block) (t : Nat) (q : HeldQueue) : Block :=
  if b.isHeld t q then b
  else (({ b with ridge := { b.ridge with held := b.ridge.held ++ [(t, q, b.now)] } } : Block).bump Map.rdgHeldCnt 1).setErrBit Map.rdgErr 0

/-- The number of a queue (R370). -/
def Block.queueNo (b : Block) (t : Nat) : HeldQueue → Nat
  | .admission s => 256 * t + s
  | .edge r e => ((b.findRun r).bind (fun x => x.edges[e]?)).elim 0 (fun x => x.queue)
  | .items r i => ((b.findRun r).bind (fun x => x.stations[i]?)).elim 0 (fun x => x.queue)
  | .blend r i => ((b.findRun r).bind (fun x => x.stations[i]?)).elim 0 (fun x => x.queue)

/-- The room that one more entry of a queue needs in the Gutter. -/
def needsPage (before after : Nat) : Nat := queueSpill after - queueSpill before

end Sys2Proof.Machine
end

