-- ==== Sys2Proof/Machine/RunBase.lean ====
section
/-! DEFINITION. Runs as their stations see them: format codes, the descriptor, edges and their rings, emitting and taking tiles, memory for stations (chapters 06, 07 and 13). -/
namespace Sys2Proof.Machine

/-! ## Format codes (R194 to R197) -/

def kindOfCode (c : Nat) : Nat := c % 16
def codeSr (c : Nat) : Bool := bitAt c 4
def codeSat (c : Nat) : Bool := bitAt c 5

/-- The floating-point format of a kind. -/
def fmtOf (c : Nat) : Option Fmt :=
  match kindOfCode c with
  | 1 => some .fp32 | 2 => some .bf16 | 3 => some .fp16 | 4 => some .e4m3 | 5 => some .e5m2
  | _ => none

/-- The valid codes (R194, R195). -/
def codeOk (c : Nat) : Bool :=
  decide (c < 64) &&
  (match kindOfCode c with
  | 0 => decide (c / 16 = 0) | 6 => decide (c / 16 = 0) | 7 => decide (c / 16 = 0)
  | 1 => true | 2 => true | 3 => true
  | 4 => codeSat c | 5 => codeSat c
  | _ => false)

def rawCode : Nat := 0
def fp32Code : Nat := 1

/-- Data bytes of a tile (R196, R197). -/
def dataBytes (code rows cols : Nat) : Option Nat :=
  match kindOfCode code with
  | 0 => some (rows * cols)
  | 1 => some (4 * rows * cols) | 6 => some (4 * rows * cols) | 7 => some (4 * rows * cols)
  | 2 => some (2 * rows * cols) | 3 => some (2 * rows * cols)
  | 4 => if cols % 32 = 0 then some (rows * cols + rows * cols / 32) else none
  | 5 => if cols % 32 = 0 then some (rows * cols + rows * cols / 32) else none
  | _ => none

/-- Bytes of one element of a format that has no scales. -/
def elemBytes (code : Nat) : Nat :=
  match kindOfCode code with
  | 1 => 4 | 6 => 4 | 7 => 4 | 2 => 2 | 3 => 2 | _ => 1

/-- Pairs that Sizing converts (R218). -/
def pairOk (a z : Nat) : Bool :=
  codeOk a && codeOk z &&
  (match fmtOf a, fmtOf z with
  | some _, some _ => true
  | none, none => decide (kindOfCode a = kindOfCode z)
  | _, _ => false)

/-! ## The descriptor (R172 to R174) -/

/-- The station type of a number (R173). -/
def stType : Nat → Option StType
  | 0 => some .size | 1 => some .vat | 2 => some .gate | 3 => some .mould | 4 => some .yealm | 5 => some .rafter
  | 6 => some .couch | 7 => some .lath | 8 => some .bin | 9 => some .blend | 10 => some .pack
  | _ => none


/-- Station entry `i` (R173). -/
def stationEntry (l : List Byte) (i : Nat) : StationEntry :=
  let w (j : Nat) : Word := wordAt l (16 + 8 * i + j)
  { type := (stType (wfield (w 0) 0 4)).getD .size, stage := wfield (w 0) 8 6, field := wfield (w 0) 14 3, pin := wbit (w 0) 17,
    units := wfield (w 0) 24 8, kernel := wfield (w 1) 0 16, split := wfield (w 1) 16 2, sheafs := wfield (w 1) 18 5,
    paramAddr := (w 2).toNat + 2 ^ 32 * wfield (w 3) 0 16, paramLen := (w 4).toNat, gsource := wfield (w 5) 0 5, gout := wbit (w 5) 5,
    gstream := wfield (w 5) 6 8, gfmt := wfield (w 5) 14 8, codeAddr := (w 6).toNat + 2 ^ 32 * wfield (w 7) 0 16 }

/-- Edge entry `j` (R174). -/
def edgeEntry (l : List Byte) (j : Nat) : EdgeEntry :=
  let at_ := 16 + 8 * descStations l + 4 * j
  let w (i : Nat) : Word := wordAt l (at_ + i)
  { src := wfield (w 0) 0 8, sport := wfield (w 0) 8 2, dst := wfield (w 0) 16 8, dport := wfield (w 0) 24 2, fmt := wfield (w 1) 0 8,
    depth := wfield (w 1) 8 8, rows := wfield (w 2) 0 16, cols := wfield (w 2) 16 16 }

/-- The station class of units, and how many a field has (R173, table "unit id"). BIN, BLEND and PACK have no unit class of Screen's: one unit a field. -/
def unitClass : StType → Option (Nat × Nat)
  | .size => some (5, 4)
  | .vat => some (6, 12)
  | .mould => some (2, 1)
  | .yealm => some (3, 1)
  | .rafter => some (1, 18)
  | .couch => some (4, 9)
  | .lath => some (0, 72)
  | _ => none

/-! ## Stations of a run -/

/-- A station that works: its run has launched, is in the station's stage and not killed, and the station has not finished. -/
def Block.live (b : Block) (a : StRef) : Option (Run × Station) :=
  match b.findRun (stRun a) with
  | none => none
  | some r =>
    match r.stations[a.station]? with
    | none => none
    | some s => if r.killed.isNone && decide (r.phase = .active s.entry.stage) && !s.finished then some (r, s) else none

/-- A station of the active stage, finished or not. -/
def Block.staged (b : Block) (a : StRef) : Option (Run × Station) :=
  match b.findRun (stRun a) with
  | none => none
  | some r =>
    match r.stations[a.station]? with
    | none => none
    | some s => if r.killed.isNone && decide (r.phase = .active s.entry.stage) then some (r, s) else none

def Block.modSt (b : Block) (a : StRef) (f : Station → Station) : Block := b.modRun (stRun a) (fun r => r.modSt a.station f)
def Block.modEdge (b : Block) (r : RunRef) (j : Nat) (f : Edge → Edge) : Block := b.modRun r (fun x => { x with edges := modAt x.edges j f })

/-- The edge into an input port, and the edge from an output port. -/
def Run.inEdge (r : Run) (i port : Nat) : Option (Nat × Edge) :=
  (r.edges.findIdx? (fun e => decide (e.entry.dst = i ∧ e.entry.dport = port))).bind (fun j => r.edges[j]?.map (fun e => (j, e)))
def Run.outEdge (r : Run) (i port : Nat) : Option (Nat × Edge) :=
  (r.edges.findIdx? (fun e => decide (e.entry.src = i ∧ e.entry.sport = port))).bind (fun j => r.edges[j]?.map (fun e => (j, e)))

/-- Largest rows and columns, and format, of the edge at a port. -/
def Run.outShape (r : Run) (i port : Nat) : Option EdgeEntry := (r.outEdge i port).map (fun x => x.2.entry)
def Run.inShape (r : Run) (i port : Nat) : Option EdgeEntry := (r.inEdge i port).map (fun x => x.2.entry)

/-- The index of a run's edge into a port, as a HELD queue. -/
def Run.heldEdge (r : Run) (i port : Nat) : HeldQueue := .edge r.ref ((r.inEdge i port).elim 0 (fun x => x.1))

/-! ## Tiles -/

/-- A closing tile of R186: no station reads data from it. -/
def Tile.closing (t : Tile) : Bool := t.last && decide (t.rows = 1) && decide (t.cols = 1) && decide (t.dbytes = 0)

/-- A header-only tile with last set (R186). -/
def closingTile (fmt : Nat) : Tile :=
  { fmt := fmt, ovf := false, unf := false, last := true, flags := 0, rows := 1, cols := 1, no := 0, dbytes := 0, seq := 0, data := [] }

/-- A tile of RAW8 rows. -/
def rowsTile (cols seq flags : Nat) (rows : List (List Byte)) : Tile :=
  let d := rows.flatMap (fun x => x)
  { fmt := 0, ovf := false, unf := false, last := false, flags := flags, rows := rows.length, cols := cols, no := 0, dbytes := d.length, seq := seq, data := d }

/-- A row of a tile of `n` bytes a row. -/
def Tile.row (t : Tile) (n i : Nat) : List Byte := sliceBytes t.data (n * i) n

/-- The words of a tile's header (R180). -/
def Tile.header (t : Tile) : List Byte :=
  let w0 := t.fmt + 256 * b2n t.ovf + 512 * b2n t.unf + 1024 * b2n t.last + 2048 * t.flags
  wordsBytes [BitVec.ofNat 32 w0, BitVec.ofNat 32 (t.rows + 65536 * t.cols), BitVec.ofNat 32 t.no, BitVec.ofNat 32 t.dbytes,
    BitVec.ofNat 32 t.seq, BitVec.ofNat 32 (t.seq / 2 ^ 32 % 2 ^ 16), 0#32, 0#32]

/-- A tile of its bytes (R180). -/
def parseTile (l : List Byte) : Tile :=
  let w (i : Nat) : Word := wordAt l i
  { fmt := wfield (w 0) 0 8, ovf := wbit (w 0) 8, unf := wbit (w 0) 9, last := wbit (w 0) 10, flags := wfield (w 0) 11 5, rows := wfield (w 1) 0 16,
    cols := wfield (w 1) 16 16, no := (w 2).toNat, dbytes := (w 3).toNat, seq := (w 4).toNat + 2 ^ 32 * wfield (w 5) 0 16,
    data := l.drop 32 }

/-- Every rsvd field of a tile header is zero. -/
def tileRsvdOk (l : List Byte) : Bool :=
  decide (wfield (wordAt l 0) 16 16 = 0 ∧ wfield (wordAt l 5) 16 16 = 0 ∧ wordAt l 6 = 0#32 ∧ wordAt l 7 = 0#32)

/-! ## Rings (R182, R183, R370 to R373) -/

/-- A ring has room for one more tile (R183). -/
def Edge.room (e : Edge) : Bool := decide (e.tiles.length + e.taken < e.entry.depth)

/-- A tile goes into the ring of an edge; beyond the on-die ring it takes Gutter room, or the queue is HELD (R372, R381). -/
def Block.pushEdge (b : Block) (r : RunRef) (j : Nat) (t : Tile) : Option Block :=
  match (b.findRun r).bind (fun x => x.edges[j]?) with
  | none => none
  | some e =>
    if !e.room || b.isHeld r.tenant (.edge r j) then none
    else if b.gutterFree r.tenant < needsPage e.tiles.length (e.tiles.length + 1) then none
    else
      let b1 := b.modEdge r j (fun x => { x with tiles := x.tiles ++ [{ t with no := x.emitted }], emitted := x.emitted + 1, closed := x.closed || t.last })
      some (b1.bump (Map.rdgQc e.queue) 1)

/-- The queue of an edge is HELD when a tile waits for Gutter room alone. -/
def Block.holdEdge (b : Block) (r : RunRef) (j : Nat) : Block :=
  match (b.findRun r).bind (fun x => x.edges[j]?) with
  | some e => if e.room && decide (b.gutterFree r.tenant < needsPage e.tiles.length (e.tiles.length + 1)) then b.hold r.tenant (.edge r j) else b
  | none => b

/-- Tiles of a station's outbox go into their rings in order, port by port; `kept` are those that stay. -/
def Block.flushTiles (a : StRef) : List (Nat × Tile) → Block → List (Nat × Tile) → Block × List (Nat × Tile)
  | [], b, kept => (b, kept)
  | x :: l, b, kept =>
    match (b.findRun (stRun a)).bind (fun r => r.outEdge a.station x.1) with
    | none => Block.flushTiles a l b kept
    | some (j, _) =>
      if kept.any (fun k => k.1 = x.1) then Block.flushTiles a l b (kept ++ [x])
      else
        match b.pushEdge (stRun a) j x.2 with
        | some b1 => Block.flushTiles a l b1 kept
        | none => Block.flushTiles a l (b.holdEdge (stRun a) j) (kept ++ [x])

/-- What a station has emitted flows while its rings have room. -/
def Block.flushOut (b : Block) (a : StRef) : Block :=
  match (b.findRun (stRun a)).bind (fun r => r.stations[a.station]?) with
  | none => b
  | some s =>
    let r := Block.flushTiles a s.outbox b []
    r.1.modSt a (fun x => { x with outbox := r.2 })

/-- A station emits a tile on a port; its flags collect in the run (R188). -/
def Block.emit (b : Block) (a : StRef) (port : Nat) (t : Tile) : Block :=
  let fmt := ((b.findRun (stRun a)).bind (fun r => r.outShape a.station port)).elim t.fmt (fun e => e.fmt)
  let b1 := b.modRun (stRun a) (fun r => { r with ovf := r.ovf || t.ovf, unf := r.unf || t.unf })
  (b1.modSt a (fun s => { s with outbox := s.outbox ++ [(port, { t with fmt := fmt })] })).flushOut a

/-- A station has nothing waiting for a ring. -/
def Station.ready (s : Station) : Bool := s.outbox.isEmpty

/-- The tile at the head of an input port. -/
def Run.head (r : Run) (i port : Nat) : Option Tile := (r.inEdge i port).bind (fun x => x.2.tiles.head?)

/-- A station takes the tile at the head of an input port; the tile keeps its place in the ring until it is released (R183). -/
def Block.take (b : Block) (a : StRef) (port : Nat) : Block :=
  match (b.findRun (stRun a)).bind (fun r => r.inEdge a.station port) with
  | none => b
  | some (j, e) =>
    match e.tiles with
    | [] => b
    | t :: _ =>
      let b1 := b.modEdge (stRun a) j (fun x => { x with tiles := x.tiles.drop 1, taken := x.taken + 1, drained := x.drained || t.last })
      b1.modSt a (fun s => { s with takenAt := s.takenAt.set port (s.takenAt.getD port 0 + 1),
                                    closedIn := if t.last then s.closedIn ++ [port] else s.closedIn })

/-- Places in the ring of an input port are given back, and the producer's tiles flow. -/
def Block.release (b : Block) (a : StRef) (port n : Nat) : Block :=
  match (b.findRun (stRun a)).bind (fun r => r.inEdge a.station port) with
  | none => b
  | some (j, e) =>
    let b1 := b.modEdge (stRun a) j (fun x => { x with taken := x.taken - n })
    b1.flushOut { a with station := e.entry.src }

/-- Takes a tile and releases it at once. -/
def Block.consume (b : Block) (a : StRef) (port : Nat) : Block := (b.take a port).release a port 1

/-- Every input edge has delivered its last tile. -/
def Run.drained (r : Run) (i : Nat) : Bool := r.edges.all (fun e => decide (e.entry.dst ≠ i) || e.drained)

/-- The input port has delivered its last tile. -/
def Station.portClosed (s : Station) (port : Nat) : Bool := s.closedIn.contains port

/-- The final tile of a list takes last. -/
def closeRing : List Tile → List Tile
  | [] => []
  | [t] => [{ t with last := true }]
  | t :: l => t :: closeRing l

/-- The final tile that waits for a port takes last. -/
def closeOutbox (port : Nat) : List (Nat × Tile) → List (Nat × Tile)
  | [] => []
  | x :: l => if decide (x.1 = port) && l.all (fun y => decide (y.1 ≠ port)) then (x.1, { x.2 with last := true }) :: l else x :: closeOutbox port l

/-- A finished station closes an output edge: its final tile takes last where the consumer has not taken it yet, else a header-only tile follows (R186). -/
def Block.closePort (b : Block) (a : StRef) (port : Nat) : Block :=
  match (b.findRun (stRun a)).bind (fun r => (r.outEdge a.station port).bind (fun e => r.stations[a.station]?.map (fun s => (e, s)))) with
  | none => b
  | some ((j, e), s) =>
    if s.outbox.any (fun x => decide (x.1 = port)) then b.modSt a (fun z => { z with outbox := closeOutbox port z.outbox })
    else if e.tiles.isEmpty then b.emit a port (closingTile rawCode)
    else b.modEdge (stRun a) j (fun x => { x with tiles := closeRing x.tiles, closed := true })

/-- A station finishes: each output edge that no tile of the station closes is closed (R186). -/
def Block.finish (b : Block) (a : StRef) : Block :=
  match b.live a with
  | none => b
  | some (r, s) =>
    let closes (e : Edge) : Bool := e.closed || s.outbox.any (fun x => decide (x.1 = e.entry.sport) && x.2.last)
    let ports := (r.edges.filter (fun e => decide (e.entry.src = a.station) && !closes e)).map (fun e => e.entry.sport)
    (ports.foldl (fun (x : Block) p => x.closePort a p) b).modSt a (fun z => { z with finished := true })

/-- A station finishes once a condition on it holds. -/
def Block.finishWhen (b : Block) (a : StRef) (past : Run → Station → Bool) : Block :=
  match b.live a with
  | some (r, s) => if past r s then b.finish a else b
  | none => b

/-- Every item of a station has completed. -/
def Station.allDone (s : Station) : Bool := decide (s.made = s.completed)

/-! ## Units and items -/

/-- The item of a station that a unit works on. -/
def Station.item (s : Station) (ordinal : Nat) : Option Active := s.active.find? (fun x => x.ordinal = ordinal)

/-- The tile that an item holds at a slot. -/
def Active.tile (x : Active) (slot : Nat) : Option Tile :=
  match x.slots.find? (fun y => y.1 = slot) with
  | some (_, .tile t) => some t
  | _ => none

/-- A dispatched item whose unit has not done its work. -/
def Block.working (b : Block) (a : StRef) (ordinal : Nat) : Option (Run × Station × Active) :=
  match b.live a with
  | some (r, s) => (match s.item ordinal with
      | some x => if x.done then none else some (r, s, x)
      | none => none)
  | none => none

/-- The unit has done an item's work. -/
def Block.itemDone (b : Block) (a : StRef) (ordinal : Nat) : Block :=
  b.modSt a (fun s => { s with active := s.active.map (fun x => if x.ordinal = ordinal then { x with done := true, freed := true } else x) })

/-- The unit of an item can take another item. -/
def Block.itemFreed (b : Block) (a : StRef) (ordinal : Nat) : Block :=
  b.modSt a (fun s => { s with active := s.active.map (fun x => if x.ordinal = ordinal then { x with freed := true } else x) })

/-- Every item dispatched before this one has done its work: what its unit emits now stands in order. -/
def Station.turn (s : Station) (ordinal : Nat) : Bool := s.active.all (fun x => x.done || decide (ordinal ≤ x.ordinal))

/-- A range lies within the tenant's objects (R259). -/
def Block.mapped (b : Block) (t addr len : Nat) : Bool :=
  (pieces addr len).all (fun p => match b.vat.translate t p.1 .load with
    | .unmapped => false
    | _ => true)

/-- The first unit's field of a station; the entry's own where it has none. -/
def Station.homeField (s : Station) : Nat := (s.units.head?).elim s.entry.field (fun u => u.1)

/-! ## Memory for stations -/

/-- The bytes of a range for a station's unit in a field, without their effects, and the status. -/
def Block.peek (b : Block) (f t addr len : Nat) : List Byte × Nat := (b.load f t addr len .load).2

/-- A range can be read now: memory answers, and the Eaves take reads (R424). -/
def Block.canRead (b : Block) (t addr len : Nat) : Bool := b.rangeReady t addr len .load && b.readOpen t addr len .load
def Block.canWrite (b : Block) (t addr len : Nat) : Bool := b.rangeReady t addr len .store

/-- Bytes of a sheet that ranges cover, none of which meets another. -/
def coveredIn (num : Nat) (rs : List (Nat × Nat)) : Nat :=
  sumNat (rs.map (fun r => min (r.1 + r.2) ((num + 1) * sheetBytes) - max r.1 (num * sheetBytes)))

/-- Sheets never touched that stores of ranges cover whole: their first touch needs no zero fill (R398). -/
def Block.wholeSheets (b : Block) (t : Nat) (rs : List (Nat × Nat)) : List Nat :=
  ((rs.flatMap (fun r => List.range' (r.1 / sheetBytes) (r.2 / sheetBytes + 1))).eraseDups).filter (fun num =>
    decide (sheetBytes ≤ coveredIn num rs) &&
    (b.vat.sheet t num).any (fun s => !s.touched && s.paging.isNone && !s.evict.any (fun e => e.removed) && (match s.place with | .stack _ _ => true | _ => false)) &&
    (b.vat.findObj t (num * sheetBytes)).any (fun o => o.wr))

/-- They are backed as they are stored. -/
def Block.backWhole (b : Block) (t : Nat) (rs : List (Nat × Nat)) : Block :=
  (b.wholeSheets t rs).foldl (fun (x : Block) num =>
    match (x.cancelEvict t num).vat.sheet t num with
    | some s => (match s.place with
      | .stack r j => ((x.cancelEvict t num).clearSlot r j).modSheet t num (fun y => { y with touched := true, dirty := true })
      | _ => x)
    | none => x) b

/-- Stores of all of the ranges can be taken now. -/
def Block.canWriteAll (b : Block) (t : Nat) (rs : List (Nat × Nat)) : Bool :=
  let b1 := b.backWhole t rs
  rs.all (fun r => b1.canWrite t r.1 r.2)

/-- The effects of reads of ranges, in order. -/
def Block.readAll (b : Block) (f t : Nat) (rs : List (Nat × Nat)) : Block := rs.foldl (fun (x : Block) r => (x.load f t r.1 r.2 .load).1) b

/-- A range lies within the tenant's objects, each byte permitting an access (R178). -/
def Block.covered (b : Block) (t addr len : Nat) (acc : Acc) : Bool :=
  (pieces addr len).all (fun p => match b.vat.translate t p.1 acc with
    | .unmapped => false
    | .denied => false
    | _ => true)

/-- Stores pieces in order; the status of the first that fails. -/
def Block.storeList (f t : Nat) : List (Nat × List Byte) → Block → Block × Nat
  | [], b => (b, stOk)
  | p :: l, b =>
    let r := b.store f t p.1 p.2
    if r.2.1 = stOk then Block.storeList f t l r.1 else (r.1, r.2.1)

/-- The stores of a unit, complete with their parity writes (R422). -/
def Block.storeAll (f t : Nat) (l : List (Nat × List Byte)) (b : Block) : Block × Nat :=
  if l.isEmpty then (b, stOk)
  else
    let r := Block.storeList f t l (b.backWhole t (l.map (fun p => (p.1, p.2.length))))
    (r.1.drainPar, r.2)

/-- Parameter words of a station. -/
def Station.pw (s : Station) (i : Nat) : Word := wordAt s.params i
/-- A 48-bit address in two parameter words. -/
def Station.pAddr (s : Station) (i : Nat) : Nat := (s.pw i).toNat + 2 ^ 32 * wfield (s.pw (i + 1)) 0 16
/-- Parameter words from `i` up to below `j` are zero. -/
def Station.pZero (s : Station) (i j : Nat) : Bool := (List.range (j - i)).all (fun k => s.pw (i + k) = 0#32)

/-- What the checks of a station at launch give: ports enabled, in and out, and the cause that stops the launch, if any (R515). -/
structure LaunchCheck where
  ins : List Nat
  outs : List Nat
  cause : Option Nat
  deriving DecidableEq, Repr

/-- The lowest of the causes found at one station (R515). -/
def lowestCause (l : List (Bool × Nat)) : Option Nat :=
  (l.filter (fun x => x.1)).foldl (fun m x => match m with | some y => some (min y x.2) | none => some x.2) none

end Sys2Proof.Machine
end

