-- ==== Sys2Proof/Machine/Sizing.lean ====
section
/-! DEFINITION. Sizing: the conversion of a tile from one format code to another, and the SIZE station (chapter 07). -/
namespace Sys2Proof.Machine

/-- A pair that narrows: it rounds, and under sr = 1 advances the generators (table "conversions performed by Sizing"). -/
def pairNarrow (a z : Fmt) : Bool :=
  decide (a ≠ z) && !(z = .fp32) && !(a.isMx && !z.isMx)

/-- Lane number of Sizing (R205). -/
def sizingLane (station tileNo lane : Nat) : Nat := station % 64 * 2 ^ 26 + tileNo % 2 ^ 20 * 64 + lane

/-- The rounding of each of `n` elements from element `i` on: element i takes the next random bits of lane i mod 64 (R206). -/
def laneModes : Nat → Nat → List Word → List Rm
  | 0, _, _ => []
  | n + 1, i, gens =>
    let x := xorshift32 (gens.getD (i % 64) 0#32)
    .sr (srBits x) :: laneModes n (i + 1) (modAt gens (i % 64) (fun _ => x))

/-- The codes of the elements of a tile's data, in row-major order. -/
def elemCodes (n : Nat) (data : List Byte) : Nat → List Nat
  | 0 => []
  | k + 1 => leNat (data.take n) :: elemCodes n (data.drop n) k

/-- The values of a tile's elements, and for each whether a scale of 0xFF made it NaN (R199, R211). -/
def tileValues (f : Fmt) (count : Nat) (data : List Byte) : List (Num × Bool) :=
  let codes := elemCodes f.bytes data count
  if f.isMx then
    (List.range count).map (fun i =>
      let c := codes.getD i 0
      let sc := (data.getD (count + i / 32) 0#8).toNat
      (mxValue f c sc, decide (sc = 0xFF) && !(f.decode c).isNan))
  else codes.map (fun c => (f.decode c, false))

/-- One element encoded outside an MX block, with what it counts. -/
def sizeElem (f : Fmt) (sat : Bool) (v : Num) (rm : Rm) : Nat × Tally :=
  let e := f.encode sat rm v
  let sr := match rm with | .sr _ => b2n (v.isFin && !v.isZero) | _ => 0
  (e.code, { ovf := b2n e.ovf, unf := b2n e.unf, nan := b2n e.nanw, clamp := 0, sr := sr })

/-- The elements of MX blocks: codes, scales and counts (R212). -/
def sizeBlocks (f : Fmt) : Nat → List Num → List Rm → List Nat × List Nat × Tally
  | 0, _, _ => ([], [], Tally.zero)
  | k + 1, vals, rms =>
    let vs := vals.take 32
    let sc := mxScale f vs
    let es := List.zipWith (fun v rm => mxElem f sc v rm) vs (rms.take 32)
    let rest := sizeBlocks f k (vals.drop 32) (rms.drop 32)
    (es.map (fun e => e.1) ++ rest.1, sc :: rest.2.1, es.foldl (fun t e => t.add e.2) rest.2.2)

/-- The data of a tile converted between two codes, and what the conversion counts (R218, R221). Between MX codes of one kind the scales are kept, and an element that a scale of 0xFF makes NaN is written as one (R211). -/
def convertData (seed : DWord) (station tileNo a z rows cols : Nat) (data : List Byte) : List Byte × Tally :=
  let n := rows * cols
  match fmtOf a, fmtOf z with
  | some fa, some fz =>
    let vals := tileValues fa n data
    let made : Tally := { Tally.zero with nan := vals.countP (fun v => v.2) }
    if fa.isMx && decide (fa = fz) then
      let vs := List.zipWith (fun c v => if v.2 then v.1 else fa.decode c) (elemCodes 1 data n) vals
      (vs.flatMap (fun v => leBytes 1 (fz.encode true .rne v).code) ++ data.drop n, made)
    else
      let gens := (List.range 64).map (fun l => seedLane seed (sizingLane station tileNo l))
      let rms := if codeSr z && pairNarrow fa fz then laneModes n 0 gens else List.replicate n .rne
      if fz.isMx then
        let r := sizeBlocks fz (n / 32) (vals.map (fun v => v.1)) rms
        ((r.1 ++ r.2.1).flatMap (fun c => leBytes 1 c), made.add r.2.2)
      else
        let es := List.zipWith (fun v rm => sizeElem fz (codeSat z) v rm) (vals.map (fun v => v.1)) rms
        (es.flatMap (fun e => leBytes fz.bytes e.1), es.foldl (fun t e => t.add e.2) made)
  | _, _ => (data, Tally.zero)

/-- A tile converted to a code: OVF and UNF join the tile's own flags (R219); the tile's number names the generators (R205). -/
def convertTile (seed : DWord) (station z : Nat) (t : Tile) : Tile × Tally :=
  let r := convertData seed station t.no t.fmt z t.rows t.cols t.data
  ({ t with fmt := z, ovf := t.ovf || decide (0 < r.2.ovf), unf := t.unf || decide (0 < r.2.unf), dbytes := r.1.length, data := r.1 }, r.2)

/-- The Sizing registers of a field count the elements of a conversion (R221, table "Sizing registers"); explicit conversions of Lath code count in them too (log entry 120). -/
def Block.countElems (b : Block) (f : Nat) (y : Tally) : Block :=
  ((((b.bump (Map.sizOvfCnt f) y.ovf).bump (Map.sizUnfCnt f) y.unf).bump (Map.sizNanCnt f) y.nan).bump
    (Map.sizClampCnt f) y.clamp).bump (Map.sizSrCnt f) y.sr

/-- The Sizing registers of a field count a tile and its elements. -/
def Block.countSizing (b : Block) (f : Nat) (y : Tally) : Block := (b.bump (Map.sizTileCnt f) 1).countElems f y

/-- SIZING_TILE (R219 to R221): a SIZE station's unit converts one tile. -/
def execSizingTile (a : StRef) (ordinal : Nat) (s : State) : Host.Outcome State Fault Refusal :=
  lift s (fun b =>
    match b.working a ordinal with
    | none => b
    | some (r, st, x) =>
      match st.entry.type, x.tile 0, r.outShape a.station 0 with
      | .size, some t, some e =>
        if !st.ready || !st.turn ordinal then b
        else
          let c := convertTile r.seed a.station e.fmt t
          ((b.countSizing x.field c.2).emit a 0 { c.1 with flags := 0 }).itemDone a ordinal
      | _, _, _ => b)

end Sys2Proof.Machine
end

