-- ==== Sys2Proof/Machine/Packets.lean ====
section
/-! DEFINITION. Command packets and tenant streams: arrival, order, chains, fences, gaps, WRITE, READ and NOP (chapter 05). -/
namespace Sys2Proof.Machine

/-! ## Range checks -/

/-- The range checks that a packet's header must pass (R147, R148, R154, R17). -/
def Block.headerOk (b : Block) (t : Nat) (p : Pkt) : Bool :=
  let none_ := decide (p.plen = 0)
  let addr0 := decide (p.addr = 0)
  let len := decide (1 ≤ p.plen ∧ p.plen ≤ 4032)
  p.rsvdOk && p.lenOk && decide (p.stream < b.streamsOf t) &&
  (match p.op with
  | 0x01 => len && p.argsFrom 0
  | 0x02 => none_ && p.argsFrom 1 && decide (1 ≤ (p.arg 0).toNat ∧ (p.arg 0).toNat ≤ 1048576)
  | 0x03 => none_ && addr0 && p.argsFrom 3 && decide (wfield (p.arg 0) 9 23 = 0 ∧ wfield (p.arg 2) 16 16 = 0) &&
      (if p.fenceSeat then decide (p.fenceTarget < 8) && decide (b.owner p.fenceTarget = some t)
       else decide (p.fenceTarget < b.streamsOf t) && !(decide (p.fenceTarget = p.stream) && decide (p.seq ≤ p.fenceSeq)))
  | 0x04 => len && addr0 && p.argsFrom 1 && decide (p.arg 0 ≠ 0#32 ∧ p.arg 0 ≠ 0xFFFFFFFF#32)
  | 0x05 => none_ && addr0 && p.argsFrom 1
  | 0x06 => len && addr0 && p.argsFrom 4
  | 0x07 => decide (p.plen = 32) && p.argsFrom 0
  | 0x08 => none_ && p.argsFrom 0
  | 0x09 => len && addr0 && p.argsFrom 0 && decide (p.plen % 32 = 0)
  | 0x0A => none_ && p.argsFrom 2
  | 0x0B => none_ && addr0 && p.argsFrom 0
  | 0x0C => none_ && addr0 && p.argsFrom 1 && decide (wfield (p.arg 0) 0 2 = 0)
  | 0x0D => none_ && addr0 && p.argsFrom 2 && decide (wfield (p.arg 0) 0 2 = 0)
  | 0x0E => none_ && addr0 && p.argsFrom 0
  | _ => false)

/-! ## Arrival -/

/-- A packet is taken from the front of its source's packets. -/
def Block.takeInq (b : Block) (p : Pkt) : Block := { b with inq := b.inq.erase p }

/-- The classification of a packet of tenant `t` by its number (R150, R151, R158, R160): admitted, held or discarded. While its admission queue is HELD, a packet that would be held stays where it is (R381). -/
def Block.classify (b : Block) (t : Nat) (p : Pkt) : Block :=
  let st := b.strm t p.stream
  if st.broken then (b.takeInq p).discard p stStream
  else if p.seq = st.next ∧ st.fenced = false then ((b.takeInq p).letIn t p).admitOn t p.stream true
  else if p.seq < st.next ∨ st.held.any (fun h => h.seq = p.seq) then (b.takeInq p).discard p stSeqDup
  else if st.next + 1024 ≤ p.seq then (b.takeInq p).discard p stSeqRange
  else if b.isHeld t (.admission p.stream) then b
  else if b.gutterFree t < 1 + needsPage st.held.length (st.held.length + 1) then b.hold t (.admission p.stream)
  else (((b.takeInq p).modStrm t p.stream (fun x => { x with held := x.held ++ [p] })).bump (Map.rdgQc (256 * t + p.stream)) 1).gapCheck t p.stream false

/-- PACKET_ARRIVAL (R143, R147 to R151, R158, R160): the next packet of a source has its range checks, and its number is classified. -/
def execPacketArrival (src : Nat) (upsets : List Upset) (s : State) : Host.Outcome State Fault Refusal :=
  lift s (fun b => b.meeting ((b.owner src).getD 0) upsets (fun b =>
    match b.inq.find? (fun p => p.src = src) with
    | none => b
    | some p =>
      match b.owner src with
      | none => (b.takeInq p).setErrBit (Map.flsSrcErr src) 4
      | some t =>
        if p.op = opReset then b
        else if !b.headerOk t p then (b.takeInq p).discard p stRange
        else b.classify t p))

/-! ## Acting on admitted packets (R152) -/

/-- The packet at the front of a stream, when it has an op and no FENCE holds it. -/
def Block.front (b : Block) (t s op : Nat) : Option Pkt :=
  let st := b.strm t s
  match st.adm with
  | [] => none
  | p :: _ => if p.op = op ∧ st.fencing = false then some p else none

/-- The front packet leaves its stream's list. -/
def Block.popFront (b : Block) (t s : Nat) : Block := b.modStrm t s (fun x => { x with adm := x.adm.drop 1 })

/-- WRITE (R422, R513, R165): sector by sector, parity writes included, with the status and the offset of the failing sector at the lowest address. -/
def execWrite (t strm : Nat) (upsets : List Upset) (s : State) : Host.Outcome State Fault Refusal :=
  lift s (fun b => b.meeting t upsets (fun b =>
    match b.front t strm opWrite with
    | none => b
    | some p =>
      if !b.rangeReady t p.addr p.payload.length .store then b
      else
        let r := (b.popFront t strm).store (srcField p.src) t p.addr p.payload
        r.1.drainPar.complete t p r.2.1 0#32 0#32 r.2.2))

/-- The reads of a READ packet at the Eaves. -/
def ReadJob.req (j : ReadJob) : Requester := .packet j.tenant j.pkt.stream j.pkt.seq

/-- READ (R164, R424): the bytes are read in order of address, up to the first that fails; the reads of stack sectors go out to the Eaves. -/
def execRead (t strm : Nat) (upsets : List Upset) (s : State) : Host.Outcome State Fault Refusal :=
  lift s (fun b => b.meeting t upsets (fun b =>
    match b.front t strm opRead with
    | none => b
    | some p =>
      let n := (p.arg 0).toNat
      if !b.rangeReady t p.addr n .load then b
      else
        let r := (b.popFront t strm).load (srcField p.src) t p.addr n .load
        let job : ReadJob := { tenant := t, pkt := p, data := r.2.1, off := 0, fail := if r.2.2 = stOk then none else some r.2.2, todo := [] }
        let i := Block.issueSome job.req (b.stackSectors t p.addr r.2.1.length .load) r.1
        { i.1 with reads := i.1.reads ++ [{ job with todo := i.2 }] }))

/-- A response ring that is full denies the producers of its port (R63, R385). -/
def Block.ringDenies (b : Block) (src : Nat) : Bool := decide (8 ≤ src) && (b.gable (src - 8)).ringFull

/-- READ_DATA (R63, R164): once the Eaves have answered, and while the source's response ring takes entries, the next packet of a READ's data; a failing READ is closed by its record. -/
def execReadData (index : Nat) (s : State) : Host.Outcome State Fault Refusal :=
  lift s (fun b =>
    match b.reads[index]? with
    | none => b
    | some j =>
      if !j.todo.isEmpty then
        let i := Block.issueSome j.req j.todo b
        { i.1 with reads := modAt i.1.reads index (fun x => { x with todo := i.2 }) }
      else if b.readsOut j.req || b.ringDenies j.pkt.src then b else
      let left := j.data.drop j.off
      let part := left.take 4032
      let end_ := decide (left.length ≤ 4032)
      let more := !(end_ && j.fail.isNone)
      let b1 := if part.isEmpty then b else
        b.sendPacket j.pkt.src (mkPacket 0x41 more false j.pkt.seq j.pkt.stream j.pkt.tag 0 [BitVec.ofNat 32 j.off] part) none
      if end_ then
        let b2 : Block := { b1 with reads := b1.reads.eraseIdx index }
        b2.complete j.tenant j.pkt (j.fail.getD stOk) (BitVec.ofNat 32 j.data.length) 0#32 (if j.fail.isSome then j.data.length else 0)
      else { b1 with reads := modAt b1.reads index (fun x => { x with off := x.off + 4032 }) })

/-- NOP (R147). -/
def execNop (t strm : Nat) (s : State) : Host.Outcome State Fault Refusal :=
  lift s (fun b =>
    match b.front t strm opNop with
    | none => b
    | some p => (b.popFront t strm).complete t p stOk 0#32 0#32 0)

/-! ## Fences (R153 to R155) -/

/-- The target of a FENCE has reached its number (R153, R48). -/
def Block.fenceReached (b : Block) (t : Nat) (p : Pkt) : Bool :=
  if p.fenceSeat then decide (p.fenceSeq < (b.seat p.fenceTarget).position)
  else
    let st := b.strm t p.fenceTarget
    decide (p.fenceSeq < st.next) && st.live.all (fun n => decide (p.fenceSeq < n))

/-- FENCE (R152, R154, R155): it completes at once when its target is reached, fails at once when the target is BROKEN or was lost before it began, and else goes on holding its stream. -/
def execFence (t strm : Nat) (s : State) : Host.Outcome State Fault Refusal :=
  lift s (fun b =>
    match b.front t strm opFence with
    | none => b
    | some p =>
      if (b.strm t strm).fenceFail || (!p.fenceSeat && (b.strm t p.fenceTarget).broken) then b.endFence t strm p stStream
      else if b.fenceReached t p then b.endFence t strm p stOk
      else
        let b1 := b.modStrm t strm (fun x => { x with fencing := true })
        if p.fenceSeat then b1 else b1.gapCheck t p.fenceTarget false)

/-- FENCE_TARGET_REACHED (R153 to R155). -/
def execFenceTargetReached (t strm : Nat) (s : State) : Host.Outcome State Fault Refusal :=
  lift s (fun b =>
    let st := b.strm t strm
    match st.adm with
    | [] => b
    | p :: _ =>
      if !st.fencing then b
      else if b.fenceReached t p then b.endFence t strm p stOk
      else b)

/-! ## Breaks and resets (R158, R159) -/

/-- Streams that the GATE inputs of a descriptor are bound to. -/
def descGateStreams (l : List Byte) : List Nat :=
  (List.range (wfield (wordAt l 1) 0 8)).filterMap (fun i =>
    let w := wordAt l (21 + 8 * i)
    if wfield (wordAt l (16 + 8 * i)) 0 4 = 2 ∧ wbit w 5 = false then some (wfield w 6 8) else none)

/-- STREAM_GAP_TIMEOUT (R157, R158, R10): the stream is BROKEN. -/
def execStreamGapTimeout (t strm : Nat) (s : State) : Host.Outcome State Fault Refusal :=
  lift s (fun b =>
    let st := b.strm t strm
    match st.gapAt, b.start.img with
    | some t0, some g =>
      if b.ctlSince t0 < g.gapTo then b
      else
        let b1 := b.modStrm t strm (fun x => { x with broken := true, held := [], gapAt := none })
        let b2 := st.held.foldl (fun (x : Block) p => x.discard p stStream) (b1.bump Map.flsBreakCnt 1)
        let b3 := b2.failFences t strm
        let b4 := b3.killWhere (fun r => decide (r.ref.tenant = t) && (descGateStreams r.desc).contains strm) stStream
        b4.tenantEvent t evStreamError [BitVec.ofNat 32 strm, BitVec.ofNat 32 st.next, BitVec.ofNat 32 (st.next / 2 ^ 32)]
    | _, _ => b)

/-- STREAM_RESET (R159): held packets go with status STREAM, FENCEs on the stream fail, a RUN or TILE chain in progress is discarded, and `next` is set. -/
def execStreamReset (src : Nat) (s : State) : Host.Outcome State Fault Refusal :=
  lift s (fun b =>
    match b.inq.find? (fun p => p.src = src), b.owner src with
    | some p, some t =>
      if p.op ≠ opReset then b
      else if !b.headerOk t p then (b.takeInq p).discard p stRange
      else if p.more then (b.takeInq p).discard p stChain
      else
        let st := b.strm t p.stream
        let b1 := st.held.foldl (fun (x : Block) h => x.discard h stStream) (b.takeInq p)
        let b2 := match st.chain with
          | [] => b1
          | c :: _ => if joined c.op then
              (b1.modStrm t p.stream (fun x => { x with live := dropLive (st.chain.map Pkt.seq) x.live })).complete t { c with seq0 := c.seq + 1 } stStream 0#32 0#32 0
            else b1
        let b3 := (b2.modStrm t p.stream (fun x => { x with held := [], chain := [], next := p.seq, broken := false, gapAt := none })).failFences t p.stream
        (b3.gapCheck t p.stream false).answer p stOk 0#32 0#32 0
    | _, _ => b)

end Sys2Proof.Machine
end

