-- ==== Sys2Proof/Machine/Vat.lean ====
section
/-! DEFINITION. The Vatman: ALLOC and FREE, first touch, paging, hints (chapter 14). -/
namespace Sys2Proof.Machine

/-! ## ALLOC (R394 to R397) -/

/-- Places `n` more sheets of an object; the block after it, and the sheets outside the object's field. -/
def placeSheets (o : Obj) (kind : RowKind) (pagesOut : Bool) : Nat → Nat → Nat → Block → Option (Block × Nat)
  | 0, _, outside, b => some (b, outside)
  | n + 1, num, outside, b =>
    let base : Sheet := { tenant := o.tenant, num := num, place := .lost, spar := decide (o.cls = 4), lastUse := 5 * b.now / 1024, touched := false,
                          farCopy := none, dirty := false, paging := none, evict := none }
    let far (_ : Unit) : Option (Block × Sheet × Bool) :=
      if pagesOut && decide (b.vat.useFar o.tenant < b.farQuota o.tenant) then
        (b.vat.takeFar).map (fun d =>
          (({ b with vat := { b.vat with nextDev := (d.1 + 1) % b.vat.devs.length } } : Block).clearFar d.1 d.2,
           { base with place := .far d.1 d.2, touched := true }, true))
      else none
    let near (_ : Unit) : Option (Block × Sheet × Bool) :=
      (b.takeSheet kind).map (fun x =>
        let off := match kind with | .near f => !(x.1.vat.row x.2.1).any (fun r => decide (r.kind = .near f)) | _ => false
        (x.1, { base with place := .stack x.2.1 x.2.2 }, off))
    match (match near () with | some x => some x | none => far ()) with
    | none => none
    | some (b1, s, off) =>
      placeSheets o kind pagesOut n (num + 1) (outside + b2n off) { b1 with vat := { b1.vat with sheets := b1.vat.sheets ++ [s] } }

/-- Residency map entries in use (R396). -/
def Block.mapUsed (b : Block) : Nat := b.vat.sheets.length

/-- PARITY can be placed (R394, R421). -/
def Block.parityOn (b : Block) : Bool :=
  b.start.img.any (fun g => g.parity) && decide (16 ≤ (List.range 24).countP (fun k => b.eaveIn k))

/-- The first failing byte of an ALLOC request, within the packet (R394); rsvd fields of it are ignored (R17). -/
def allocBad (addr : Nat) (l : List Byte) : Option Nat :=
  let w0 := wordAt l 0
  let pages := (wordAt l 1).toNat
  if addr % sheetBytes ≠ 0 then some hdrDetail
  else if 7 ≤ wfield w0 0 4 ∨ (8 ≤ wfield w0 4 4 ∧ wfield w0 4 4 ≠ 15) ∨ (wbit w0 11 = true ∧ wfield w0 0 4 ≠ 4) then some 64
  else if pages = 0 ∨ (wfield w0 0 4 ≠ 3 ∧ pages % 512 ≠ 0) then some 68
  else none

/-- What the Vatman answers to an ALLOC. -/
inductive AllocAns where
  | ok (b : Block) (placed field outside : Nat)
  | quota (reason : Nat)

/-- The Vatman decides an ALLOC (R395, R397). -/
def Block.decideAlloc (b : Block) (t base : Nat) (w0 : Word) (pages pref : Nat) : AllocAns :=
  let cls := wfield w0 0 4
  let n := ceilDiv pages 512
  let pool := (fieldsFrom pref).find? (fun f => decide (pages ≤ b.poolFree f) && decide (0 < b.poolPages f))
  let placed := if cls = 0 then (if n ≤ b.nearFree pref then 1 else 2) else if cls = 3 then (if pool.isSome then 3 else 1) else cls
  let q := b.tenant t
  let past := if placed = 3 then decide (q.quotaFelt * 256 < b.useFelt t + pages)
    else decide (q.quotaHbm + b.farQuota t < b.vat.allocOf t + n)
  let o : Obj := { tenant := t, base := base, pages := pages, cls := cls, placed := placed, field := pref, rd := wbit w0 8, wr := wbit w0 9,
                   ex := wbit w0 10, spread := wbit w0 11, felt := [], feltTouched := [] }
  if past then .quota 1
  else if cls = 4 ∧ 7 * b.stackSheets < 8 * (b.vat.spars + n) then .quota 4
  else if placed ≠ 3 ∧ b.stackSheets + b.vat.farSheets < b.vat.allocAll + n then .quota 2
  else if placed = 3 then
    match pool with
    | none => .quota 2
    | some f =>
      (match b.takeFelt f pages with
      | none => .quota 2
      | some felt =>
        if mapEntries < b.mapUsed + n then .quota 3
        else
          let sh (i : Nat) : Sheet := { tenant := t, num := base / sheetBytes + i, place := .felt, spar := false, lastUse := 5 * b.now / 1024, touched := true,
                                        farCopy := none, dirty := false, paging := none, evict := none }
          .ok { b with vat := { b.vat with objs := b.vat.objs ++ [{ o with felt := felt, field := f }], sheets := b.vat.sheets ++ (List.range n).map sh } } 3 f 0)
  else
    match placeSheets o (kindOf placed pref (wbit w0 11)) (decide (cls ≠ 4)) n (base / sheetBytes) 0 b with
    | none => .quota 2
    | some (b1, outside) =>
      if mapEntries < b.mapUsed + n then .quota 3
      else .ok { b1 with vat := { b1.vat with objs := b1.vat.objs ++ [o] } } placed
        (match kindOf placed pref (wbit w0 11) with | .near f => f | _ => 15) outside

/-- ALLOC (R394 to R397): placed whole or refused. -/
def execAlloc (t strm : Nat) (s : State) : Host.Outcome State Fault Refusal :=
  lift s (fun b0 =>
    match b0.front t strm opAlloc with
    | none => b0
    | some p =>
      let b := b0.popFront t strm
      let w0 := wordAt p.payload 0
      let pages := (wordAt p.payload 1).toNat
      match allocBad p.addr p.payload with
      | some o => b.complete t p stRange 0#32 0#32 o
      | none =>
        let top := p.addr + ceilDiv pages 512 * sheetBytes
        let clash := b.vat.objs.any (fun o => decide (o.tenant = t ∧ o.base < top ∧ p.addr < o.top))
        if clash ∨ 2 ^ 48 < top ∨ (wfield w0 0 4 = 6 ∧ b.parityOn = false) then b.complete t p stDenied 0#32 0#32 0
        else
          let pref := if wfield w0 4 4 = 15 then srcField p.src else wfield w0 4 4
          match b.decideAlloc t p.addr w0 pages pref with
          | .quota r =>
            let b1 := b.setErrBit Map.vatErr 3
            let b2 := if r = 4 then b1.setErrBit Map.vatErr 2 else b1
            b2.complete t p stQuota 0#32 (BitVec.ofNat 32 r) 0
          | .ok b1 placed field outside =>
            let b2 := if wfield w0 0 4 = 3 ∧ placed = 1 then b1.setErrBit Map.vatErr 4 else b1
            b2.complete t p stOk (BitVec.ofNat 32 (placed + 16 * field)) (BitVec.ofNat 32 outside) 0)

/-! ## FREE (R399) -/

/-- Rows that hold no sheet return their zones. -/
def Vat.dropRows (v : Vat) : Vat :=
  { v with rows := v.rows.filter (fun r => !((v.slotsUsed r.id).isEmpty && r.retired.isEmpty && r.copies.isEmpty)) }

/-- FREE (R399). -/
def execFree (t strm : Nat) (s : State) : Host.Outcome State Fault Refusal :=
  lift s (fun b0 =>
    match b0.front t strm opFree with
    | none => b0
    | some p =>
      let b := b0.popFront t strm
      match b.vat.objs.find? (fun o => decide (o.tenant = t ∧ o.base = p.addr) && o.owned) with
      | none => b.complete t p stUnmapped 0#32 0#32 0
      | some o =>
        let lo := o.base / sheetBytes
        let mine (num : Nat) : Bool := decide (lo ≤ num ∧ num < lo + ceilDiv o.pages 512)
        let cut (r : PrefetchRange) : Bool := decide (r.tenant = t ∧ r.base < o.base + o.pages * pageBytes ∧ o.base < r.base + r.len * sheetBytes)
        let v : Vat := { b.vat with
          objs := b.vat.objs.filter (fun x => x ≠ o)
          sheets := b.vat.sheets.filter (fun x => !(decide (x.tenant = t) && mine x.num))
          ranges := b.vat.ranges.filter (fun r => !cut r)
          xlate := b.vat.xlate.map (fun e => (e.1, e.2.filter (fun k => !(decide (k.1 = t) && mine k.2)))) }
        ({ b with vat := v.dropRows } : Block).serveWaits.complete t p stOk 0#32 0#32 0)

/-! ## Translation and first touch (R398, R400) -/

/-- TRANSLATION_MISS (R400, R401): the Vatman serves a lookup of a field's cache. -/
def execTranslationMiss (f t va : Nat) (s : State) : Host.Outcome State Fault Refusal :=
  lift s (fun b => if b.serving then b.xlate f t va else b)

/-- FIRST_TOUCH_FILL (R398): the sheet, or the page of a FELT object, is written with zeros. -/
def execFirstTouchFill (t va : Nat) (s : State) : Host.Outcome State Fault Refusal :=
  lift s (fun b =>
    if !b.serving then b else
    match b.vat.findObj t va with
    | none => b
    | some o =>
      if o.placed = 3 then
        let i := (va - o.base) / pageBytes
        match o.felt[i]? with
        | some pa =>
          if o.feltTouched.contains i then b
          else
            let touch (x : Obj) : Obj := if x = o then { x with feltTouched := i :: x.feltTouched } else x
            ({ b with mem := b.mem.clear pa pageBytes, feltBad := b.feltBad.filter (fun w => !decide (pa / 8 ≤ w ∧ 8 * w < pa + pageBytes)),
                      vat := { b.vat with objs := b.vat.objs.map touch } } : Block).bump Map.vatFillCnt 1
        | none => b
      else
        match b.vat.sheet t (va / sheetBytes) with
        | some sh =>
          (match sh.place with
          | .stack r j => if sh.touched || sh.evict.any (fun e => e.removed) then b else
              (((b.cancelEvict t sh.num).clearSlot r j).modSheet t sh.num (fun x => { x with touched := true, dirty := true })).bump Map.vatFillCnt 1
          | _ => b)
        | none => b)

/-! ## Paging (R402 to R406) -/

/-- A page-in of an evicted sheet is asked for (R402). -/
def Block.pageIn (b : Block) (s : Sheet) (first : Nat) (needs : List Need) (prefetch : Bool) : Block :=
  let pg : Paging := { dst := none, first := first, out := [], got := [], arrived := [], needs := needs, prefetch := prefetch, since := b.now }
  (b.modSheet s.tenant s.num (fun x => { x with paging := some pg })).serveWaits

/-- An access that needs a page joins the page-in of its sheet: a prefetch becomes a demand, whose page goes first (R402, R408). -/
def Paging.join (p : Paging) (page now : Nat) (need : List Need) : Paging :=
  { p with needs := p.needs ++ need.filter (fun n => !p.needs.contains n), prefetch := false,
           first := if p.prefetch then page else p.first, since := if p.prefetch then now else p.since }

/-- DEMAND_PAGE_IN (R402, R403, R406): an access to an evicted sheet waits for its page. -/
def execDemandPageIn (t va : Nat) (need : Option Need) (s : State) : Host.Outcome State Fault Refusal :=
  lift s (fun b =>
    if !b.serving then b else
    match b.vat.findObj t va, b.vat.sheet t (va / sheetBytes) with
    | some _, some sh =>
      (match sh.place with
      | .far _ _ =>
        let page := va % sheetBytes / pageBytes
        (match sh.paging with
        | some pg =>
          if pg.arrived.contains page then b
          else ((b.bump Map.vatPageStall 1).modSheet t sh.num (fun x => { x with paging := x.paging.map (fun p => p.join page b.now need.toList) })).serveWaits
        | none => (b.bump Map.vatPageStall 1).pageIn sh page need.toList false)
      | _ => b)
    | _, _ => b)

/-- An event of a lost sheet (R441, R65). -/
def Block.sheetLost (b : Block) (t num cause where_ : Nat) : Block :=
  let va := num * sheetBytes
  b.tenantEvent t evSheetLost [BitVec.ofNat 32 va, BitVec.ofNat 32 (va / 2 ^ 32), BitVec.ofNat 32 cause, BitVec.ofNat 32 where_]

/-- A device leaves service: its evicted sheets are lost, its resident sheets stay (R65). -/
def Block.loseDevice (b : Block) (dev : Nat) : Block :=
  let onDev (s : Sheet) : Bool := (match s.place with | .far d _ => decide (d = dev) | _ => false)
  let lost := b.vat.sheets.filter onDev
  let fix (s : Sheet) : Sheet :=
    if onDev s then { s with place := .lost, paging := none }
    else
      let s1 : Sheet := if s.farCopy.any (fun d => d.1 = dev) then { s with farCopy := none, dirty := true } else s
      if s1.evict.any (fun e => e.dev = dev) then { s1 with evict := none } else s1
  let b1 : Block := { b with vat := { b.vat with devs := modAt b.vat.devs dev (fun d => { d with inService := false }), sheets := b.vat.sheets.map fix } }
  let b2 := lost.foldl (fun (x : Block) s => (x.xlateDrop s.tenant s.num).sheetLost s.tenant s.num 1 0) b1
  if lost.isEmpty then b2.serveWaits else (b2.setErrBit Map.vatErr 0).serveWaits

/-- A far-tier read fails (R65): each run that needed the data is killed, the sheet is lost, and three failures in a second take the device out. -/
def Block.farFail (b : Block) (s : Sheet) (dev : Nat) : Block :=
  let b1 := ((s.paging.map (fun p => p.needs)).getD []).foldl (fun (x : Block) n =>
    x.killRun { tenant := s.tenant, handle := n.handle } stFarLost n.station n.detail) b
  let b2 := (b1.xlateDrop s.tenant s.num).modSheet s.tenant s.num (fun x => { x with place := .lost, paging := none, farCopy := none })
  let b3 := (b2.setErrBit Map.vatErr 0).sheetLost s.tenant s.num 1 0
  let recent (t0 : Nat) : Bool := decide (b.ctlSince t0 < 1000000000)
  let fails : List Nat := ((b3.vat.devs[dev]?.map (fun d => d.fails)).getD []).filter recent ++ [b.now]
  let b4 : Block := { b3 with vat := { b3.vat with devs := modAt b3.vat.devs dev (fun d => { d with fails := fails }) } }
  if 3 ≤ fails.length then b4.loseDevice dev else b4.serveWaits

/-- The sheet whose page's far read is out, its device, and when the read went out. -/
def Block.farRead (b : Block) (t num page : Nat) : Option (Sheet × Nat × Nat) :=
  match b.vat.sheet t num with
  | some sh =>
    (match sh.place, sh.paging with
    | .far d _, some pg => (pg.out.find? (fun o => o.1 = page)).map (fun o => (sh, d, o.2))
    | _, _ => none)
  | none => none

/-- FAR_READ_COMPLETION (R65): the data has come, or comes poisoned and the read fails. -/
def execFarReadCompletion (t num page : Nat) (poisoned : Bool) (s : State) : Host.Outcome State Fault Refusal :=
  lift s (fun b =>
    match b.farRead t num page with
    | none => b
    | some (sh, d, _) =>
      if poisoned then b.farFail sh d
      else b.modSheet t num (fun x => { x with paging := x.paging.map (fun p =>
        ({ p with out := p.out.filter (fun o => o.1 ≠ page), got := p.got ++ [page] } : Paging).send b.now) }))

/-- GABLE_COMPLETION_TIMEOUT (R65, R10): no completion within gable_cpl_to. -/
def execGableCompletionTimeout (t num page : Nat) (s : State) : Host.Outcome State Fault Refusal :=
  lift s (fun b =>
    match b.farRead t num page, b.start.img with
    | some (sh, d, t0), some g => if g.gcplTo ≤ b.ctlSince t0 then b.farFail sh d else b
    | _, _ => b)

/-- PAGE_ARRIVAL (R402): a page is written into stack memory, and accesses to it are served; with the last page the sheet is resident. -/
def execPageArrival (t num : Nat) (s : State) : Host.Outcome State Fault Refusal :=
  lift s (fun b =>
    match b.vat.sheet t num with
    | none => b
    | some sh =>
      match sh.place, sh.paging with
      | .far dev slot, some pg =>
        (match pg.dst, pg.got with
        | some d, page :: rest =>
          let lo := page * pageBytes
          let cells := (b.farCells dev slot).filter (fun c => decide (lo ≤ c.1 ∧ c.1 < lo + pageBytes))
          let b1 := b.putSlot d.1 d.2 cells
          let pg1 : Paging := { pg with got := rest, arrived := page :: pg.arrived }
          if pg1.arrived.length = 512 then
            ((b1.modSheet t num (fun x => { x with place := .stack d.1 d.2, paging := none, farCopy := some (dev, slot), touched := true, lastUse := 5 * b.now / 1024 })).bump Map.vatPageinCnt 1).serveWaits
          else b1.modSheet t num (fun x => { x with paging := some pg1 })
        | _, _ => b)
      | _, _ => b)

/-- FAR_SLOT_WRITE_DONE (R404, R406): the sheet has left stack memory, and its slot goes to a waiting page-in. -/
def execFarSlotWriteDone (t num : Nat) (s : State) : Host.Outcome State Fault Refusal :=
  lift s (fun b =>
    match b.vat.sheet t num with
    | none => b
    | some sh =>
      match sh.evict with
      | some e => if e.removed then (b.leaveStack sh e).serveWaits else b
      | none => b)

/-- EVICTION_CANCEL (R406): an access before the removal of the translations keeps the sheet, and another victim is chosen. -/
def execEvictionCancel (t num : Nat) (s : State) : Host.Outcome State Fault Refusal := lift s (fun b => b.cancelEvict t num)

/-! ## Hints (R324, R405, R407, R408) -/

/-- The objects of a tenant cover every page of a range of sheets. -/
def Vat.covers (v : Vat) (t base n : Nat) : Bool :=
  (List.range n).all (fun i =>
    let va := base + i * sheetBytes
    (v.findObj t va).any (fun o => o.owned && decide (va + sheetBytes ≤ o.base + o.pages * pageBytes)))

/-- Whether a hint record keeps its layout (table "routing hint record", R407); rsvd fields of it are ignored (R17). -/
def hintOk (l : List Byte) : Bool :=
  let w (i : Nat) : Word := wordAt l i
  let range := decide (wfield (w 1) 0 21 = 0 ∧ 1 ≤ wfield (w 3) 0 16)
  let bare := decide (wfield (w 0) 8 9 = 0 ∧ w 4 = 0#32 ∧ w 5 = 0#32 ∧ wfield (w 6) 0 16 = 0)
  match wfield (w 0) 0 8 with
  | 1 => range && decide (1 ≤ wfield (w 0) 8 8)
  | 2 => range && decide (1 ≤ wfield (w 0) 8 8 ∧ w 5 = 0#32 ∧ w 6 = 0#32)
  | 3 => range && bare
  | 4 => range && bare
  | _ => false

/-- Rank of a pending range (R408): conf descending, deadline ascending as a signed difference, arrival. -/
def PrefetchRange.before (now : Word) (x y : PrefetchRange) : Bool :=
  if x.conf ≠ y.conf then decide (y.conf < x.conf)
  else if x.deadline ≠ y.deadline then decide ((x.deadline - now).toInt < (y.deadline - now).toInt)
  else decide (x.order ≤ y.order)

/-- Sheets of a range that wait in the far tier. -/
def Vat.notResident (v : Vat) (t base n : Nat) : List Sheet :=
  (List.range n).filterMap (fun i => (v.sheet t (base / sheetBytes + i)).bind (fun s =>
    (match s.place with | .far _ _ => some s | _ => none)))

/-- A prefetch range arrives (R408). -/
def Block.addRange (b : Block) (t base n conf : Nat) (deadline : Word) : Block :=
  let b1 := (List.range n).foldl (fun (x : Block) i => x.modSheet t (base / sheetBytes + i) (fun s =>
    (match s.place with | .stack _ _ => { s with lastUse := 5 * b.now / 1024 } | _ => s))) b
  if (b1.vat.notResident t base n).isEmpty then b1
  else
    let r : PrefetchRange := { tenant := t, base := base, len := n, conf := conf, deadline := deadline, order := b1.vat.order }
    let mine := b1.vat.ranges.filter (fun x => x.tenant = t)
    let b2 : Block := { b1 with vat := { b1.vat with order := b1.vat.order + 1 } }
    if mine.length < 4096 then { b2 with vat := { b2.vat with ranges := b2.vat.ranges ++ [r] } }
    else
      match (sortBy (PrefetchRange.before b.recTime) mine).getLast? with
      | some worst =>
        let b3 := b2.bump Map.vatHintDrop 1
        if PrefetchRange.before b.recTime worst r then b3
        else { b3 with vat := { b3.vat with ranges := (b3.vat.ranges.erase worst) ++ [r] } }
      | none => b2

/-- Stack sheets of a range that a SPAR record would mark. -/
def Vat.newSpars (v : Vat) (t base n : Nat) : List Sheet :=
  (List.range n).filterMap (fun i => (v.sheet t (base / sheetBytes + i)).bind (fun s => if s.spar || s.inFelt then none else some s))

/-- One hint record (R324, R405, R407): the block after it, and whether it was accepted. -/
def Block.hintRecord (b : Block) (t : Nat) (l : List Byte) : Block × Bool :=
  let w (i : Nat) : Word := wordAt l i
  let base := (w 1).toNat + 2 ^ 32 * wfield (w 2) 0 16
  let n := wfield (w 3) 0 16
  let reject (x : Block) : Block × Bool := ((x.bump Map.vatHintDrop 1).setErrBit Map.vatErr 1, false)
  let accept (x : Block) : Block × Bool := (x.bump Map.vatHintCnt 1, true)
  if !hintOk l || !b.vat.covers t base n then reject b
  else
    match wfield (w 0) 0 8 with
    | 3 =>
      let new := b.vat.newSpars t base n
      if !new.isEmpty && decide (7 * b.stackSheets < 8 * (b.vat.spars + new.length)) then reject (b.setErrBit Map.vatErr 2)
      else
        let b1 := new.foldl (fun (x : Block) s => (x.modSheet t s.num (fun y => { y with spar := true })).cancelEvict t s.num) b
        accept (if (b1.vat.notResident t base n).isEmpty then b1 else b1.addRange t base n 255 b1.recTime)
    | 4 =>
      let b1 := (List.range n).foldl (fun (x : Block) i =>
        let num := base / sheetBytes + i
        if (x.vat.findObj t (num * sheetBytes)).any (fun o => decide (o.cls = 4)) then x else x.modSheet t num (fun y => { y with spar := false })) b
      accept b1
    | _ => accept (b.addRange t base n (wfield (w 0) 8 8) (w 4))

/-- Hint records in order: the block, accepted and rejected. -/
def Block.hintRecords (t : Nat) : List (List Byte) → Block → Nat → Nat → Block × Nat × Nat
  | [], b, a, r => (b, a, r)
  | l :: ls, b, a, r => let x := b.hintRecord t l; Block.hintRecords t ls x.1 (a + b2n x.2) (r + b2n (!x.2))

/-- HINT (R407). -/
def execHint (t strm : Nat) (s : State) : Host.Outcome State Fault Refusal :=
  lift s (fun b0 =>
    match b0.front t strm opHint with
    | none => b0
    | some p =>
      let r := Block.hintRecords t (chunk 32 126 p.payload) (b0.popFront t strm) 0 0
      r.1.complete t p stOk (BitVec.ofNat 32 r.2.1) (BitVec.ofNat 32 r.2.2) 0)

/-- What a pending range has served now, if anything can be: its next sheet is paged in, unless that would take its tenant past quota_hbm or its port past 64 sheets (R140, R402); a range that has no sheet left ends (R408). -/
def Block.serveRange (b : Block) (r : PrefetchRange) : Option Block :=
  match (b.vat.notResident r.tenant r.base r.len).filter (fun x => x.paging.isNone) with
  | [] =>
    let b1 : Block := { b with vat := { b.vat with ranges := b.vat.ranges.erase r } }
    some (if (r.deadline - b.recTime).toInt < 0 then b1.bump Map.vatHintLate 1 else b1)
  | sh :: _ =>
    let port := match sh.place with | .far d _ => b.vat.portOf d | _ => 0
    let waiting := b.vat.sheets.countP (fun x => decide (x.tenant = r.tenant) && x.waits)
    if (b.tenant r.tenant).quotaHbm ≤ b.vat.useHbm r.tenant + waiting ∨ 64 ≤ b.vat.inFlight port then none
    else some (b.pageIn sh 0 [] true)

/-- PREFETCH_SERVE (R408, R140): when no demand page-in waits, the best-ranked range that can be served is. -/
def execPrefetchServe (s : State) : Host.Outcome State Fault Refusal :=
  lift s (fun b =>
    if b.vat.sheets.any (fun x => x.paging.any (fun p => p.dst.isNone && !p.prefetch)) then b
    else ((sortBy (PrefetchRange.before b.recTime) b.vat.ranges).findSome? b.serveRange).getD b)

end Sys2Proof.Machine
end

