-- ==== Sys2Proof/Machine/SplatBase.lean ====
section
/-! DEFINITION. What the stations of the splat pipeline share: frames, shingles and owners, parameter blocks, windows, the course store, FP32 steps with their flags, kills (chapter 17). -/
namespace Sys2Proof.Machine

/-! ## Frames (R455, R456) -/

/-- Shingle columns and rows of a frame. -/
def shCols (w : Nat) : Nat := ceilDiv w 16
def shRows (h : Nat) : Nat := ceilDiv h 16
def shCount (w h : Nat) : Nat := shCols w * shRows h

/-- Felt slices in service, in ascending order. -/
def Block.slicesAll (b : Block) : List Nat := (List.range 96).filter (fun n => b.sliceIn n)

/-- The slice that owns a shingle (R456). -/
def Block.ownerSlice (b : Block) (w x : Nat) : Nat :=
  let l := b.slicesAll
  l.getD ((37 * (x % shCols w) + 61 * (x / shCols w)) % l.length) 0

/-- The field of a shingle's owner. -/
def Block.ownerField (b : Block) (w x : Nat) : Nat := b.ownerSlice w x / 12

/-! ## Parameter blocks (R458, table "BLEND parameter block", R480) -/

structure BinPar where
  reverse : Bool
  w : Nat
  h : Nat
  va : Nat
  max : Nat
  seq : Nat
  deriving DecidableEq, Repr

def binPar (p : List Byte) : BinPar :=
  let w (i : Nat) : Word := wordAt p i
  { reverse := wbit (w 0) 0, w := wfield (w 1) 0 14, h := wfield (w 1) 16 14, va := (w 2).toNat + 2 ^ 32 * wfield (w 3) 0 16,
    max := wfield (w 4) 0 16, seq := (w 5).toNat + 2 ^ 32 * wfield (w 6) 0 16 }

/-- A frame's sides lie in their range. -/
def frameOk (w h : Nat) : Bool := decide (1 ≤ w ∧ w ≤ 8192 ∧ 1 ≤ h ∧ h ≤ 8192)

/-- The BIN parameter block breaks its table (R458). -/
def binBad (p : List Byte) : Bool :=
  let w (i : Nat) : Word := wordAt p i
  let v := binPar p
  decide (p.length ≠ 64) || !frameOk v.w v.h || decide (wfield (w 0) 1 31 ≠ 0 ∨ wfield (w 1) 14 2 ≠ 0 ∨ wfield (w 1) 30 2 ≠ 0 ∨ wfield (w 3) 16 16 ≠ 0 ∨
    wfield (w 4) 16 16 ≠ 0 ∨ wfield (w 6) 16 16 ≠ 0 ∨ v.va % sheetBytes ≠ 0 ∨ v.max = 0 ∨ 2 ^ 48 < v.va + v.max * sheetBytes) ||
    !(List.range 9).all (fun i => w (7 + i) = 0#32)

structure BlendPar where
  reverse : Bool
  save : Bool
  w : Nat
  h : Nat
  win : Nat
  state : Nat
  alphaMin : Num
  tStop : Num
  bin : Nat
  deriving DecidableEq, Repr

def blendPar (p : List Byte) : BlendPar :=
  let w (i : Nat) : Word := wordAt p i
  { reverse := wbit (w 0) 0, save := wbit (w 0) 1, w := wfield (w 1) 0 14, h := wfield (w 1) 16 14, win := (w 2).toNat + 2 ^ 32 * wfield (w 3) 0 16,
    state := (w 4).toNat + 2 ^ 32 * wfield (w 5) 0 16, alphaMin := wordF (w 6), tStop := wordF (w 7), bin := wfield (w 8) 0 8 }

/-- Bytes of the window of a BLEND (R468). -/
def BlendPar.bytes (v : BlendPar) : Nat := shCount v.w v.h * 4096

/-- The BLEND parameter block breaks its table. -/
def blendBad (p : List Byte) : Bool :=
  let w (i : Nat) : Word := wordAt p i
  let v := blendPar p
  let within (x hi : Num) : Bool := Num.zero.le x && x.le hi
  decide (p.length ≠ 64) || !frameOk v.w v.h || decide (wfield (w 0) 2 30 ≠ 0 ∨ wfield (w 1) 14 2 ≠ 0 ∨ wfield (w 1) 30 2 ≠ 0 ∨ wfield (w 3) 16 16 ≠ 0 ∨
    wfield (w 5) 16 16 ≠ 0 ∨ wfield (w 8) 8 24 ≠ 0 ∨ v.win % 4096 ≠ 0 ∨ v.state % 64 ≠ 0 ∨ 2 ^ 48 < v.win + v.bytes) ||
    (v.reverse && v.save) || (!v.reverse && !v.save && decide (v.state ≠ 0)) || !within v.alphaMin (.fin false 1 (-1)) || !within v.tStop (Num.ofNat 1) ||
    !(List.range 7).all (fun i => w (9 + i) = 0#32)

/-! ## FP32 steps (R473, R476) -/

/-- The flags that a list of steps sets. -/
def encOvf (l : List Enc) : Bool := l.any (fun e => e.ovf)
def encUnf (l : List Enc) : Bool := l.any (fun e => e.unf)
/-- The value that a step leaves. -/
def Enc.num (e : Enc) : Num := f32 e.code
def Enc.word (e : Enc) : Word := BitVec.ofNat 32 e.code
def stepAdd (x y : Num) : Enc := toF32 (x.add y)
def stepSub (x y : Num) : Enc := toF32 (x.sub y)
def stepMul (x y : Num) : Enc := toF32 (x.mul y)
def stepDiv (x y : Num) : Enc := toF32 (Num.divAt 40 x y)

/-! ## Kills -/

/-- The SPL_ERR bit of a cause (table "SPL_ERR fields"). -/
def splErrBit (cause : Nat) : Option Nat :=
  if cause = stGrowTo then some 1 else if cause = stCstore then some 2 else if cause = stBlendOrder then some 3 else if cause = stSplatShape then some 4 else none

/-- A kill that a station of this chapter raises, with SPL_ERR and SPL_LAST_ERR of a field. -/
def Block.killSplat (b : Block) (f : Nat) (a : StRef) (cause detail : Nat) : Block :=
  let b1 := match splErrBit cause with | some i => b.setErrBit (Map.splErr f) i | none => b
  let last := BitVec.ofNat 32 (cause + 256 * (a.tenant % 16) + 4096 * (detail % 2 ^ 20))
  (if (splErrBit cause).isSome then b1.setLast (Map.splLastErr f) last else b1).killAt a cause (BitVec.ofNat 32 detail)

/-! ## The course store (R460 to R465) -/

/-- The sheet numbers of a store's range, from and below. -/
def BinPar.lo (v : BinPar) : Nat := v.va / sheetBytes
def BinPar.hi (v : BinPar) : Nat := v.va / sheetBytes + v.max

/-- Sheets that a course store holds. -/
def Vat.courseSheets (v : Vat) (t : Nat) (p : BinPar) : List Nat :=
  (v.sheets.filter (fun s => decide (s.tenant = t ∧ p.lo ≤ s.num ∧ s.num < p.hi))).map (fun s => s.num)

/-- The sheets that segments of so many sheets and a staging area of so many take. -/
def BinPar.need (p : BinPar) (segs stage : Nat) : List Nat :=
  (List.range segs).map (fun i => p.lo + i) ++ (List.range stage).map (fun i => p.hi - 1 - i)

/-- A sheet of a store takes another place in its range. -/
def Block.moveSheet (b : Block) (t old new : Nat) : Block := (b.xlateDrop t old).modSheet t old (fun s => { s with num := new })

/-- The Vatman grants a sheet from the tenant's quota_hbm, a spar of NEAR class, and fills it with zeros (R398, R460, R463, R405). -/
def Block.grantSheet (b : Block) (t field num : Nat) : Option Block :=
  if (b.tenant t).quotaHbm ≤ b.vat.useHbm t ∨ 7 * b.stackSheets < 8 * (b.vat.spars + 1) ∨ mapEntries ≤ b.mapUsed then none
  else (b.takeSheet (.near field)).map (fun x =>
    let b1 := (x.1.clearSlot x.2.1 x.2.2).bump Map.vatFillCnt 1
    { b1 with vat := { b1.vat with sheets := b1.vat.sheets ++
        [{ tenant := t, num := num, place := .stack x.2.1 x.2.2, spar := true, lastUse := 5 * b.now / 1024, touched := true, farCopy := none, dirty := true, paging := none, evict := none }] } })

/-- Sheets that the store holds and does not use go where they are needed; `spare` are those not yet used. -/
def Block.useSpares (t : Nat) : List Nat → List Nat → Block → List Nat → Block × List Nat
  | [], _, b, lack => (b, lack)
  | m :: ms, [], b, lack => Block.useSpares t ms [] b (lack ++ [m])
  | m :: ms, x :: xs, b, lack => Block.useSpares t ms xs (b.moveSheet t x m) lack

/-- Grants in order: the block, and how many sheets could not be had. -/
def Block.grantAll (t field : Nat) : List Nat → Block → Nat → Nat → Block × Nat × Nat
  | [], b, got, lack => (b, got, lack)
  | m :: ms, b, got, lack =>
    match b.grantSheet t field m with
    | some b1 => Block.grantAll t field ms b1 (got + 1) lack
    | none => Block.grantAll t field ms b got (lack + 1)

/-- The sheets of a need that no sheet of the store covers, once unused ones have moved. -/
def Block.courseFit (b : Block) (t : Nat) (p : BinPar) (need : List Nat) : Block × List Nat :=
  let have_ := b.vat.courseSheets t p
  Block.useSpares t (need.filter (fun n => !have_.contains n)) (have_.filter (fun n => !need.contains n)) b []

/-- The store takes what a need asks of the quota: the block, sheets taken and sheets lacking. -/
def Block.courseTake (b : Block) (t field : Nat) (p : BinPar) (need : List Nat) : Block × Nat × Nat :=
  let r := b.courseFit t p need
  Block.grantAll t field r.2 r.1 0 0

/-- Where a byte of a course store is; none while its sheet is being paged in. -/
def Block.coursePhys (b : Block) (t va : Nat) : Option Nat :=
  (b.vat.sheet t (va / sheetBytes)).bind (fun s => match b.vat.sheetPhys s (va % sheetBytes) with | .ok pa => some pa | _ => none)

/-- Every sector of a range of a store is in place. -/
def Block.courseReady (b : Block) (t va len : Nat) : Bool := (pieces va len).all (fun p => (b.coursePhys t p.1).isSome)

/-- BIN writes into its store (R461). -/
def Block.courseWrite (b : Block) (f t va : Nat) (l : List Byte) : Block × Nat :=
  (pieces va l.length).foldl (fun (x : Block × Nat) p => match x.1.coursePhys t p.1 with
    | some pa =>
      let r := (x.1.cross f (homeField pa)).writeSector pa (sliceBytes l (p.1 - va) p.2)
      (r.1, if x.2 = stOk then r.2 else x.2)
    | none => x) (b, stOk)

/-- A range that a run maps. -/
def mappedRange (t base pages cls field : Nat) (rd : Bool) : Obj :=
  { tenant := t, base := base, pages := pages, cls := cls, placed := 1, field := field, rd := rd, wr := false, ex := false, spread := false,
    felt := [], feltTouched := [] }

/-- A range is mapped for a run: a course store, read-only for its tenant (R460), or a window, which no access but its own may use (R468). -/
def Block.mapRange (b : Block) (o : Obj) : Block := { b with vat := { b.vat with objs := b.vat.objs ++ [o] } }

def BinPar.range (p : BinPar) (t field : Nat) : Obj := mappedRange t p.va (p.max * 512) courseClass field true
def BlendPar.range (v : BlendPar) (t : Nat) : Obj := mappedRange t v.win (shCount v.w v.h) windowClass 0 false

/-- Ranges of a tenant's objects and of what its runs have mapped overlap a range (R460, R468). -/
def Vat.overlaps (v : Vat) (t lo len : Nat) : Bool := v.objs.any (fun o => decide (o.tenant = t ∧ o.base < lo + len ∧ lo < o.top))

/-- A course store is freed (R460, R189). -/
def Block.freeCourse (b : Block) (t : Nat) (p : BinPar) : Block :=
  let gone := b.vat.courseSheets t p
  let v : Vat := { b.vat with
    objs := b.vat.objs.filter (fun o => !decide (o.tenant = t ∧ o.cls = courseClass ∧ o.base = p.va))
    sheets := b.vat.sheets.filter (fun s => !(decide (s.tenant = t) && gone.contains s.num))
    xlate := b.vat.xlate.map (fun e => (e.1, e.2.filter (fun k => !(decide (k.1 = t) && gone.contains k.2)))) }
  { b with vat := v.dropRows }

/-- A window is no longer set apart. -/
def Block.freeWindow (b : Block) (t : Nat) (v : BlendPar) : Block :=
  { b with vat := { b.vat with objs := b.vat.objs.filter (fun o => !decide (o.tenant = t ∧ o.cls = windowClass ∧ o.base = v.win)) } }

/-- What a stage's BIN and BLEND stations have mapped is freed (R460, R189). -/
def Block.freeSplat (b : Block) (r : Run) (only : Option Nat) : Block :=
  r.stations.foldl (fun (x : Block) s =>
    if only.any (fun k => decide (s.entry.stage ≠ k)) then x
    else match s.entry.type with
      | .bin => x.freeCourse r.ref.tenant (binPar s.params)
      | .blend => x.freeWindow r.ref.tenant (blendPar s.params)
      | _ => x) b

/-! ## Windows of a raster station (R468) -/

/-- The BLEND stations that a station feeds, with their parameters. -/
def Run.windows (r : Run) (i : Nat) : List (Nat × BlendPar) :=
  r.edges.filterMap (fun e =>
    if e.entry.src = i ∧ e.entry.dport = 0 then
      (r.stations[e.entry.dst]?).bind (fun s => if s.entry.type = .blend then some (e.entry.dst, blendPar s.params) else none)
    else none)

/-- The BLEND, shingle and pixel that a 16-byte store of a raster station names. -/
def Run.windowAt (r : Run) (i addr : Nat) : Option (Nat × Nat × Nat) :=
  (r.windows i).findSome? (fun w =>
    if w.2.win ≤ addr ∧ addr < w.2.win + w.2.bytes then some (w.1, (addr - w.2.win) / 4096, (addr - w.2.win) % 4096 / 16) else none)

end Sys2Proof.Machine
end

