-- ==== Sys2Proof/Machine/Bin.lean ====
section
/-! DEFINITION. BIN stations: primitives, draws, the course store, parking and GROW (chapter 17, R458 to R466). -/
namespace Sys2Proof.Machine

/-- Checks of a BIN station at launch that its own entry decides (R457, R458, R460). -/
def Block.binLaunch (b : Block) (r : Run) (i : Nat) (s : Station) : LaunchCheck :=
  let v := binPar s.params
  let next (k : Nat) : Option Nat := ((r.edges.find? (fun e => e.entry.src = k)).map (fun e => e.entry.dst))
  let typeAt (k : Nat) (t : StType) : Bool := (r.stations[k]?).any (fun x => decide (x.entry.type = t))
  let chain : Bool := match next i with
    | some l => typeAt l .lath && (match r.edges.find? (fun e => e.entry.src = l) with
        | some e => decide (e.entry.dport = 0) && typeAt e.entry.dst .blend && (r.stations[e.entry.dst]?).any (fun x =>
            let y := blendPar x.params
            decide (y.bin = i ∧ y.w = v.w ∧ y.h = v.h) && decide (y.reverse = v.reverse))
        | none => false)
    | none => false
  let edges := (r.inShape i 0).any (fun (e : EdgeEntry) => decide (e.fmt = rawCode ∧ e.cols = 64)) &&
    (r.outShape i 0).any (fun (e : EdgeEntry) => decide (e.fmt = rawCode ∧ e.cols = 32))
  { ins := [0], outs := [0],
    cause := lowestCause [(binBad s.params || !chain || !edges || b.vat.overlaps r.ref.tenant v.va (v.max * sheetBytes), stGraph)] }

/-- BIN before any tile. -/
def BinSt.start : BinSt :=
  { prims := 0, boxes := [], draw := 0, ended := false, segEnd := 0, sks := [], segs := [], park := none, lastTile := 0 }

/-- A signed 16-bit field of a record word. -/
def signed16 (w : Word) (lo : Nat) : Int := (BitVec.ofNat 16 (wfield w lo 16)).toInt

/-- The shingles that a primitive takes, columns and rows from and to; none for one that takes no entry (R459). -/
def BinPar.box (v : BinPar) (rec : List Byte) : Option (Nat × Nat × Nat × Nat) :=
  let x0 := signed16 (wordAt rec 0) 0
  let y0 := signed16 (wordAt rec 0) 16
  let x1 := signed16 (wordAt rec 1) 0
  let y1 := signed16 (wordAt rec 1) 16
  if wbit (wordAt rec 2) 0 = true ∨ x1 < x0 ∨ y1 < y0 ∨ x1 < 0 ∨ y1 < 0 ∨ (v.w : Int) ≤ x0 ∨ (v.h : Int) ≤ y0 then none
  else
    let lo (z : Int) : Nat := z.toNat / 16
    let hi (z : Int) (n : Nat) : Nat := min z.toNat (n - 1) / 16
    some (lo x0, hi x1 v.w, lo y0, hi y1 v.h)

/-- A BIN parks (R464): its GROW event goes out, and the timer is armed. -/
def Block.parkBin (b : Block) (a : StRef) (r : Run) (f draw segs stage lack : Nat) : Block :=
  let b1 := b.modSt a (fun (s : Station) => match s.body with
    | .bin y => { s with body := .bin { y with park := some { segs := segs, stage := stage, since := b.now } } }
    | _ => s)
  ((b1.bump (Map.splGrowCnt f) 1).setErrBit (Map.splErr f) 0).sendEvent r.src evGrow 0 r.ref.handle
    [BitVec.ofNat 32 lack, BitVec.ofNat 32 draw, BitVec.ofNat 32 a.station, 0#32]

/-- Sheets of a number of bytes. -/
def sheetsOf (n : Nat) : Nat := ceilDiv n sheetBytes

/-- The sheets that a step of BIN needs are taken, and it goes on; or the run is killed, or BIN parks (R463, R464). -/
def Block.withSheets (b : Block) (a : StRef) (r : Run) (v : BinPar) (y : BinSt) (f segs stage : Nat) (go : Block → Block) : Block :=
  if v.max < segs + stage then b.killSplat f a stCstore y.draw
  else
    let g := b.courseTake r.ref.tenant f v (v.need segs stage)
    if g.2.2 = 0 then go g.1 else g.1.parkBin a r f y.draw segs stage g.2.2

/-- BIN_INPUT_TILE (R458, R459, R461): the boxes of a tile's primitives are staged. -/
def execBinInputTile (a : StRef) (ordinal : Nat) (upsets : List Upset) (s : State) : Host.Outcome State Fault Refusal :=
  lift s (fun b => b.meeting a.tenant upsets (fun b =>
    match b.working a ordinal with
    | none => b
    | some (r, st, x) =>
      match st.body, x.tile 0 with
      | .bin y, some t =>
        let v := binPar st.params
        let f := st.homeField
        let recs := (List.range t.rows).map (fun k => t.row 64 k)
        if y.park.isSome || y.ended || !st.turn ordinal then b
        else if t.cols ≠ 64 ∨ (recs.any (fun l => decide (wfield (wordAt l 2) 1 31 ≠ 0))) = true ∨ 16777216 < y.boxes.length + t.rows ∨ 2 ^ 32 ≤ y.prims + t.rows then
          b.killSplat f a stSplatShape t.no
        else
          let n := y.boxes.length
          b.withSheets a r v y f (sheetsOf y.segEnd) (sheetsOf (8 * (n + t.rows))) (fun b1 =>
            let at_ := v.va + v.max * sheetBytes - 8 * (n + t.rows)
            if !b1.courseReady r.ref.tenant at_ (8 * t.rows) then b1
            else
              let w := b1.courseWrite f r.ref.tenant at_ (recs.reverse.flatMap (fun l => l.take 8))
              let boxes := recs.map v.box
              let cull := boxes.countP (fun z => z.isNone)
              let y1 : BinSt := { y with prims := y.prims + t.rows, boxes := y.boxes ++ boxes, ended := t.last || bitAt t.flags 0, lastTile := t.no }
              if w.2 ≠ stOk then w.1.killAt a w.2 0#32
              else
                (((w.1.bump (Map.splBinPrim f) t.rows).bump (Map.splBinCull f) cull).modSt a (fun z => { z with body := .bin y1 })).itemDone a ordinal)
      | _, _ => b))

/-- The entries of a draw by shingle, ascending; ordinals ascend (R461). -/
def drawEntries (cols first : Nat) (boxes : List (Option (Nat × Nat × Nat × Nat))) : Kv Nat (List Nat) :=
  let m := (List.range boxes.length).foldl (fun (m : Kv Nat (List Nat)) k => match boxes[k]? with
    | some (some (x0, x1, y0, y1)) =>
      (List.range (y1 + 1 - y0)).foldl (fun (m : Kv Nat (List Nat)) j => (List.range (x1 + 1 - x0)).foldl (fun (m : Kv Nat (List Nat)) i =>
        let x := (y0 + j) * cols + x0 + i
        m.set x (m.getD x [] ++ [first + k])) m) m
    | _ => m) []
  sortBy (fun (p q : Nat × List Nat) => decide (p.1 ≤ q.1)) m

/-- Bytes of a segment, padded to its next boundary. -/
def segmentBytes (l : List Nat) : List Byte :=
  let d := l.flatMap (fun o => leBytes 4 o)
  d ++ List.replicate (ceilDiv d.length 64 * 64 - d.length) 0xFF#8

/-- Segments laid one behind another from an address. -/
def laySegments (draw : Nat) : List (Nat × List Nat) → Nat → List Segment
  | [], _ => []
  | e :: es, at_ => { shingle := e.1, draw := draw, count := e.2.length, addr := at_, first := e.2.headD 0 } :: laySegments draw es (at_ + (segmentBytes e.2).length)

/-- A work record (table "work record"). -/
def workRecord (reverse : Bool) (sk : Nat) (g : Segment) : List Byte :=
  wordsBytes [BitVec.ofNat 32 (sk % 65536), BitVec.ofNat 32 g.shingle, BitVec.ofNat 32 g.draw, BitVec.ofNat 32 g.count, BitVec.ofNat 32 g.addr,
    BitVec.ofNat 32 (g.addr / 2 ^ 32), BitVec.ofNat 32 (b2n reverse), 0#32]

/-- Work records go out in order, one a tile; the last one of the frame closes the edge (R461, R462, R467, R186). -/
def Block.emitWork (a : StRef) (v : BinPar) (past : Bool) : List Segment → Block → Kv Nat Nat → Block × Kv Nat Nat
  | [], b, sks => (b, sks)
  | g :: gs, b, sks =>
    let sk := sks.getD g.shingle 0
    let t := { rowsTile 32 ((v.seq + g.first) % 2 ^ 48) 0 [workRecord v.reverse sk g] with last := past && gs.isEmpty }
    Block.emitWork a v past gs (b.emit a 0 t) (sks.set g.shingle (sk + 1))

/-- Every item that a station has made has done its work. -/
def Station.idle (s : Station) : Bool := decide (s.made = s.dispatched) && s.active.all (fun x => x.done)

/-- The frame has ended: the tile with last set has been taken and its primitives staged. -/
def Station.frameOver (s : Station) : Bool := s.portClosed 0 && s.idle

/-- Order of emission of a reversed frame (R462). -/
def reverseOrder (l : List Segment) : List Segment := sortBy (fun (x y : Segment) => decide (y.draw < x.draw) || (decide (x.draw = y.draw) && decide (x.shingle ≤ y.shingle))) l

/-- BIN emits what stands ready: a FORWARD draw at its scatter, a REVERSE frame at its end (R462). -/
def Block.binEmit (b : Block) (a : StRef) (v : BinPar) (past : Bool) : Block :=
  match b.live a with
  | none => b
  | some (_, st) =>
    match st.body with
    | .bin y =>
      if v.reverse && !past then b
      else
        let r := Block.emitWork a v past (if v.reverse then reverseOrder y.segs else y.segs) b y.sks
        r.1.modSt a (fun z => { z with body := .bin { y with segs := [], sks := r.2 } })
    | _ => b

/-- The station's work is done: the frame is over, and every segment's record is out. -/
def Station.binOver (s : Station) : Bool :=
  match s.body with
  | .bin y => s.frameOver && s.allDone && y.boxes.isEmpty && y.segs.isEmpty && y.park.isNone
  | _ => false

/-- BIN_SCATTER (R461 to R464): a draw that has ended becomes one segment a shingle, whole or not at all. -/
def execBinScatter (a : StRef) (upsets : List Upset) (s : State) : Host.Outcome State Fault Refusal :=
  lift s (fun b => b.meeting a.tenant upsets (fun b =>
    match b.live a with
    | none => b
    | some (r, st) =>
      match st.body with
      | .bin y =>
        let v := binPar st.params
        let f := st.homeField
        let past := st.frameOver
        if y.park.isSome || !st.ready then b
        else if y.boxes.isEmpty || !(y.ended || past) then (if past then (b.binEmit a v past).finishWhen a (fun _ z => z.binOver) else b)
        else
          let es := drawEntries (shCols v.w) (y.prims - y.boxes.length) y.boxes
          let d := es.flatMap (fun e => segmentBytes e.2)
          if es.any (fun e => decide (65536 < e.2.length)) then b.killSplat f a stSplatShape y.lastTile
          else
            b.withSheets a r v y f (sheetsOf (y.segEnd + d.length)) (sheetsOf (8 * y.boxes.length)) (fun b1 =>
              if !b1.courseReady r.ref.tenant (v.va + y.segEnd) d.length then b1
              else
                let w := b1.courseWrite f r.ref.tenant (v.va + y.segEnd) d
                let y1 : BinSt := { y with boxes := [], draw := y.draw + 1, ended := false, segEnd := y.segEnd + d.length, segs := y.segs ++ laySegments y.draw es (v.va + y.segEnd) }
                if w.2 ≠ stOk then w.1.killAt a w.2 0#32
                else (((w.1.bump (Map.splBinEntry f) (sumNat (es.map (fun e => e.2.length)))).modSt a (fun z => { z with body := .bin y1 })).binEmit a v past).finishWhen a (fun _ z => z.binOver))
      | _ => b))

/-- An object's sheets join a course store: first where it lacks them, then at its lowest free places (R465). -/
def Block.joinObject (b : Block) (t : Nat) (p : BinPar) (o : Obj) (lack : List Nat) : Block × Nat :=
  let lo := o.base / sheetBytes
  let mine := (List.range (ceilDiv o.pages 512)).map (fun i => lo + i)
  let have_ := b.vat.courseSheets t p
  let free := ((List.range p.max).map (fun i => p.lo + i)).filter (fun n => !have_.contains n && !lack.contains n)
  let pairs := List.zip mine (lack ++ free)
  let left := mine.drop pairs.length
  let v : Vat := { b.vat with
    objs := b.vat.objs.filter (fun x => x ≠ o)
    ranges := b.vat.ranges.filter (fun r => !decide (r.tenant = t ∧ r.base < o.top ∧ o.base < r.base + r.len * sheetBytes))
    sheets := b.vat.sheets.filter (fun s => !(decide (s.tenant = t) && left.contains s.num)) }
  let b1 := left.foldl (fun (x : Block) n => x.xlateDrop t n) { b with vat := v }
  let b2 := pairs.foldl (fun (x : Block) q =>
    let x1 := match x.vat.sheet t q.1 with
      | some sh => (match sh.place with | .stack r j => if sh.touched then x else (x.clearSlot r j).bump Map.vatFillCnt 1 | _ => x)
      | none => x
    (x1.moveSheet t q.1 q.2).modSheet t q.2 (fun s => { s with spar := true, touched := true })) b1
  ({ b2 with vat := b2.vat.dropRows }, pairs.length)

/-- GROW (R465): a grant for a parked BIN. -/
def execGrow (t strm : Nat) (s : State) : Host.Outcome State Fault Refusal :=
  lift s (fun b0 =>
    match b0.front t strm opGrow with
    | none => b0
    | some p =>
      let b := b0.popFront t strm
      let i := wfield (p.arg 1) 0 8
      let obj := b.vat.objs.find? (fun o => decide (o.tenant = t ∧ o.base = p.addr) && o.owned)
      match b.findRun { tenant := t, handle := p.arg 0 } with
      | none => b.complete t p stKilled 0#32 0#32 0
      | some r =>
        if r.killed.isSome then b.complete t p stKilled 0#32 0#32 0
        else
          match r.stations[i]? with
          | none => b.complete t p stRange 0#32 0#32 0
          | some st =>
            if st.entry.type ≠ .bin then b.complete t p stRange 0#32 0#32 0
            else if p.addr ≠ 0 ∧ obj.isNone = true then b.complete t p stUnmapped 0#32 0#32 0
            else if p.addr ≠ 0 ∧ obj.any (fun o => decide (o.cls = 3)) = true then b.complete t p stDenied 0#32 0#32 0
            else
              let a : StRef := { tenant := t, handle := p.arg 0, station := i }
              match st.body with
              | .bin y =>
                (match y.park with
                | none => b.complete t p stOk 0#32 0#32 0
                | some k =>
                  let v := binPar st.params
                  let f := st.homeField
                  let need := v.need k.segs k.stage
                  let g : Block × Nat × Nat := match (if p.addr = 0 then none else obj) with
                    | none => b.courseTake t f v need
                    | some o =>
                      let q := b.courseFit t v need
                      let j := q.1.joinObject t v o q.2
                      (j.1, j.2, q.2.length - j.2)
                  let b1 := if g.2.2 = 0 then g.1.modSt a (fun z => { z with body := .bin { y with park := none } })
                    else g.1.parkBin a r f y.draw k.segs k.stage g.2.2
                  b1.complete t p stOk (BitVec.ofNat 32 g.2.1) 0#32 0)
              | _ => b.complete t p stOk 0#32 0#32 0)

/-- GROW_TIMEOUT (R466). -/
def execGrowTimeout (a : StRef) (s : State) : Host.Outcome State Fault Refusal :=
  lift s (fun b =>
    match b.live a, b.start.img with
    | some (_, st), some g =>
      (match st.body with
      | .bin y => (match y.park with
          | some k => if b.ctlSince k.since < g.growTo then b else b.killSplat st.homeField a stGrowTo y.draw
          | none => b)
      | _ => b)
    | _, _ => b)

end Sys2Proof.Machine
end

