-- ==== Sys2Proof/Machine/Blend.lean ====
section
/-! DEFINITION. BLEND stations: the scoreboard, holding, forward and reverse blending, end tiles and the finish (chapter 17, R468 to R478). -/
namespace Sys2Proof.Machine

/-- Checks of a BLEND station at launch (R457, R468). -/
def Block.blendLaunch (b : Block) (r : Run) (i : Nat) (s : Station) : LaunchCheck :=
  let v := blendPar s.params
  let binOk := (r.stations[v.bin]?).any (fun x => decide (x.entry.type = .bin)) &&
    (r.edges.any (fun e => decide (e.entry.src = v.bin) && r.edges.any (fun g => decide (g.entry.src = e.entry.dst ∧ g.entry.dst = i ∧ g.entry.dport = 0))))
  let image (e : EdgeEntry) : Bool := decide (e.fmt = fp32Code ∧ e.cols = 64 ∧ 16 ≤ e.rows)
  let records (e : EdgeEntry) : Bool := decide (e.fmt = rawCode ∧ e.cols = 32)
  let edges := (r.inShape i 0).any records && (if v.reverse then (r.inShape i 1).any image && (r.outShape i 0).any records else (r.outShape i 0).any image)
  { ins := if v.reverse then [0, 1] else [0], outs := [0],
    cause := lowestCause [(blendBad s.params || !binOk || !edges || b.vat.overlaps r.ref.tenant v.win v.bytes, stGraph)] }

/-- BLEND before any fragment. -/
def BlendSt.start : BlendSt := { inbound := [], sh := [], ups := 0, done := false }

/-- A shingle before any fragment (R470). -/
def Shingle.start : Shingle :=
  { nextSk := 0, loaded := false, up := false, held := [], px := [], touched := [], staged := [], ovf := false, unf := false }

/-- Felt bytes of a shingle's buffer and scoreboard record (tables "pixel buffer", R472). -/
def BlendPar.feltBytes (v : BlendPar) : Nat := (if v.reverse then 16384 else 8192) + 16

/-- A pixel of a FORWARD shingle before any fragment. -/
def pixelStart : List Word := [0#32, 0#32, 0#32, 0x3F800000#32, 0#32, 0#32, 0xFFFFFFFF#32, 0#32]

/-- A pixel of a REVERSE shingle from its saved state (R475). -/
def pixelLoad (l : List Byte) : List Word :=
  [0#32, 0#32, 0#32, wordAt l 3, wordAt l 3, 0#32, 0#32, 0#32, 0#32, wordAt l 5, wordAt l 4, 0xFFFFFFFF#32, 0#32, 0#32, 0#32, 0#32]

def Frag.sk (f : Frag) : Nat := wfield (f.words.getD 0 0#32) 0 16
def Frag.off (f : Frag) : Nat := wfield (f.words.getD 0 0#32) 16 16
def Frag.alpha (f : Frag) : Num := wordF (f.words.getD 1 0#32)
/-- A colour of a fragment, decoded exactly from FP16. -/
def Frag.colour (f : Frag) (c : Nat) : Num :=
  Fmt.fp16.decode (match c with | 0 => wfield (f.words.getD 2 0#32) 0 16 | 1 => wfield (f.words.getD 2 0#32) 16 16 | _ => wfield (f.words.getD 3 0#32) 0 16)

/-- 0.99 as the pseudocode of R473 has it. -/
def alphaTop : Num := f32 0x3F7D70A4
def alphaClamp (a : Num) : Num := if alphaTop.lt a then alphaTop else a

/-- One retiring fragment, FORWARD (R473): the pixel, the steps taken, and whether it was skipped. -/
def BlendPar.forward (v : BlendPar) (px : List Word) (f : Frag) : List Word × List Enc × Bool :=
  let w (i : Nat) : Word := px.getD i 0#32
  let n := w 5 + 1#32
  let last := f.words.getD 0 0#32
  let t := wordF (w 3)
  if f.alpha.lt v.alphaMin || t.lt v.tStop then ([w 0, w 1, w 2, w 3, w 4, n, last, w 7], [], true)
  else
    let a := alphaClamp f.alpha
    let wt := stepMul a t
    let mul (c : Nat) : Enc := stepMul wt.num (f.colour c)
    let add (c : Nat) : Enc := stepAdd (wordF (w c)) (mul c).num
    let om := stepSub (Num.ofNat 1) a
    let t1 := stepMul t om.num
    ([(add 0).word, (add 1).word, (add 2).word, t1.word, n, n, last, w 7 + 1#32],
     [wt, mul 0, add 0, mul 1, add 1, mul 2, add 2, om, t1], false)

/-- What a fragment of REVERSE leaves: the pixel, the steps taken, and its gradient record when it contributed (R476). -/
def BlendPar.backward (v : BlendPar) (px : List Word) (f : Frag) : List Word × List Enc × Option (List Byte) :=
  let w (i : Nat) : Word := px.getD i 0#32
  let rank := w 9
  let last := f.words.getD 0 0#32
  let put (b0 b1 b2 t : Word) : List Word := [b0, b1, b2, t, w 4, w 5, w 6, w 7, w 8, rank - 1#32, w 10, last, 0#32, 0#32, 0#32, 0#32]
  if (w 10).toNat < rank.toNat ∨ f.alpha.lt v.alphaMin = true then (put (w 0) (w 1) (w 2) (w 3), [], none)
  else
    let clamp := alphaTop.lt f.alpha
    let a := alphaClamp f.alpha
    let om := stepSub (Num.ofNat 1) a
    let tb := stepDiv (wordF (w 3)) om.num
    let g (c : Nat) : Num := wordF (w (5 + c))
    let ga (c : Nat) : Enc := stepMul (g c) a
    let d (c : Nat) : Enc := stepMul (ga c).num tb.num
    let ft (c : Nat) : Enc := stepMul (f.colour c) tb.num
    let bo (c : Nat) : Enc := stepDiv (wordF (w c)) om.num
    let df (c : Nat) : Enc := stepSub (ft c).num (bo c).num
    let gd (c : Nat) : Enc := stepMul (g c) (df c).num
    let da0 := stepAdd Num.zero (gd 0).num
    let da1 := stepAdd da0.num (gd 1).num
    let da2 := stepAdd da1.num (gd 2).num
    let gt := stepMul (g 3) (wordF (w 4))
    let go := stepDiv gt.num om.num
    let da3 := stepSub da2.num go.num
    let da : Word := if clamp then 0#32 else da3.word
    let fa (c : Nat) : Enc := stepMul (f.colour c) a
    let fat (c : Nat) : Enc := stepMul (fa c).num tb.num
    let nb (c : Nat) : Enc := stepAdd (wordF (w c)) (fat c).num
    let per (c : Nat) : List Enc := [ga c, d c, ft c, bo c, df c, gd c, fa c, fat c, nb c]
    let line := wordsBytes [BitVec.ofNat 32 f.x, last, BitVec.ofNat 32 f.q, da, (d 0).word, (d 1).word, (d 2).word, 0#32]
    (put (nb 0).word (nb 1).word (nb 2).word tb.word, [om, tb, da0, da1, da2, gt, go, da3] ++ per 0 ++ per 1 ++ per 2, some line)

/-- The pixel's last retired fragment lets this one retire (R470). -/
def Shingle.orderOk (sh : Shingle) (v : BlendPar) (px : List Word) (f : Frag) : Bool :=
  let last := px.getD (if v.reverse then 11 else 6) 0#32
  if !sh.touched.contains f.q || decide (wfield last 0 16 ≠ f.sk) then true
  else if v.reverse then decide (f.off < wfield last 16 16) else decide (wfield last 16 16 < f.off)

/-- A fragment retires at its pixel: the shingle and whether it was skipped; none where the order forbids it (R470, R473, R476). -/
def Shingle.retire (sh : Shingle) (v : BlendPar) (f : Frag) : Option (Shingle × Bool) :=
  let px := sh.px.getD f.q pixelStart
  if !sh.orderOk v px f then none
  else
    let seen := if sh.touched.contains f.q then sh.touched else f.q :: sh.touched
    if v.reverse then
      let r := v.backward px f
      some ({ sh with px := sh.px.set f.q r.1, touched := seen, staged := sh.staged ++ (match r.2.2 with | some l => [(f.q, l)] | none => []),
                      ovf := sh.ovf || encOvf r.2.1, unf := sh.unf || encUnf r.2.1 }, r.2.2.isNone)
    else
      let r := v.forward px f
      some ({ sh with px := sh.px.set f.q r.1, touched := seen, ovf := sh.ovf || encOvf r.2.1, unf := sh.unf || encUnf r.2.1 }, r.2.2)

/-- Fragments retire in order: the shingle, how many retired and how many of them were skipped; none at an order violation. -/
def Shingle.retireAll (v : BlendPar) : List Frag → Shingle → Nat → Nat → Option (Shingle × Nat × Nat)
  | [], sh, n, k => some (sh, n, k)
  | f :: fs, sh, n, k =>
    match sh.retire v f with
    | some r => Shingle.retireAll v fs r.1 (n + 1) (k + b2n r.2)
    | none => none

/-- The state of a BLEND changes. -/
def Block.modBlend (b : Block) (a : StRef) (g : BlendSt → BlendSt) : Block :=
  b.modSt a (fun (s : Station) => match s.body with | .blend y => { s with body := .blend (g y) } | _ => s)

def BlendSt.shingle (y : BlendSt) (x : Nat) : Shingle := y.sh.getD x Shingle.start

/-- Counters of the owner's field (table "splat registers"): a blend port retires one fragment a cycle, and one every second cycle in REVERSE (R472, log entry 14). -/
def Block.countFrags (b : Block) (v : BlendPar) (f n skipped : Nat) : Block :=
  ((b.bump (Map.splFragCnt f) n).bump (Map.splSkipCnt f) skipped).bump (Map.splPortBusy f) (if v.reverse then 2 * n else n)

/-- The saved state of a REVERSE shingle, read when its first fragment or upstream tile arrives (R475): the block, the shingle, and the status; none while memory cannot answer. -/
def Block.loadShingle (b : Block) (f t : Nat) (v : BlendPar) (x : Nat) (sh : Shingle) : Option (Block × Shingle × Nat) :=
  if !v.reverse || sh.loaded then some (b, sh, stOk)
  else if !b.canRead t (v.state + 8192 * x) 8192 then none
  else
    let l := b.load f t (v.state + 8192 * x) 8192 .load
    some (l.1, { sh with loaded := true, px := (List.range 256).map (fun q => (q, pixelLoad (sliceBytes l.2.1 (32 * q) 32))) }, l.2.2)

/-- A fragment may go to its owner's port before those that stand ahead of it: none of them is of its instruction, or of its thread at its pixel, unless it waits for the hold (R469, R471). -/
def fragFree (y : BlendSt) (n : Nat) (f : Frag) (waits : Frag → Bool) : Bool :=
  (y.inbound.take n).all (fun e =>
    !(decide (e.core = f.core ∧ e.slot = f.slot ∧ e.sheaf = f.sheaf ∧ e.lane = f.lane ∧ e.x = f.x ∧ e.q = f.q)) && (decide (e.core ≠ f.core ∨ e.op ≠ f.op) || waits e))

/-- A fragment that stands at a BLEND is accepted, and retires or is held; one that comes after the BLEND has finished kills the run (R469 to R471, R478). -/
def Block.takeFragment (b : Block) (a : StRef) (n : Nat) : Block :=
    match b.staged a with
    | none => b
    | some (r, st) =>
      match st.body with
      | .blend y =>
        (match y.inbound[n]? with
        | none => b
        | some f =>
          let v := blendPar st.params
          let fld := b.ownerField v.w f.x
          let inHold := b.isHeld r.ref.tenant (.blend r.ref a.station)
          let holds (e : Frag) : Bool := let sh := y.shingle e.x; decide ((e.sk + 65536 - sh.nextSk) % 65536 ≠ 0) || (v.reverse && !sh.up)
          if !fragFree y n f (fun e => inHold && holds e) then b
          else if wfield (f.words.getD 3 0#32) 16 16 ≠ 0 then b.killSplat fld a stSplatShape f.item
          else if y.done then b.killSplat fld a stBlendOrder f.x
          else
            match b.loadShingle fld r.ref.tenant v f.x (y.shingle f.x) with
            | none => b
            | some (b1, sh, status) =>
              let d := (f.sk + 65536 - sh.nextSk) % 65536
              let put (z : Block) (sh1 : Shingle) : Block :=
                z.modBlend a (fun w => { w with inbound := w.inbound.erase f, sh := w.sh.set f.x sh1 })
              let full (before after per : Nat) : Bool := decide (ceilDiv before per < ceilDiv after per) && decide (b1.gutterFree r.ref.tenant = 0)
              let toHeld (z : Block) : Block := (z.hold r.ref.tenant (.blend r.ref a.station)).setErrBit (Map.splErr fld) 5
              if status ≠ stOk then b1.killAt a status 0#32
              else if 32768 ≤ d then b1.killSplat fld a stBlendOrder f.x
              else if holds f then
                (if inHold then b
                 else if full y.held (y.held + 1) 256 then toHeld b
                 else (put b1 { sh with held := sh.held ++ [f] }).bump (Map.splHoldCnt fld) 1)
              else if v.reverse && full y.staged (y.staged + 1) 128 then (if inHold then b else toHeld b)
              else
                match sh.retire v f with
                | none => b1.killSplat fld a stBlendOrder f.x
                | some q => (put b1 q.1).countFrags v fld 1 (b2n q.2))
      | _ => b

/-- FRAGMENT_STORE (R469 to R471, R478): the fragment in place `n` of those that stand at a BLEND. -/
def execFragmentStore (a : StRef) (n : Nat) (upsets : List Upset) (s : State) : Host.Outcome State Fault Refusal := lift s (fun b => b.meeting a.tenant upsets (fun b => b.takeFragment a n))

/-- Earlier items of a port have done their work. -/
def Station.portTurn (s : Station) (port ordinal : Nat) : Bool :=
  s.active.all (fun x => x.done || decide (ordinal ≤ x.ordinal) || !x.slots.any (fun y => y.1 = port))

/-- An item's gradient records as tiles of the output edge, sorted by pixel (R477). -/
def gradientTiles (rows : Nat) (ovf unf : Bool) (l : List (Nat × List Byte)) : List Tile :=
  let recs := (sortBy (fun (x y : Nat × List Byte) => decide (x.1 ≤ y.1)) l).map (fun x => x.2)
  (chunk (max rows 1) recs.length recs).map (fun c => { rowsTile 32 0 0 c with ovf := ovf, unf := unf })

/-- BLEND_END_TILE (R472, R477): the item's held fragments retire, its gradients go out, and the next item's turn comes. -/
def execBlendEndTile (a : StRef) (ordinal : Nat) (upsets : List Upset) (s : State) : Host.Outcome State Fault Refusal :=
  lift s (fun b => b.meeting a.tenant upsets (fun b =>
    match b.working a ordinal with
    | none => b
    | some (r, st, i) =>
      match st.body, i.tile 0 with
      | .blend y, some t =>
        let v := blendPar st.params
        let sk := wfield (wordAt (t.row 32 0) 0) 0 16
        let x := (wordAt (t.row 32 0) 1).toNat
        let fld := b.ownerField v.w x
        let sh := y.shingle x
        if !st.portTurn 0 ordinal || !st.ready then b
        else if shCount v.w v.h ≤ x then b.killSplat st.homeField a stSplatShape t.no
        else if v.reverse && !sh.up then b
        else if sk ≠ sh.nextSk then b.killSplat fld a stBlendOrder x
        else
          let mine := sh.held.filter (fun f => f.sk = sk)
          match Shingle.retireAll v mine { sh with held := sh.held.filter (fun f => f.sk ≠ sk) } 0 0 with
          | none => b.killSplat fld a stBlendOrder x
          | some (sh1, n, k) =>
            let rows := ((r.outShape a.station 0).map (fun e => e.rows)).getD 1
            let tiles := if v.reverse then gradientTiles rows sh1.ovf sh1.unf sh1.staged else []
            let sh2 : Shingle := { sh1 with staged := [], nextSk := (sk + 1) % 65536, ovf := if v.reverse then false else sh1.ovf, unf := if v.reverse then false else sh1.unf }
            let b1 := (b.modBlend a (fun w => { w with sh := w.sh.set x sh2 })).countFrags v fld n k
            (tiles.foldl (fun (z : Block) u => z.emit a 0 u) b1).itemDone a ordinal
      | _, _ => b))

/-- A shingle's pixels take the gradients of an upstream tile (R475). -/
def upstreamPx (t : Tile) (px : Kv Nat (List Word)) : Kv Nat (List Word) :=
  px.map (fun e => (e.1, (e.2.take 5) ++ (List.range 4).map (fun c => wordAt t.data (4 * e.1 + c)) ++ e.2.drop 9))

/-- UPSTREAM_GRADIENT_TILE (R475, R477): the shingle's held fragments whose turn it is retire; without Gutter pages for their records the hold is HELD. -/
def execUpstreamGradientTile (a : StRef) (ordinal : Nat) (upsets : List Upset) (s : State) : Host.Outcome State Fault Refusal :=
  lift s (fun b => b.meeting a.tenant upsets (fun b =>
    match b.working a ordinal with
    | none => b
    | some (r, st, i) =>
      match st.body, i.tile 1 with
      | .blend y, some t =>
        let v := blendPar st.params
        let x := y.ups
        let fld := b.ownerField v.w x
        if v.reverse = false ∨ st.portTurn 1 ordinal = false then b
        else if t.no ≠ x ∨ shCount v.w v.h ≤ x ∨ t.rows ≠ 16 ∨ t.cols ≠ 64 then b.killSplat fld a stSplatShape t.no
        else
          match b.loadShingle fld r.ref.tenant v x (y.shingle x) with
          | none => b
          | some (b1, sh, status) =>
            if status ≠ stOk then b1.killAt a status 0#32
            else
              let now := sh.held.filter (fun f => f.sk = sh.nextSk)
              let sh1 : Shingle := { sh with up := true, px := upstreamPx t sh.px, held := sh.held.filter (fun f => f.sk ≠ sh.nextSk) }
              match Shingle.retireAll v now sh1 0 0 with
              | none => b1.killSplat fld a stBlendOrder x
              | some (sh2, n, k) =>
                let pages := ceilDiv (y.staged + (sh2.staged.length - sh.staged.length)) 128 - ceilDiv y.staged 128
                if pages ≠ 0 ∧ b1.gutterFree r.ref.tenant < pages then
                  (if b.isHeld r.ref.tenant (.blend r.ref a.station) then b else (b.hold r.ref.tenant (.blend r.ref a.station)).setErrBit (Map.splErr fld) 5)
                else
                ((b1.modBlend a (fun w => { w with ups := x + 1, sh := w.sh.set x sh2 })).countFrags v fld n k).itemDone a ordinal
      | _, _ => b))

/-- The image tile of a shingle (R474). -/
def Shingle.image (sh : Shingle) (x : Nat) (last : Bool) : Tile :=
  let data := (List.range 256).flatMap (fun q => wordsBytes ((sh.px.getD q pixelStart).take 4))
  { fmt := fp32Code, ovf := sh.ovf, unf := sh.unf, last := last, flags := 0, rows := 16, cols := 64, no := x, dbytes := data.length, seq := x, data := data }

/-- The saved state of a shingle (R474). -/
def Shingle.saved (sh : Shingle) : List Byte := (List.range 256).flatMap (fun q => wordsBytes (sh.px.getD q pixelStart))

/-- The station's work is done. -/
def Station.blendOver (s : Station) : Bool :=
  match s.body with
  | .blend y => y.done && s.allDone
  | _ => false

/-- BLEND_FINISH (R474, R478): every end tile has been taken. -/
def execBlendFinish (a : StRef) (upsets : List Upset) (s : State) : Host.Outcome State Fault Refusal :=
  lift s (fun b => b.meeting a.tenant upsets (fun b =>
    match b.live a with
    | none => b
    | some (r, st) =>
      match st.body with
      | .blend y =>
        let v := blendPar st.params
        let n := shCount v.w v.h
        let closed := st.portClosed 0 && (!v.reverse || st.portClosed 1)
        let held := (sortBy (fun (p q : Nat) => decide (p ≤ q)) ((y.sh.filter (fun e => !e.2.held.isEmpty)).map (fun e => e.1))).head?
        if y.done || !closed || !st.idle || !st.ready || !y.inbound.isEmpty then b
        else
          match held with
          | some x => b.killSplat (b.ownerField v.w x) a stBlendOrder x
          | none =>
            if v.reverse then (b.modBlend a (fun w => { w with done := true })).finishWhen a (fun _ z => z.blendOver)
            else
              let saves := if v.save then (List.range n).map (fun x => (v.state + 8192 * x, (y.shingle x).saved)) else []
              if !b.canWriteAll r.ref.tenant (saves.map (fun p => (p.1, p.2.length))) then b
              else
                let w := Block.storeAll st.homeField r.ref.tenant saves b
                if w.2 ≠ stOk then w.1.killAt a w.2 0#32
                else
                  (((List.range n).foldl (fun (z : Block) x => z.emit a 0 ((y.shingle x).image x (decide (x + 1 = n)))) w.1).modBlend a (fun u => { u with done := true })).finishWhen a (fun _ z => z.blendOver)
      | _ => b))

end Sys2Proof.Machine
end

