-- ==== Sys2Proof/Machine/Calender.lean ====
section
/-! DEFINITION. The Calender and the thermal sensors (chapter 03). Powers are in microwatts at 12 V. -/
namespace Sys2Proof.Machine

/-! ## Steps (R94, R98 to R100) -/

/-- Power that a step declares (R99, R100, table "start-up test groups per field"). -/
def declared : StepKind → Nat
  | .wake _ => 38400000
  | .train _ => 40000000
  | .window _ _ => Config.windowPower
  | .group g => groupPower (g % 32)

/-- The field that takes a step. -/
def stepField : StepKind → Nat
  | .wake f => f
  | .train k => k / 3
  | .window k _ => k / 3
  | .group g => g / 32

/-- Steps in progress: admitted ones, and those that have started and not ended (R100). -/
def Block.stepsOn (b : Block) : List StepKind :=
  let active : List StepKind :=
    (b.screen.groups.filterMap (fun g => match g.2 with | .running _ => some (.group g.1) | _ => none)) ++
    (b.start.training.map (fun t => .train t.1)) ++
    (match b.start.waking with | some w => [.wake w.1] | none => []) ++
    ((List.range 24).filterMap (fun k => (b.eave k).test.map (fun w => .window k w.1)))
  active ++ (b.cal.steps.map (fun s => s.kind)).filter (fun k => !active.contains k)

def Block.declaredOn (b : Block) : Nat := sumNat (b.stepsOn.map declared)

/-- Stacks that phase 5 trains (R118): enabled by the image, their Eaves in service, not trained yet. -/
def Block.toTrain (b : Block) : List Nat :=
  (List.range 24).filter (fun k => b.unitIn (k / 3) 8 (k % 3) && b.start.img.any (fun g => g.stackEnable.getLsbD k)
    && !b.start.trained.contains k)

/-- The next field to wake, one at a time in the fixed order (R99). -/
def Block.waitingWake (b : Block) : List StepKind :=
  if (decide (b.start.state = .starting ∧ b.start.phase = 4) || b.start.qTests) && b.start.waking.isNone then
    match wakeOrder.find? (fun f => b.fieldOn f && !b.start.woken.contains f) with
    | some f => [.wake f]
    | none => []
  else []

/-- Stacks that wait to train, no more than six at once (R100). -/
def Block.waitingTrain (b : Block) : List StepKind :=
  if b.start.state = .starting ∧ b.start.phase = 5 then
    let busy := b.start.training.map (fun t => t.1) ++ b.cal.steps.filterMap (fun s => match s.kind with | .train k => some k | _ => none)
    ((b.toTrain.filter (fun k => !busy.contains k)).take (6 - busy.eraseDups.length)).map (fun k => .train k)
  else []

/-- Maintenance windows that wait: one stack of a field at a time, 1 ms apart on a stack (R430, R496). -/
def Block.waitingWindows (b : Block) : List StepKind :=
  if b.serving && decide (b.cal.withheld = 0) then
    (List.range 24).filterMap (fun k =>
      let e := b.eave k
      let fieldBusy := [3 * (k / 3), 3 * (k / 3) + 1, 3 * (k / 3) + 2].any (fun j => (b.eave j).test.isSome)
      match e.testTodo with
      | p :: _ => if b.eaveIn k && !fieldBusy && decide (e.testAt = 0 ∨ 2000000 ≤ b.meshSince e.testAt) then some (.window k p) else none
      | [] => none)
  else []

/-- Steps that wait, in the order of R98. -/
def Block.waitingSteps (b : Block) : List StepKind :=
  ((b.waitingWake ++ b.waitingTrain ++ b.waitingWindows ++ (b.waitingGroups.map (fun g => StepKind.group g)))).filter
    (fun (k : StepKind) => !(b.cal.steps.map (fun s => s.kind)).contains k)

/-- SENS and BAL take no pre-load (R486). -/
def noPreload : StepKind → Bool
  | .group g => decide (g % 32 ≤ 1)
  | _ => false

/-- A step is admitted; its pre-load begins (R94, R486). -/
def Block.admitStep (b : Block) (k : StepKind) : Block :=
  let ph : StepPhase := if noPreload k then .loop b.now else .preload
  let b1 : Block := { b with cal := { b.cal with steps := b.cal.steps ++ [{ kind := k, declared := declared k, field := stepField k, phase := ph, shed := 0 }] } }
  match k with
  | .group g => b1.setGroup g (.admitted b.now)
  | _ => b1

/-- Ballast that a step holds: its declared power, less what it has added since its loop closed (R94). -/
def CalStep.hold (s : CalStep) : Nat := if noPreload s.kind then 0 else s.declared - s.shed

/-- A test group's pre-load finds room in the segments of its own field that have passed (R486). -/
def Block.preloadFits (b : Block) (k : StepKind) : Bool :=
  match k with
  | .group g => noPreload k || decide (sumNat ((b.cal.steps.filter (fun s => s.field = g / 32)).map (fun s => s.hold)) + declared k ≤ b.fieldBallast (g / 32))
  | _ => true

/-- Steps are admitted in order while the draw after them stays within the cap and the ceiling; the first that does not fit holds every later one (R98, R100, R486). -/
def Block.admitSteps (limit awake : Nat) : List StepKind → Block → Block
  | [], b => b
  | k :: ks, b =>
    if awake + b.declaredOn + declared k ≤ limit ∧ b.preloadFits k = true then Block.admitSteps limit awake ks (b.admitStep k) else b

/-! ## One interval (R89, R91, R94, R96) -/

/-- Governed draw in the stop ramp at a time: linear from start to post (R95). -/
def Ramp.draw (r : Ramp) (now : Nat) : Nat :=
  if r.cycles ≤ now - r.t0 then r.post else r.start - (r.start - r.post) * (now - r.t0) / r.cycles

/-- The Calender has power and a clock. -/
def Block.calOn (b : Block) : Bool := b.pins.pwrGood || b.cal.ramp.isSome

/-- Sensors in service: those of the fields in service that Screen has not put out (R22, R104, log entry 111). -/
def Block.sensors (b : Block) : List Nat := (List.range 64).filter (fun i => b.unitIn (i / 8) 11 (i % 8))

/-- The hottest of some sensors, its reading and its index; of equal readings the lowest index (log entry 111). -/
def hottestOf (temps : List (BitVec 12)) (sensors : List Nat) : Option (BitVec 12 × Nat) :=
  sensors.foldl (fun m i =>
    let t := temps.getD i 0#12
    match m with
    | some x => if tempOf x.1 < tempOf t then some (t, i) else m
    | none => some (t, i)) none

/-- The thermal ceiling falls by 0.06 A an interval while the hottest sensor reads 100.0 °C or more, to 270 W at the least (R105). -/
def Block.lowerCeiling (b : Block) : Option Nat :=
  match b.cal.ceiling with
  | some c => if b.cal.hottest.any (fun h => decide (1600 ≤ tempOf h.1)) then some (max 270000000 (c - 720000)) else some c
  | none => none

/-- In their loops the field's ballast sheds what each step has added; `drawn` gives it for the loops in order of admission (R94). -/
def shedSteps : List CalStep → List Nat → List CalStep
  | [], _ => []
  | s :: l, ds =>
    match s.phase with
    | .loop _ => { s with shed := min s.declared (ds.headD 0) } :: shedSteps l (ds.drop 1)
    | .preload => s :: shedSteps l ds

/-- The fields that take their turn when one priority level is withheld in part, from the field whose turn comes next (R92). -/
def Block.turnFields (b : Block) (n : Nat) : List Nat :=
  (((List.range 8).map (fun i => (b.cal.turn + i) % 8)).filter (fun f => b.fieldIn f)).take n

/-- Tenant work is withheld up to a level: below it everywhere, at it in `fields` fields, which take turns (R92). -/
def Block.withholdTo (b : Block) (level fields : Nat) : Block :=
  let at_ := if 2 ≤ level then b.turnFields fields else []
  { b with cal := { b.cal with withheld := level, withheldAt := at_, turn := match at_.getLast? with | some f => (f + 1) % 8 | none => b.cal.turn } }

/-- One interval of the pseudocode of chapter 03. The ballast held for admitted steps rises at the slew limit, falls with what the loops shed (R94), and has the room below hi before the growth of tenant work (R98). -/
def Block.interval (b : Block) (est withhold fields : Nat) (drawn : List Nat) : Block :=
  let ceiling := b.lowerCeiling
  let step := b.cal.slewStep
  let top := min (b.cal.gPrev + step) (b.effCap * 1000000)
  let hi := match ceiling with | some c => min top c | none => top
  let lo := b.cal.gPrev - step
  let steps := shedSteps b.cal.steps drawn
  let held := min (min (sumNat (steps.map (fun s => s.hold))) (b.cal.held + step)) hi
  let past := decide (hi - held < est)
  let d := min est (hi - held)
  let bal := max (lo - d) held
  let b1 := if past then b.bump Map.calLimitedCnt 1 else b
  let b2 := b1.withholdTo (if past then max 1 withhold else 0) fields
  ({ b2 with cal := { b2.cal with gPrev := d + bal, est := est, hi := hi, ceiling := ceiling, steps := steps, held := held, lastInterval := b.now } } : Block).setBallast bal

/-- One interval of the stop ramp: the draw falls linearly, and ballast holds what the units no longer take (R95). -/
def Block.rampInterval (b : Block) (r : Ramp) (est : Nat) : Block :=
  let g := r.draw b.now
  let b1 := b.withholdTo 0 0
  ({ b1 with cal := { b1.cal with gPrev := g, est := min est g, hi := g, ceiling := b.lowerCeiling, held := 0, lastInterval := b.now } } : Block).setBallast (g - min est g)

/-- CALENDER_INTERVAL (R89, R91, R92, R94, R98): the draw is estimated, admission withheld above hi, ballast set below lo, and waiting steps are admitted. `est` is the estimate, `awake` the estimate of the units awake without the groups in progress (R100), `withhold` how far admission is withheld and `fields` in how many fields at its last level (R92), `drawn` the power that each step in its fast loop has added (R94). -/
def execCalenderInterval (est awake withhold fields : Nat) (drawn : List Nat) (s : State) : Host.Outcome State Fault Refusal :=
  lift s (fun b =>
    if !b.calOn || decide (b.now < b.cal.lastInterval + 20) then b
    else
      match b.cal.ramp with
      | some r => b.rampInterval r est
      | none =>
        let b1 := b.interval est withhold fields drawn
        let cap := b1.effCap * 1000000
        let limit := match b1.cal.ceiling with | some c => min cap c | none => cap
        Block.admitSteps limit awake b1.waitingSteps b1)

/-- CALENDER_CALIBRATION (R514): every 10 µs the estimate is brought to within 2 % of what the rail sensors measure. -/
def execCalenderCalibration (measured est : Nat) (s : State) : Host.Outcome State Fault Refusal :=
  lift s (fun b =>
    if !b.calOn || decide (b.now < b.cal.lastCalib + 2000) then b
    else
      let e := max (measured * 98 / 100) (min est (measured * 102 / 100))
      { b with cal := { b.cal with est := e, lastCalib := b.now } })

/-! ## Pre-load and fast loop (R94) -/

/-- Whether an admitted step is the one a command names. -/
def stepIs : StepName → StepKind → Bool
  | .wake f, .wake g => decide (f = g)
  | .train k, .train j => decide (k = j)
  | .window k, .window j _ => decide (k = j)
  | .group g, .group h => decide (g = h)
  | _, _ => false

/-- Power of the pre-loads admitted up to a step, its own included. -/
def preloadUpTo (n : StepName) : List CalStep → Nat
  | [] => 0
  | s :: l =>
    let p := match s.phase with | .preload => s.hold | .loop _ => 0
    if stepIs n s.kind then p else p + preloadUpTo n l

/-- Power that the loops in progress still hold in ballast. -/
def loopHold (l : List CalStep) : Nat := sumNat (l.map (fun s => match s.phase with | .loop _ => s.hold | .preload => 0))

/-- What a step's start does: gates begin to close, training begins, a window opens. A test group starts by SCREEN_GROUP_START. -/
def Block.startStep (b : Block) : StepKind → Block
  | .wake f => { b with start := { b.start with waking := some (f, b.now) } }
  | .train k => { (b.modEave k (fun e => { e with start := true, resetN := true })) with start := { b.start with training := b.start.training ++ [(k, b.now)] } }
  | .window k p => b.modEave k (fun e => { e with test := some (p, b.now), testTodo := e.testTodo.drop 1, idleAt := b.now, selfRefresh := false })
  | .group _ => b

/-- PRELOAD_DONE (R94): the ballast held for steps has reached this step's declared power, that of the steps before it apart; the step starts and the fast loop closes on its field. -/
def execPreloadDone (n : StepName) (s : State) : Host.Outcome State Fault Refusal :=
  lift s (fun b =>
    match b.cal.steps.find? (fun x => stepIs n x.kind && decide (x.phase = .preload)) with
    | none => b
    | some x =>
      if b.cal.held < loopHold b.cal.steps + preloadUpTo n b.cal.steps then b
      else
        let close (y : CalStep) : CalStep := if y.kind = x.kind then { y with phase := .loop b.now } else y
        let b1 : Block := { b with cal := { b.cal with steps := b.cal.steps.map close } }
        b1.startStep x.kind)

/-- A group's test has not started yet, so its loop goes on. -/
def Block.groupPending (b : Block) : StepKind → Bool
  | .group g => (match b.group g with | some (.admitted _) => true | _ => false)
  | _ => false

/-- FAST_LOOP_END (R94): after 200 CK_MGMT cycles the ballast left in place fades through the pseudocode. -/
def execFastLoopEnd (n : StepName) (s : State) : Host.Outcome State Fault Refusal :=
  lift s (fun b =>
    let done (x : CalStep) : Bool := stepIs n x.kind && !b.groupPending x.kind &&
      (match x.phase with | .loop t0 => decide (t0 + 200 ≤ b.now) | .preload => false)
    { b with cal := { b.cal with steps := b.cal.steps.filter (fun x => !done x) } })

/-! ## Temperature (R104 to R106) -/

/-- Sensors in service that read a temperature or more, in 1/16 °C. -/
def Block.sensorsAbove (b : Block) (temps : List (BitVec 12)) (x : Int) : List Nat :=
  b.sensors.filter (fun i => decide (x ≤ tempOf (temps.getD i 0#12)))

/-- THERMAL_SAMPLE (R105, R106): the ceiling is set at 100.0 °C and removed below 98.0 °C; 105.0 °C on two successive samples of a sensor is a thermal trip. -/
def execThermalSample (temps : List (BitVec 12)) (s : State) : Host.Outcome State Fault Refusal :=
  lift s (fun b =>
    if !b.pins.pwrGood || decide (b.now < b.cal.lastSample + 2000) then b
    else
      let temps := (List.range 64).map (fun i => temps.getD i 0#12)
      let hot := b.sensorsAbove temps 1680
      let b1 : Block := { b with cal := { b.cal with temps := temps, hot := hot, hottest := hottestOf temps b.sensors, sensIn := b.sensors, lastSample := b.now } }
      let b2 : Block := match b1.cal.ceiling with
        | none => if (b1.sensorsAbove temps 1600).isEmpty then b1
                  else ({ b1 with cal := { b1.cal with ceiling := some b1.cal.gPrev } } : Block).setErrBit Map.calEvents 0
        | some _ => if (b1.sensorsAbove temps 1568).isEmpty then { b1 with cal := { b1.cal with ceiling := none } } else b1
      let b3 := if b2.cal.ceiling.isSome then b2.bump Map.thmThrottleCnt 1 else b2
      match hot.find? (fun i => b.cal.hot.contains i) with
      | some i => (({ b3 with pins := { b3.pins with thermTripN := false } } : Block).setErrBit Map.calEvents 1).fatal 2 i
      | none => b3)

end Sys2Proof.Machine
end

