-- ==== Sys2Proof/Machine/Trees.lean ====
section
/-! DEFINITION. Trees as the Rafter and the Mould's CHECK read them: the descriptor, nodes, key leaves and primitives, and the rules their records must keep (chapter 08). -/
namespace Sys2Proof.Machine

/-! ## The tree descriptor (R228) -/

structure TreeDesc where
  kind : Nat
  depth : Nat
  nodes : Nat
  items : Nat
  keys : Nat
  nodeAddr : Nat
  itemAddr : Nat
  /-- Magic and rsvd fields are as the table gives them. -/
  fieldsOk : Bool
  deriving DecidableEq, Repr

def parseTree (l : List Byte) : TreeDesc :=
  let w (i : Nat) : Word := wordAt l i
  { kind := wfield (w 0) 16 4, depth := wfield (w 0) 20 5, nodes := (w 1).toNat, items := (w 2).toNat, keys := (w 3).toNat,
    nodeAddr := (w 4).toNat + 2 ^ 32 * wfield (w 5) 0 16, itemAddr := (w 6).toNat + 2 ^ 32 * wfield (w 7) 0 16,
    fieldsOk := decide (wfield (w 0) 0 16 = 0x5452 ∧ wfield (w 0) 25 7 = 0 ∧ wfield (w 5) 16 16 = 0 ∧ wfield (w 7) 16 16 = 0) &&
      (List.range 8).all (fun i => w (8 + i) = 0#32) }

/-- The rules of a descriptor for the kind a station accepts (R228, table "tree descriptor"). -/
def TreeDesc.ok (d : TreeDesc) (kind : Nat) : Bool :=
  d.fieldsOk && decide (d.kind = kind ∧ 1 ≤ d.depth ∧ d.depth ≤ 16 ∧ 1 ≤ d.nodes ∧ 1 ≤ d.items) &&
  decide (d.nodeAddr % 64 = 0 ∧ d.itemAddr % 64 = 0) &&
  (if kind = 0 then decide (d.keys = 0) else decide (d.items ≤ d.keys ∧ d.keys ≤ 64 * d.items))

/-- Sizes of nodes, and of leaf and primitive records. -/
def nodeSize (kind : Nat) : Nat := if kind = 0 then 128 else if kind = 1 then 256 else 384
def itemSize (kind : Nat) : Nat := if kind = 0 then 64 else if kind = 1 then 768 else 1280
/-- Dimensions of a kind. -/
def kindDims (kind : Nat) : Nat := if kind = 0 then 3 else if kind = 1 then 8 else 16

/-! ## Nodes -/

/-- A child of a node: its index among the eight, a key leaf or a node with its record index, or a primitive range; its box codes; BOUND: keys and residual. -/
structure Child where
  i : Nat
  leaf : Bool
  /-- Record index of a node or key leaf; first primitive of a range. -/
  ref : Nat
  /-- SPACE leaf: primitives and their kind. -/
  count : Nat
  pkind : Nat
  lo : List Nat
  hi : List Nat
  keys : Nat
  rho : Nat
  deriving DecidableEq, Repr

/-- A node as its rules read it. -/
structure Node where
  origin : List Num
  step : List Nat
  children : List Child
  deriving DecidableEq, Repr

def byteAt (l : List Byte) (i : Nat) : Nat := (l.getD i 0#8).toNat
def halfAt (l : List Byte) (i : Nat) : Nat := byteAt l i + 256 * byteAt l (i + 1)
def allZero (l : List Byte) (lo hi : Nat) : Bool := ((l.drop lo).take (hi - lo)).all (fun x => x = 0#8)

/-- Places of a node's parts by kind: origin, step, lo and hi codes of child `i` in dimension `d`. -/
def originAt (kind : Nat) (l : List Byte) (d : Nat) : Num :=
  if kind = 0 then f32 (wordAt l (1 + d)).toNat else Fmt.bf16.decode (halfAt l (64 + 2 * d))
def stepAt (kind : Nat) (l : List Byte) (d : Nat) : Nat :=
  byteAt l (if kind = 0 then 16 + d else if kind = 1 then 80 + d else 96 + d)
def loAt (kind : Nat) (l : List Byte) (i d : Nat) : Nat :=
  byteAt l (if kind = 0 then 32 + 8 * d + i else if kind = 1 then 88 + 8 * i + d else 112 + 16 * i + d)
def hiAt (kind : Nat) (l : List Byte) (i d : Nat) : Nat :=
  byteAt l (if kind = 0 then 56 + 8 * d + i else if kind = 1 then 152 + 8 * i + d else 240 + 16 * i + d)

/-- Residual of child `i`, a BF16 code. -/
def rhoAt (l : List Byte) (i : Nat) : Nat := halfAt l (48 + 2 * i)

/-- Number of children below index `i` that are nodes, or leaves, and the primitives of the leaf ranges below it (R233). -/
def countBelow (mask i : Nat) : Nat := (List.range i).countP (fun j => bitAt mask j)

/-- A residual is finite and not negative (R231). -/
def rhoOk (code : Nat) : Bool :=
  match Fmt.bf16.decode code with
  | .fin s m _ => !s || decide (m = 0)
  | _ => false

/-- Node `idx` at a level of a tree, or none when a rule of R231 fails. -/
def parseNode (t : TreeDesc) (level : Nat) (l : List Byte) : Option Node :=
  let k := t.kind
  let w0 := wordAt l 0
  let valid := wfield w0 4 8
  let leaf := wfield w0 12 8
  let dims := kindDims k
  let ds := List.range dims
  let inner (i : Nat) : Bool := bitAt valid i && !bitAt leaf i
  let innerMask := valid - (valid &&& leaf)
  let childBase := (wordAt l (if k = 0 then 5 else 1)).toNat
  let leafBase := (wordAt l (if k = 0 then 6 else 2)).toNat
  let pcount (i : Nat) : Nat := wfield (wordAt l 7) (4 * i) 4
  let pk (i : Nat) : Nat := wfield (wordAt l 20) (2 * i) 2
  let primsBelow (i : Nat) : Nat := sumNat (((List.range i).filter (fun j => bitAt valid j && bitAt leaf j)).map pcount)
  let mk (i : Nat) : Child :=
    { i := i, leaf := bitAt leaf i,
      ref := if inner i then childBase + countBelow innerMask i
             else if k = 0 then leafBase + primsBelow i else leafBase + countBelow (valid &&& leaf) i,
      count := if k = 0 ∧ inner i = false then pcount i else 0, pkind := if k = 0 ∧ inner i = false then pk i else 0,
      lo := ds.map (fun d => loAt k l i d), hi := ds.map (fun d => hiAt k l i d),
      keys := if k = 0 then 0 else (wordAt l (4 + i)).toNat, rho := if k = 0 then 0 else rhoAt l i }
  let childOk (i : Nat) : Bool :=
    let c := mk i
    let boxOk := (List.zipWith (fun a z => decide (a ≤ z)) c.lo c.hi).all (fun x => x)
    if bitAt valid i then
      boxOk && (k = 0 || rhoOk c.rho) &&
      (if inner i then decide (c.ref < t.nodes) && decide (level < t.depth) && decide (k ≠ 0 ∨ pcount i = 0)
       else if k = 0 then decide (1 ≤ pcount i) && decide (c.ref + pcount i ≤ t.items) && decide (pk i ≠ 3)
       else decide (c.ref < t.items))
    else
      c.lo.all (fun x => x = 0) && c.hi.all (fun x => x = 0) &&
      (if k = 0 then decide (pcount i = 0 ∧ pk i = 0) else decide (c.keys = 0 ∧ c.rho = 0))
  let rsvd : Bool :=
    decide (wfield w0 20 12 = 0) &&
    (if k = 0 then allZero l 19 20 && allZero l 82 128 else decide (wordAt l 3 = 0#32) && (if k = 1 then allZero l 216 256 else allZero l 368 384))
  let origins := ds.map (fun d => originAt k l d)
  let steps := ds.map (fun d => stepAt k l d)
  if decide (wfield w0 0 4 = k + 1) && decide (valid ≠ 0) && decide (leaf &&& valid = leaf) && rsvd &&
      origins.all Num.isFin && steps.all (fun e => e ≠ 0xFF) && (List.range 8).all childOk then
    some { origin := origins, step := steps, children := ((List.range 8).filter (fun i => bitAt valid i)).map mk }
  else none

/-! ## Key leaves -/

structure KeyLeaf where
  nkeys : Nat
  keyPos : Nat
  origin : List Num
  step : List Nat
  /-- Cell codes and residual of each key. -/
  keys : List (List Nat × Nat)
  deriving DecidableEq, Repr

/-- Leaf `idx`, or none when a rule of R231 fails. -/
def parseLeaf (t : TreeDesc) (idx : Nat) (l : List Byte) : Option KeyLeaf :=
  let k := t.kind
  let dims := kindDims k
  let w (i : Nat) : Word := wordAt l i
  let n := wfield (w 0) 4 7
  let origins := (List.range dims).map (fun d => Fmt.bf16.decode (halfAt l (32 + 2 * d)))
  let steps := (List.range dims).map (fun d => byteAt l (64 + d))
  let key (j : Nat) : List Nat × Nat := ((List.range dims).map (fun d => byteAt l (128 + j * dims + d)), halfAt l (128 + 64 * dims + 2 * j))
  let rsvd := decide (wfield (w 0) 11 21 = 0 ∧ wfield (w 3) 16 16 = 0 ∧ wfield (w 5) 16 16 = 0 ∧ w 7 = 0#32) && allZero l 80 128 &&
    (if k = 1 then allZero l 48 64 && allZero l 72 80 else true)
  let keys := (List.range n).map key
  if decide (wfield (w 0) 0 4 = k + 4) && decide (1 ≤ n ∧ n ≤ 64) && decide ((w 1).toNat = idx) && rsvd && origins.all Num.isFin &&
      steps.all (fun e => e ≠ 0xFF) && keys.all (fun x => rhoOk x.2) then
    some { nkeys := n, keyPos := (w 6).toNat, origin := origins, step := steps, keys := keys }
  else none

/-! ## Primitives -/

/-- A primitive record: its kind, no_cull, and the FP32 values that its kind reads (R233). -/
structure Prim where
  kind : Nat
  noCull : Bool
  vals : List Num
  deriving DecidableEq, Repr

/-- A primitive of the kind that its range gives, or none when a rule fails. -/
def parsePrim (pkind : Nat) (l : List Byte) : Option Prim :=
  let w (i : Nat) : Word := wordAt l i
  let vals := (List.range (if pkind = 0 then 9 else if pkind = 1 then 10 else 6)).map (fun i => f32 (w (2 + i)).toNat)
  let rsvd :=
    if pkind = 0 then decide (wfield (w 0) 3 29 = 0) && allZero l 44 64
    else decide (wfield (w 0) 2 30 = 0) && (pkind ≠ 1 || allZero l 48 64)
  let cut := match vals.getD 9 Num.zero with | .fin s m _ => !s && decide (m ≠ 0) | _ => false
  if decide (wfield (w 0) 0 2 = pkind) && rsvd && vals.all Num.isFin && (pkind ≠ 1 || cut) then
    some { kind := pkind, noCull := decide (pkind = 0) && wbit (w 0) 2, vals := vals }
  else none

/-! ## Boxes (R229) -/

/-- o + code × 2^(e − 127), rounded outward; a lower end that cancels to zero is −0 (R201, R229). -/
def boxEnd (up : Bool) (o : Num) (e code : Nat) : Num := dirAdd up o (.fin false code ((e : Int) - 127))

/-- The interval of codes lo and hi in a dimension. -/
def boxOf (n : List Num) (st : List Nat) (lo hi : List Nat) : List (Num × Num) :=
  (List.range n.length).map (fun d =>
    let o := n.getD d Num.zero
    let e := st.getD d 0
    (boxEnd false o e (lo.getD d 0), boxEnd true o e (hi.getD d 0)))

end Sys2Proof.Machine
end

