-- ==== Sys2Proof/Machine/Mould.lean ====
section
/-! DEFINITION. MOULD stations: projection, Morton codes, the binary tree and its collapse, quantization, refit and check (chapter 09). -/
namespace Sys2Proof.Machine

/-! ## Exact values -/

/-- A finite FP32 or BF16 value in units of 2^−149. -/
def Num.fix : Num → Int
  | .fin s m e => signedAt s m e (-149)
  | _ => 0

/-- The number that is so many units of 2^−149. -/
def fixNum (v : Int) : Num := .fin (decide (v < 0)) v.natAbs (-149)

/-- A number rounded to BF16 in a direction, which holds through overflow and flush (R230). -/
def dirBf16 (up : Bool) (x : Num) : Num :=
  match x with
  | .fin s m e =>
    if m = 0 then x
    else
      let away := if up then !s else s
      let r := roundMag 7 s (if up then .up else .down) m e
      let top : Int := r.2 + (r.1.log2 : Int)
      if 128 ≤ top then (if away then .inf s else .fin s 255 120)
      else if top < -126 then (if away then .fin s 1 (-126) else .fin s 0 0)
      else .fin s r.1 r.2
  | y => y

def bf16Code (x : Num) : Nat := (Fmt.bf16.encode false .rne x).code

/-- A fused multiply–add rounded once to nearest even, and one rounded up (R262). -/
def fma (x y z : Num) : Num := ((x.mul y).add z).r32
def fmaUp (x y z : Num) : Num := dirF32 true ((x.mul y).add z)

/-! ## Projection (R262) -/

/-- Projected point of a key by the rows of P. -/
def projectKey (p : List (List Num)) (k : List Num) : List Num :=
  p.map (fun row => (List.zip row k).foldl (fun a x => fma x.1 x.2 a) Num.zero)

/-- The residual norm of a key: an FP32 value rounded up at each step. -/
def residual (p : List (List Num)) (k kh : List Num) : Num :=
  let back (j : Nat) : Num := (List.zip p kh).foldl (fun a x => fma (x.1.getD j Num.zero) x.2 a) Num.zero
  let sn := (List.range k.length).foldl (fun (s : Num × Num) j =>
    let kj := k.getD j Num.zero
    let r := (kj.sub (back j)).r32
    (fmaUp r r s.1, fmaUp kj kj s.2)) (Num.zero, Num.zero)
  dirAdd true (dirSqrt true sn.1) (dirMul true (.fin false 1 (-8)) (dirSqrt true sn.2))

/-- A key as the Mould keeps it: projected point and BF16 residual. -/
structure PKey where
  kh : List Num
  rho : Num
  deriving DecidableEq, Repr

/-- Elements of a row of `n` values in a format. -/
def rowNums (f : Fmt) (n : Nat) (l : List Byte) : List Num :=
  (List.range n).map (fun i => f.decode (leNat (sliceBytes l (f.bytes * i) f.bytes)))

/-- A key projected; none when an element, the point or the residual is not finite (R264). -/
def pkeyOf (p : List (List Num)) (k : List Num) : Option PKey :=
  let kh := projectKey p k
  let rho := dirBf16 true (residual p k kh)
  if k.all Num.isFin && kh.all Num.isFin && rho.isFin then some { kh := kh, rho := rho } else none

/-! ## Jobs (table "build job", R259, R260) -/

structure BuildJob where
  op : Nat
  kind : Nat
  leafSize : Nat
  perm : Bool
  count : Nat
  src : Nat
  vsrc : Nat
  n : Nat
  kfmt : Nat
  vstride : Nat
  posBase : Nat
  proj : Nat
  region : Nat
  rlen : Nat
  deriving DecidableEq, Repr

/-- A job of its table, or none (R259). -/
def parseJob (l : List Byte) : Option BuildJob :=
  let w (i : Nat) : Word := wordAt l i
  let ad (i : Nat) : Nat := (w i).toNat + 2 ^ 32 * wfield (w (i + 1)) 0 16
  let j : BuildJob := { op := wfield (w 0) 0 2, kind := wfield (w 0) 2 2, leafSize := wfield (w 0) 4 4, perm := wbit (w 0) 8, count := (w 1).toNat,
                        src := ad 2, vsrc := ad 4, n := wfield (w 6) 0 9, kfmt := wfield (w 6) 16 8, vstride := (w 7).toNat, posBase := (w 8).toNat,
                        proj := ad 9, region := ad 11, rlen := (w 13).toNat }
  let rsvd := decide (wfield (w 0) 9 23 = 0 ∧ wfield (w 3) 16 16 = 0 ∧ wfield (w 5) 16 16 = 0 ∧ wfield (w 10) 16 16 = 0 ∧ wfield (w 12) 16 16 = 0) &&
    decide (wfield (w 6) 9 7 = 0 ∧ wfield (w 6) 24 8 = 0 ∧ w 14 = 0#32 ∧ w 15 = 0#32)
  let bound := decide (j.kind ≠ 0)
  let boundBuild := bound && decide (j.op = 0)
  let ok := decide (j.op ≠ 3 ∧ j.kind ≠ 3 ∧ 1 ≤ j.count ∧ j.count ≤ 4194304 ∧ j.region % 64 = 0) && rsvd &&
    (if bound then decide (j.leafSize = 0 ∧ 64 ≤ j.n ∧ j.n ≤ 256 ∧ j.n % 16 = 0 ∧ (j.kfmt = 1 ∨ j.kfmt = 2 ∨ j.kfmt = 3) ∧ j.proj % 64 = 0)
     else decide (1 ≤ j.leafSize ∧ j.n = 0 ∧ j.kfmt = 0 ∧ j.proj = 0)) &&
    (!j.perm || (!bound && decide (j.op = 0))) &&
    (if boundBuild then decide (1 ≤ j.vstride ∧ j.vstride ≤ 65536) else decide (j.vsrc = 0 ∧ j.vstride = 0 ∧ j.posBase = 0)) &&
    (!(bound && decide (j.op = 1)) || decide (j.src = 0))
  if ok then some j else none

/-- Items of a job's tree. -/
def BuildJob.items (j : BuildJob) : Nat := if j.kind = 0 then j.count else ceilDiv j.count 64
def BuildJob.esize (j : BuildJob) : Nat := elemBytes j.kfmt
def BuildJob.keyBytes (j : BuildJob) : Nat := j.n * j.esize
/-- Offset A of the item array, and of what follows it (table "tree region layout"). -/
def BuildJob.itemOff (j : BuildJob) : Nat := 64 + nodeSize j.kind * max 1 (j.items - 1)
def BuildJob.tailOff (j : BuildJob) : Nat := j.itemOff + itemSize j.kind * j.items
/-- Bytes that rlen must reach (R260). -/
def BuildJob.need (j : BuildJob) : Nat :=
  j.tailOff + if j.kind ≠ 0 then itemSize j.kind * j.items else if j.perm then ceilDiv (4 * j.items) 64 * 64 else 0

/-- Ranges that objects of the tenant must cover (R259). -/
def BuildJob.ranges (j : BuildJob) : List (Nat × Nat) :=
  (if j.kind = 0 then [(j.src, 64 * j.count)] else if j.op = 1 then [] else [(j.src, j.count * j.keyBytes)]) ++
  (if j.kind ≠ 0 ∧ j.op = 0 then [(j.vsrc, j.count * j.vstride)] else []) ++
  (if j.kind ≠ 0 then [(j.proj, kindDims j.kind * j.n * 4)] else []) ++ [(j.region, j.rlen)]

/-! ## How a job ends -/

/-- A job that does not succeed: a BUILD kill, memory's status, or memory that cannot answer yet. -/
inductive JobStop where
  | kill (reason index : Nat)
  | mem (status : Nat)
  | wait
  deriving DecidableEq, Repr

/-- A job that succeeds: its descriptor, what it writes in order, what it counts, and the ranges it read. -/
structure JobOut where
  desc : List Byte
  writes : List (Nat × List Byte)
  keys : Nat
  prims : Nat
  nodes : Nat
  reads : List (Nat × Nat)
  deriving DecidableEq, Repr

/-- Bytes of a range, or the job stops. -/
def Reader.bytes (rd : Nat → Nat → Option (List Byte × Nat)) (addr len : Nat) : Except JobStop (List Byte) :=
  match rd addr len with
  | none => .error .wait
  | some (l, st) => if st = stOk then .ok l else .error (.mem st)

def jobGuard (ok : Bool) (e : JobStop) : Except JobStop Unit := if ok then .ok () else .error e

/-- The first `some` of a list stops the job at that index; else the values. -/
def allOr {α : Type} (reason : Nat) : List (Nat × Option α) → List α → Except JobStop (List α)
  | [], acc => .ok acc.reverse
  | (_, some x) :: l, acc => allOr reason l (x :: acc)
  | (i, none) :: _, _ => .error (.kill reason i)

/-- The projection matrix, checked before any key (R264). -/
def readProj (rd : Nat → Nat → Option (List Byte × Nat)) (j : BuildJob) : Except JobStop (List (List Num)) := do
  let l ← Reader.bytes rd j.proj (kindDims j.kind * j.n * 4)
  let p := (List.range (kindDims j.kind)).map (fun d => rowNums .fp32 j.n (l.drop (4 * j.n * d)))
  jobGuard (p.all (fun r => r.all Num.isFin)) (.kill 1 0)
  return p

/-- Format of a job's keys. -/
def BuildJob.fmt (j : BuildJob) : Fmt := (fmtOf j.kfmt).getD .fp32

/-- Keys of a block read and projected; `idx` is the source index of the first. -/
def readKeys (rd : Nat → Nat → Option (List Byte × Nat)) (j : BuildJob) (p : List (List Num)) (addr count idx : Nat) : Except JobStop (List PKey) := do
  let l ← Reader.bytes rd addr (count * j.keyBytes)
  allOr 1 ((List.range count).map (fun i => (idx + i, pkeyOf p (rowNums j.fmt j.n (l.drop (j.keyBytes * i)))))) []

/-! ## Items (R261, R263) -/

/-- An item or a set of items: how many, keys, largest residual, exact box, lowest source index, and the primitive kind when it is one kind. -/
structure BItem where
  n : Nat
  keys : Nat
  rho : Num
  lo : List Int
  hi : List Int
  src : Nat
  kind : Option Nat
  deriving DecidableEq, Repr

def BItem.union (x y : BItem) : BItem :=
  { n := x.n + y.n, keys := x.keys + y.keys, rho := Num.max x.rho y.rho, lo := List.zipWith min x.lo y.lo, hi := List.zipWith max x.hi y.hi,
    src := min x.src y.src, kind := if x.kind = y.kind then x.kind else none }

def unionAll : List BItem → Option BItem
  | [] => none
  | x :: l => some (l.foldl BItem.union x)

/-- The item of a key block. -/
def blockItem (src : Nat) (ks : List PKey) : BItem :=
  let each (k : PKey) : BItem := { n := 1, keys := 1, rho := k.rho, lo := k.kh.map Num.fix, hi := k.kh.map Num.fix, src := src, kind := some 0 }
  match unionAll (ks.map each) with
  | some x => { x with n := 1 }
  | none => { n := 1, keys := 0, rho := Num.zero, lo := [], hi := [], src := src, kind := some 0 }

/-- The half widths of an ellipsoid's box, none when it is not bounded (R263, R264). -/
def ellipsoidHalf (v : List Num) : Option (List Num) :=
  let m (i : Nat) : Num := v.getD (3 + i) Num.zero
  let m00 := m 0
  let m11 := m 1
  let m22 := m 2
  let m01 := m 3
  let m02 := m 4
  let m12 := m 5
  let mulR (x y : Num) : Num := (x.mul y).r32
  let subR (x y : Num) : Num := (x.sub y).r32
  let addR (x y : Num) : Num := (x.add y).r32
  let axx := subR (mulR m11 m22) (mulR m12 m12)
  let ayy := subR (mulR m00 m22) (mulR m02 m02)
  let azz := subR (mulR m00 m11) (mulR m01 m01)
  let det := addR (addR (mulR m00 axx) (mulR m01 (subR (mulR m02 m12) (mulR m01 m22)))) (mulR m02 (subR (mulR m01 m12) (mulR m02 m11)))
  let one : Num := .fin false 257 (-8)
  let half (a : Num) : Num :=
    dirMul true (dirSqrt true (dirF32 true ((dirMul true (v.getD 9 Num.zero) a).divAt 60 det))) one
  if det.le Num.zero || [axx, ayy, azz].any (fun a => a.lt Num.zero) then none else some [half axx, half ayy, half azz]

/-- The item of a primitive record, none under R264. -/
def primItem (src : Nat) (l : List Byte) : Option BItem :=
  let kind := wfield (wordAt l 0) 0 2
  let vals := (List.range (if kind = 0 then 9 else if kind = 1 then 10 else 6)).map (fun i => f32 (wordAt l (2 + i)).toNat)
  let g (i : Nat) : Num := vals.getD i Num.zero
  let box : Option (List Num × List Num) :=
    if kind = 0 then
      some ((List.range 3).map (fun a => Num.min (Num.min (g a) (g (3 + a))) (g (6 + a))), (List.range 3).map (fun a => Num.max (Num.max (g a) (g (3 + a))) (g (6 + a))))
    else if kind = 1 then
      (ellipsoidHalf vals).map (fun h => ((List.range 3).map (fun a => dirSub false (g a) (h.getD a Num.zero)), (List.range 3).map (fun a => dirAdd true (g a) (h.getD a Num.zero))))
    else if kind = 2 then some (vals.take 3, vals.drop 3)
    else none
  match box with
  | some (lo, hi) =>
    if vals.all Num.isFin && lo.all Num.isFin && hi.all Num.isFin then
      some { n := 1, keys := 0, rho := Num.zero, lo := lo.map Num.fix, hi := hi.map Num.fix, src := src, kind := some kind }
    else none
  | none => none

/-! ## Morton codes and sort keys (R265, R266) -/

/-- Grid value of an item in a dimension; the values are in units of 2^−149. -/
def gridOf (lo hi g h : Int) : Nat := if h = g then 0 else min 1023 (Int.toNat (1024 * (lo + hi - 2 * g) / (2 * (h - g))))

/-- The 30-bit code: bit planes from the top. -/
def morton (q : List Nat) : Nat :=
  let planes := (List.range 10).flatMap (fun p => q.map (fun v => v / 2 ^ (9 - p) % 2))
  (planes.take 30).foldl (fun c x => 2 * c + x) 0

/-- The sort key of each item. -/
def sortKeys (items : List BItem) : List (Nat × BItem) :=
  match unionAll items with
  | none => []
  | some u => items.map (fun x =>
      let q := (List.range u.lo.length).map (fun d => gridOf (x.lo.getD d 0) (x.hi.getD d 0) (u.lo.getD d 0) (u.hi.getD d 0))
      (x.kind.getD 0 * 2 ^ 62 + morton q * 2 ^ 32 + x.src, x))

/-! ## The binary tree (R267) -/

/-- Leading bits in which two 64-bit keys agree. -/
def delta (x y : Nat) : Nat := if x = y then 64 else 63 - (x ^^^ y).log2

inductive BTree where
  | tip (pos : Nat) (x : BItem)
  | fork (x : BItem) (l r : BTree)
  deriving DecidableEq, Repr

def BTree.item : BTree → BItem
  | .tip _ x => x
  | .fork x _ _ => x

/-- The binary tree over sorted items from position `pos`; `fuel` is at least their number. -/
def btree : Nat → Nat → List (Nat × BItem) → Option BTree
  | 0, _, _ => none
  | _ + 1, _, [] => none
  | _ + 1, pos, [x] => some (.tip pos x.2)
  | fuel + 1, pos, x :: y :: l =>
    let all := x :: y :: l
    let p := delta x.1 (all.getLastD x).1
    let left := all.takeWhile (fun e => decide (p < delta x.1 e.1))
    match btree fuel pos left, btree fuel (pos + left.length) (all.drop left.length) with
    | some a, some c => some (.fork (a.item.union c.item) a c)
    | _, _ => none

/-! ## Collapse (R268, R269) -/

/-- A leaf entry: a single item, and in SPACE a node of at most leaf_size primitives of one kind. -/
def BTree.isLeaf (space : Bool) (leafSize : Nat) : BTree → Bool
  | .tip _ _ => true
  | .fork x _ _ => space && decide (x.n ≤ leafSize) && x.kind.isSome

/-- The tree to expand: the expandable one of most items, the lowest on a tie. -/
def widest (space : Bool) (leafSize : Nat) (l : List BTree) : Option Nat :=
  let cand := (List.range l.length).filter (fun i => (l[i]?).any (fun t => !t.isLeaf space leafSize))
  let size (i : Nat) : Nat := ((l[i]?).map (fun t => t.item.n)).getD 0
  cand.foldl (fun m i => match m with | none => some i | some k => if size k < size i then some i else some k) none

/-- Children are expanded in place until there are eight or none can be. -/
def gather (space : Bool) (leafSize : Nat) : Nat → List BTree → List BTree
  | 0, l => l
  | fuel + 1, l =>
    if 8 ≤ l.length then l
    else match widest space leafSize l with
      | none => l
      | some i =>
        match l[i]? with
        | some (.fork _ a c) => gather space leafSize fuel (l.take i ++ [a, c] ++ l.drop (i + 1))
        | _ => l

/-- The children of the wide node made from a binary node. -/
def wideChildren (space : Bool) (leafSize : Nat) (t : BTree) : List BTree :=
  match t with
  | .tip _ _ => [t]
  | .fork _ a c => if t.isLeaf space leafSize then [t] else gather space leafSize 8 [a, c]

/-- The wide nodes of a level and of the levels below it, in order of index; none when a level would lie below level 16. -/
def wideLevels (space : Bool) (leafSize : Nat) : Nat → List BTree → Option (List (List (List BTree)))
  | _, [] => some []
  | 0, _ :: _ => none
  | n + 1, l =>
    let nodes := l.map (wideChildren space leafSize)
    (wideLevels space leafSize n (nodes.flatMap (fun c => c.filter (fun t => !t.isLeaf space leafSize)))).map (fun rest => nodes :: rest)

/-- Sorted positions below a binary node, in order. -/
def BTree.tips : BTree → List (Nat × BItem)
  | .tip p x => [(p, x)]
  | .fork _ a c => a.tips ++ c.tips

/-! ## Quantization (R270 to R272) -/

/-- The smallest step code whose `mult` steps reach a span, in units of 2^−149. -/
def stepCode (mult : Nat) (span : Int) : Nat :=
  ((List.range 254).find? (fun i => decide (span ≤ (mult * 2 ^ (i + 23) : Nat)))).elim 254 (fun i => i + 1)

/-- Steps from an origin, rounded down or up. -/
def stepsOf (up : Bool) (v : Int) (e : Nat) : Nat :=
  let s : Int := (2 ^ (e + 22) : Nat)
  Int.toNat (if up then -((-v) / s) else v / s)

/-- A child of a node to write. -/
structure ChildSpec where
  i : Nat
  leaf : Bool
  item : BItem
  deriving DecidableEq, Repr

/-- Writes bytes over a record of zeros. -/
def fillRecord (size : Nat) (parts : List (Nat × List Byte)) : List Byte :=
  parts.foldl (fun l p => overlay l p.1 p.2) (List.replicate size 0#8)

/-- A node record; none when an origin cannot be written finite (R264, R270, R272). -/
def nodeRecord (kind childBase leafBase : Nat) (cs : List ChildSpec) : Option (List Byte) :=
  match unionAll (cs.map (fun c => c.item)) with
  | none => none
  | some u =>
    let dims := List.range (kindDims kind)
    let org (d : Nat) : Num := let m := fixNum (u.lo.getD d 0); if kind = 0 then m else dirBf16 false m
    let oi (d : Nat) : Int := (org d).fix
    let e (d : Nat) : Nat := stepCode 255 (u.hi.getD d 0 - oi d)
    let lo (c : ChildSpec) (d : Nat) : Nat := stepsOf false (c.item.lo.getD d 0 - oi d) (e d)
    let hi (c : ChildSpec) (d : Nat) : Nat := stepsOf true (c.item.hi.getD d 0 - oi d) (e d)
    let valid := sumNat (cs.map (fun c => 2 ^ c.i))
    let leaf := sumNat ((cs.filter (fun c => c.leaf)).map (fun c => 2 ^ c.i))
    let w0 := kind + 1 + 16 * valid + 4096 * leaf
    let leaves := cs.filter (fun c => c.leaf)
    let parts : List (Nat × List Byte) :=
      if kind = 0 then
        [(0, leBytes 4 w0), (20, leBytes 4 childBase), (24, leBytes 4 leafBase), (28, leBytes 4 (sumNat (leaves.map (fun c => c.item.n * 16 ^ c.i)))),
         (80, leBytes 2 (sumNat (leaves.map (fun c => c.item.kind.getD 0 * 4 ^ c.i))))] ++
        dims.flatMap (fun d => [(4 + 4 * d, leBytes 4 (f32code (org d))), (16 + d, leBytes 1 (e d))]) ++
        cs.flatMap (fun c => dims.flatMap (fun d => [(32 + 8 * d + c.i, leBytes 1 (lo c d)), (56 + 8 * d + c.i, leBytes 1 (hi c d))]))
      else
        let dd := kindDims kind
        let stepBase := if kind = 1 then 80 else 96
        let loBase := if kind = 1 then 88 else 112
        let hiBase := if kind = 1 then 152 else 240
        [(0, leBytes 4 w0), (4, leBytes 4 childBase), (8, leBytes 4 leafBase)] ++
        dims.flatMap (fun d => [(64 + 2 * d, leBytes 2 (bf16Code (org d))), (stepBase + d, leBytes 1 (e d))]) ++
        cs.flatMap (fun c => [(16 + 4 * c.i, leBytes 4 c.item.keys), (48 + 2 * c.i, leBytes 2 (bf16Code c.item.rho))] ++
          dims.flatMap (fun d => [(loBase + dd * c.i + d, leBytes 1 (lo c d)), (hiBase + dd * c.i + d, leBytes 1 (hi c d))]))
    if dims.all (fun d => (org d).isFin) then some (fillRecord (nodeSize kind) parts) else none

/-- A key leaf record; none when an origin cannot be written finite (R261, R264, R271). -/
def leafRecord (kind leafNo kaddr vaddr keyPos : Nat) (ks : List PKey) : Option (List Byte) :=
  let it := blockItem 0 ks
  let dims := List.range (kindDims kind)
  let dd := kindDims kind
  let org (d : Nat) : Num := dirBf16 false (fixNum (it.lo.getD d 0))
  let oi (d : Nat) : Int := (org d).fix
  let e (d : Nat) : Nat := stepCode 256 (it.hi.getD d 0 - oi d)
  let ad (x : Nat) : List Byte := leBytes 6 x
  let key (k : Nat) : PKey := ks.getD k { kh := [], rho := Num.zero }
  let parts : List (Nat × List Byte) :=
    [(0, leBytes 4 (kind + 4 + 16 * ks.length)), (4, leBytes 4 leafNo), (8, ad kaddr), (16, ad vaddr), (24, leBytes 4 keyPos)] ++
    dims.flatMap (fun d => [(32 + 2 * d, leBytes 2 (bf16Code (org d))), (64 + d, leBytes 1 (e d))]) ++
    (List.range ks.length).flatMap (fun k => (128 + 64 * dd + 2 * k, leBytes 2 (bf16Code (key k).rho)) ::
      dims.map (fun d => (128 + k * dd + d, leBytes 1 (min 255 (stepsOf false (((key k).kh.getD d Num.zero).fix - oi d) (e d))))))
  if dims.all (fun d => (org d).isFin) then some (fillRecord (itemSize kind) parts) else none

/-- The descriptor of a tree (R273, table "tree descriptor"). -/
def descRecord (j : BuildJob) (depth nodes : Nat) : List Byte :=
  fillRecord 64 [(0, leBytes 4 (0x5452 + 65536 * j.kind + 2 ^ 20 * depth)), (4, leBytes 4 nodes), (8, leBytes 4 j.items),
    (12, leBytes 4 (if j.kind = 0 then 0 else j.count)), (16, leBytes 6 (j.region + 64)), (24, leBytes 6 (j.region + j.itemOff))]

/-! ## BUILD -/

/-- What numbering assigns to the wide nodes: for each the index of its first internal child and of its first leaf item (R269, R272). -/
def numberNodes (space : Bool) (leafSize : Nat) : List (List BTree) → Nat → Nat → List (Nat × Nat × List BTree)
  | [], _, _ => []
  | c :: l, child, leaf =>
    let inner := c.countP (fun t => !t.isLeaf space leafSize)
    let items := sumNat ((c.filter (fun t => t.isLeaf space leafSize)).map (fun t => t.item.n))
    ((if inner = 0 then 0 else child), (if items = 0 then 0 else leaf), c) :: numberNodes space leafSize l (child + inner) (leaf + items)

/-- The items of a SPACE job's M primitive records, in source order (R263, R264). -/
def readPrims (j : BuildJob) (l : List Byte) : Except JobStop (List BItem) :=
  allOr 1 ((List.range j.count).map (fun i => (i, primItem i (sliceBytes l (64 * i) 64)))) []

/-- Items and what their records need: BOUND the projected keys of each block. -/
def readItems (rd : Nat → Nat → Option (List Byte × Nat)) (j : BuildJob) : Except JobStop (List BItem × List (List PKey) × List (List Byte)) := do
  if j.kind = 0 then
    let l ← Reader.bytes rd j.src (64 * j.count)
    let recs := (List.range j.count).map (fun i => sliceBytes l (64 * i) 64)
    let items ← readPrims j l
    return (items, [], recs)
  else
    let p ← readProj rd j
    let ks ← readKeys rd j p j.src j.count 0
    let blocks := chunk 64 (j.items + 1) ks
    return ((List.range j.items).map (fun i => blockItem i (blocks.getD i [])), blocks, [])

/-- A BUILD after the checks of its job (R261 to R273); `ordinal` names the job. -/
def buildTree (rd : Nat → Nat → Option (List Byte × Nat)) (j : BuildJob) (ordinal : Nat) (free : Nat) : Except JobStop JobOut := do
  let space := decide (j.kind = 0)
  let r ← readItems rd j
  let sorted := sortBy (fun (x y : Nat × BItem) => decide (x.1 ≤ y.1)) (sortKeys r.1)
  let blk (i : Nat) : List PKey := r.2.1.getD i []
  let leafOf (no src : Nat) : Option (List Byte) :=
    leafRecord j.kind no (j.src + 64 * src * j.keyBytes) (j.vsrc + 64 * src * j.vstride) ((j.posBase + 64 * src) % 2 ^ 32) (blk src)
  let _ ← (if space then .ok [] else allOr 1 ((List.range j.items).map (fun i => (64 * i, leafOf 0 i))) [])
  match btree (sorted.length + 1) 0 sorted with
  | none => .error (.kill 0 ordinal)
  | some t =>
    match wideLevels space j.leafSize 16 [t] with
    | none => .error (.kill 2 ordinal)
    | some levels =>
      let nodes := numberNodes space j.leafSize (levels.flatMap (fun l => l)) 1 0
      let specs (ch : List BTree) : List ChildSpec :=
        (List.range ch.length).filterMap (fun i => (ch[i]?).map (fun x => { i := i, leaf := x.isLeaf space j.leafSize, item := x.item }))
      let low (c : List BTree) : Nat := ((unionAll (c.map BTree.item)).map (fun u => u.src)).getD 0
      let recs ← allOr 1 (nodes.map (fun n => ((if space then low n.2.2 else 64 * low n.2.2), nodeRecord j.kind n.1 n.2.1 (specs n.2.2)))) []
      let order := nodes.flatMap (fun n => (n.2.2.filter (fun x => x.isLeaf space j.leafSize)).flatMap (fun x => x.tips.map (fun y => y.2.src)))
      let items := (List.range order.length).map (fun i =>
        let src := order.getD i 0
        if space then r.2.2.getD src [] else (leafOf i src).getD [])
      let tail : List (Nat × List Byte) :=
        if space then (if j.perm then [(j.region + j.tailOff, order.flatMap (fun s => leBytes 4 s))] else [])
        else [(j.region + j.tailOff, (List.range (itemSize j.kind * j.items / 4)).flatMap (fun i => leBytes 4 (Config.freeWord (free + i)).toNat))]
      let desc := descRecord j levels.length nodes.length
      return { desc := desc, keys := if space then 0 else j.count, prims := if space then j.count else 0, nodes := nodes.length,
               reads := j.ranges.dropLast,
               writes := tail ++ [(j.region + 64, recs.flatMap (fun x => x)), (j.region + j.itemOff, items.flatMap (fun x => x)), (j.region, desc)] }

/-! ## REFIT (R274, R275) -/

/-- The descriptor of the region against the job (R274, R276). -/
def matchDesc (j : BuildJob) (d : TreeDesc) : Bool :=
  d.ok j.kind && decide (d.items = j.items) && decide (j.kind = 0 ∨ d.keys = j.count)

/-- The union of the items below a node, by node index; `fuel` is at least the depth. -/
def belowNode (t : TreeDesc) (nodes : List (Option Node)) (items : List BItem) : Nat → Nat → Option BItem
  | 0, _ => none
  | fuel + 1, i =>
    match nodes.getD i none with
    | none => none
    | some n =>
      let parts := n.children.map (fun c =>
        if c.leaf then unionAll ((items.drop c.ref).take (if t.kind = 0 then c.count else 1)) else belowNode t nodes items fuel c.ref)
      if parts.all (fun x => x.isSome) then unionAll (parts.filterMap (fun x => x)) else none

/-- What a child of a node covers. -/
def childItem (t : TreeDesc) (nodes : List (Option Node)) (items : List BItem) (c : Child) : Option BItem :=
  if c.leaf then unionAll ((items.drop c.ref).take (if t.kind = 0 then c.count else 1)) else belowNode t nodes items 16 c.ref

/-- A node refitted: its topology fields stay (R274). -/
def refitNode (t : TreeDesc) (nodes : List (Option Node)) (items : List BItem) (old : List Byte) (n : Node) : Option (List Byte) :=
  let specs := n.children.filterMap (fun c => (childItem t nodes items c).map (fun x =>
    ({ i := c.i, leaf := c.leaf, item := { x with n := if t.kind = 0 then c.count else 1, kind := some c.pkind } } : ChildSpec)))
  let base := if t.kind = 0 then 20 else 4
  nodeRecord t.kind (leNat (sliceBytes old base 4)) (leNat (sliceBytes old (base + 4) 4)) specs

/-- Source indices that name each of `n` records once: what a BUILD with perm = 1 left behind the items (R269, R274). -/
def isPermutation (n : Nat) (l : List Nat) : Bool := decide (l.length = n) && l.all (fun s => decide (s < n)) && decide l.Nodup

/-- REFIT: keys are in source order by the address of their block. -/
def refitTree (rd : Nat → Nat → Option (List Byte × Nat)) (j : BuildJob) (ordinal : Nat) : Except JobStop JobOut := do
  let bad : JobStop := .kill 4 (ordinal % 2 ^ 23)
  let db ← Reader.bytes rd j.region 64
  let d0 := parseTree db
  jobGuard (matchDesc j d0 && decide (d0.nodes ≤ max 1 (j.items - 1))) bad
  let t : TreeDesc := { d0 with nodeAddr := j.region + 64, itemAddr := j.region + j.itemOff }
  let nb ← Reader.bytes rd t.nodeAddr (nodeSize t.kind * t.nodes)
  let old (i : Nat) : List Byte := sliceBytes nb (nodeSize t.kind * i) (nodeSize t.kind)
  let nodes := (List.range t.nodes).map (fun i => parseNode { t with depth := 16 } 1 (old i))
  jobGuard (nodes.all (fun n => n.isSome)) bad
  let made ← (do
    if j.kind = 0 then
      jobGuard (decide (j.tailOff + ceilDiv (4 * j.items) 64 * 64 ≤ j.rlen)) bad
      let pb ← Reader.bytes rd (j.region + j.tailOff) (4 * j.items)
      let perm := elemCodes4 j.items pb
      jobGuard (isPermutation j.count perm) bad
      let l ← Reader.bytes rd j.src (64 * j.count)
      let items0 ← readPrims j l
      let dflt : BItem := { n := 1, keys := 0, rho := Num.zero, lo := [0, 0, 0], hi := [0, 0, 0], src := 0, kind := none }
      return (perm.map (fun s => items0.getD s dflt), perm.map (fun s => sliceBytes l (64 * s) 64), [(j.src, 64 * j.count), (j.region + j.tailOff, 4 * j.items)])
    else
      let p ← readProj rd j
      let lb ← Reader.bytes rd t.itemAddr (itemSize t.kind * t.items)
      let rec_ (i : Nat) : List Byte := sliceBytes lb (itemSize t.kind * i) (itemSize t.kind)
      let leaves := (List.range t.items).map (fun i => parseLeaf t i (rec_ i))
      jobGuard (leaves.all (fun x => x.isSome)) bad
      let hdr (i : Nat) : Nat × Nat × Nat × Nat :=
        (leNat (sliceBytes (rec_ i) 8 6), leNat (sliceBytes (rec_ i) 16 6), leNat (sliceBytes (rec_ i) 24 4), wfield (wordAt (rec_ i) 0) 4 7)
      let first := (List.range t.items).foldl (fun m i => min m (hdr i).1) (2 ^ 48)
      let srcOf (i : Nat) : Nat := ((hdr i).1 - first) / j.keyBytes
      let bySrc := sortBy (fun (x y : Nat) => decide ((hdr x).1 ≤ (hdr y).1)) (List.range t.items)
      let ks ← bySrc.mapM (fun i => (readKeys rd j p (hdr i).1 (hdr i).2.2.2 (srcOf i)).map (fun k => (i, k)))
      let keysOf (i : Nat) : List PKey := ((ks.find? (fun x => x.1 = i)).map (fun x => x.2)).getD []
      let recs ← allOr 1 (bySrc.map (fun i => (srcOf i, (leafRecord j.kind i (hdr i).1 (hdr i).2.1 (hdr i).2.2.1 (keysOf i)).map (fun r => (i, r))))) []
      let recOf (i : Nat) : List Byte := ((recs.find? (fun x => x.1 = i)).map (fun x => x.2)).getD []
      return ((List.range t.items).map (fun i => blockItem (srcOf i) (keysOf i)), (List.range t.items).map recOf,
        (j.proj, kindDims j.kind * j.n * 4) :: (t.itemAddr, itemSize t.kind * t.items) :: bySrc.map (fun i => ((hdr i).1, (hdr i).2.2.2 * j.keyBytes))))
  let newNodes ← allOr 1 ((List.range t.nodes).map (fun i =>
    let n := nodes.getD i none
    (((n.bind (fun x => unionAll (x.children.filterMap (childItem t nodes made.1)))).map (fun u => u.src)).getD 0,
     n.bind (fun x => refitNode t nodes made.1 (old i) x)))) []
  return { desc := db, keys := if j.kind = 0 then 0 else j.count, prims := if j.kind = 0 then j.count else 0, nodes := t.nodes,
           reads := (j.region, 64) :: (t.nodeAddr, nodeSize t.kind * t.nodes) :: made.2.2,
           writes := [(t.nodeAddr, newNodes.flatMap (fun x => x)), (t.itemAddr, made.2.1.flatMap (fun x => x))] }
where
  /-- Little-endian words of the permutation array. -/
  elemCodes4 (n : Nat) (l : List Byte) : List Nat := (List.range n).map (fun i => leNat (sliceBytes l (4 * i) 4))

/-! ## CHECK (R276) -/

/-- Where a CHECK stands: the nodes of the present level, nodes and items referenced so far with the box of each item's leaf child and its ancestors. -/
structure CheckWalk where
  seen : List Nat
  /-- Item, kind of its range, and the decoded boxes it must lie in, with the node and child that give each. -/
  items : List (Nat × Nat × List (Nat × Child × List (Num × Num)))
  nodes : List (Nat × Node)

/-- Index that a CHECK reports for an item. -/
def itemIndex (i : Nat) : Nat := i % 2 ^ 22 + 2 ^ 22

/-- One level of a tree: each node is parsed, and its children are referenced once. -/
def checkLevel (t : TreeDesc) (get : Nat → List Byte) (level : Nat) :
    List (Nat × List (Nat × Child × List (Num × Num))) → CheckWalk → List (Nat × List (Nat × Child × List (Num × Num))) →
    Except JobStop (CheckWalk × List (Nat × List (Nat × Child × List (Num × Num))))
  | [], w, next => .ok (w, next)
  | (i, path) :: l, w, next =>
    match parseNode t level (get i) with
    | none => .error (.kill 5 i)
    | some n =>
      let kids := n.children.map (fun c => (c, (i, c, boxOf n.origin n.step c.lo c.hi) :: path))
      let inner := (kids.filter (fun x => !x.1.leaf)).map (fun x => (x.1.ref, x.2))
      let leaf := (kids.filter (fun x => x.1.leaf)).flatMap (fun x =>
        (List.range (if t.kind = 0 then x.1.count else 1)).map (fun k => (x.1.ref + k, x.1.pkind, x.2)))
      match inner.find? (fun x => w.seen.contains x.1), leaf.find? (fun x => w.items.any (fun y => y.1 = x.1)) with
      | some x, _ => .error (.kill 5 x.1)
      | none, some x => .error (.kill 5 (itemIndex x.1))
      | none, none =>
        checkLevel t get level l { seen := w.seen ++ inner.map (fun x => x.1), items := w.items ++ leaf, nodes := w.nodes ++ [(i, n)] } (next ++ inner)

/-- The levels of a tree from the root. -/
def checkLevels (t : TreeDesc) (get : Nat → List Byte) : Nat → Nat → List (Nat × List (Nat × Child × List (Num × Num))) → CheckWalk → Except JobStop CheckWalk
  | _, _, [], w => .ok w
  | 0, _, (i, _) :: _, _ => .error (.kill 5 i)
  | fuel + 1, level, l, w => do
    let r ← checkLevel t get level l w []
    checkLevels t get fuel (level + 1) r.2 r.1

/-- A point or a box lies within a decoded box. -/
def inBox (lo hi : List Num) (box : List (Num × Num)) : Bool :=
  (List.range box.length).all (fun d =>
    let b := box.getD d (Num.zero, Num.zero)
    b.1.le (lo.getD d Num.zero) && (hi.getD d Num.zero).le b.2)

/-- One item of a CHECK: BOUND its keys with the job's P, SPACE its box. The result is its key count and largest ρ as stored. -/
def checkItem (rd : Nat → Nat → Option (List Byte × Nat)) (j : BuildJob) (t : TreeDesc) (p : List (List Num)) (get : Nat → List Byte)
    (x : Nat × Nat × List (Nat × Child × List (Num × Num))) : Except JobStop (Nat × Nat × List (Nat × Nat)) := do
  let i := x.1
  let l := get i
  if t.kind = 0 then
    jobGuard (parsePrim x.2.1 l).isSome (.kill 5 (itemIndex i))
    match primItem i l with
    | none => .error (.kill 1 i)
    | some it =>
      match x.2.2.find? (fun a => !inBox (it.lo.map fixNum) (it.hi.map fixNum) a.2.2) with
      | some a => .error (.kill 5 a.1)
      | none => return (i, 0, [])
  else
    match parseLeaf t i l with
    | none => .error (.kill 5 (itemIndex i))
    | some lf =>
      let kaddr := leNat (sliceBytes l 8 6)
      let ks ← readKeys rd j p kaddr lf.nkeys ((kaddr - j.src) / j.keyBytes)
      let pairs := List.zip ks lf.keys
      let cellOk (k : PKey × (List Nat × Nat)) : Bool :=
        inBox k.1.kh k.1.kh (boxOf lf.origin lf.step k.2.1 (k.2.1.map (fun c => c + 1))) && k.1.rho.le (Fmt.bf16.decode k.2.2)
      jobGuard (pairs.all cellOk) (.kill 5 (itemIndex i))
      match x.2.2.find? (fun a => !(pairs.all (fun k => inBox k.1.kh k.1.kh a.2.2 && (Fmt.bf16.decode k.2.2).le (Fmt.bf16.decode a.2.1.rho)))) with
      | some a => .error (.kill 5 a.1)
      | none => return (i, lf.nkeys, [(kaddr, lf.nkeys * j.keyBytes)])

/-- CHECK: the job's keys or primitives are read and tried in source order before any record of the tree (R264, R276). -/
def checkTree (rd : Nat → Nat → Option (List Byte × Nat)) (j : BuildJob) (ordinal : Nat) : Except JobStop JobOut := do
  let db ← Reader.bytes rd j.region 64
  let t := parseTree db
  jobGuard (matchDesc j t) (.kill 4 (ordinal % 2 ^ 23))
  let p ← (if j.kind = 0 then .ok [] else readProj rd j)
  let _ ← (if j.kind = 0 then (Reader.bytes rd j.src (64 * j.count)).bind (fun l => (readPrims j l).map (fun _ => ()))
           else (readKeys rd j p j.src j.count 0).map (fun _ => ()))
  let nb ← Reader.bytes rd t.nodeAddr (nodeSize t.kind * t.nodes)
  let ib ← Reader.bytes rd t.itemAddr (itemSize t.kind * t.items)
  let getNode (i : Nat) : List Byte := sliceBytes nb (nodeSize t.kind * i) (nodeSize t.kind)
  let getItem (i : Nat) : List Byte := sliceBytes ib (itemSize t.kind * i) (itemSize t.kind)
  let w ← checkLevels t getNode 16 1 [(0, [])] { seen := [0], items := [], nodes := [] }
  match (List.range t.nodes).find? (fun i => !w.seen.contains i), (List.range t.items).find? (fun i => !w.items.any (fun y => y.1 = i)) with
  | some i, _ => .error (.kill 5 i)
  | none, some i => .error (.kill 5 (itemIndex i))
  | none, none =>
    let done ← (sortBy (fun (x y : Nat × Nat × List (Nat × Child × List (Num × Num))) => decide (x.1 ≤ y.1)) w.items).mapM (fun x => checkItem rd j t p getItem x)
    let below (i : Nat) (c : Child) : Nat :=
      sumNat ((w.items.filter (fun x => x.2.2.any (fun a => decide (a.1 = i ∧ a.2.1.i = c.i)))).map (fun x => ((done.find? (fun y => y.1 = x.1)).map (fun y => y.2.1)).getD 0))
    let byNode := sortBy (fun (x y : Nat × Node) => decide (x.1 ≤ y.1)) w.nodes
    (match byNode.find? (fun n => t.kind ≠ 0 && n.2.children.any (fun c => decide (c.keys ≠ below n.1 c))) with
    | some n => .error (.kill 5 n.1)
    | none => .ok { desc := db, keys := if t.kind = 0 then 0 else sumNat (done.map (fun x => x.2.1)), prims := if t.kind = 0 then t.items else 0, nodes := 0, writes := [],
                    reads := (j.region, 64) :: (t.nodeAddr, nodeSize t.kind * t.nodes) :: (t.itemAddr, itemSize t.kind * t.items) ::
                      ((if j.kind = 0 then [(j.src, 64 * j.count)] else [(j.proj, kindDims j.kind * j.n * 4), (j.src, j.count * j.keyBytes)]) ++ done.flatMap (fun x => x.2.2)) })

/-! ## The station (R256 to R258, R277) -/

def Station.mould (s : Station) : MouldSt := match s.body with | .mould m => m | _ => { jobs := [], next := 0 }

/-- Checks of a MOULD station at launch (R256). -/
def Run.mouldLaunch (r : Run) (i : Nat) (s : Station) : LaunchCheck :=
  let shape (o : Option EdgeEntry) : Bool := o.any (fun e => decide (e.fmt = rawCode ∧ e.cols = 64))
  { ins := [0], outs := [0],
    cause := lowestCause [(!shape (r.inShape i 0) || !shape (r.outShape i 0) || decide (s.entry.paramLen ≠ 0), stGraph)] }

/-- A BUILD kill: its reason sets MLD_ERR and its detail stands in MLD_LAST_ERR (tables "kill cause laid down in this chapter", "Mould registers"). -/
def Block.killBuild (b : Block) (a : StRef) (f reason index : Nat) : Block :=
  let d := BitVec.ofNat 32 (reason * 2 ^ 28 + index % 2 ^ 23)
  ((b.setErrBit (Map.mldErr f) reason).setLast (Map.mldLastErr f) d).killAt a stBuild d

/-- The checks of a job against its table and the tenant's objects, and the size of its region (R259, R260). -/
def Block.jobChecks (b : Block) (t ordinal : Nat) (l : List Byte) : Except JobStop BuildJob :=
  match parseJob l with
  | none => .error (.kill 0 (ordinal % 2 ^ 23))
  | some j =>
    if !j.ranges.all (fun r => b.mapped t r.1 r.2) then .error (.kill 0 (ordinal % 2 ^ 23))
    else if j.rlen < j.need then .error (.kill 3 (ordinal % 2 ^ 23))
    else .ok j

/-- A job of an op done whole in its Mould's front slot. -/
def Block.runJob (b : Block) (a : StRef) (ordinal op : Nat) (work : (Nat → Nat → Option (List Byte × Nat)) → BuildJob → Except JobStop JobOut) : Block :=
  match b.working a ordinal with
  | none => b
  | some (r, st, x) =>
    match st.entry.type, x.tile 0 with
    | .mould, some t =>
      let want := wfield (wordAt t.data 0) 0 2
      if (if want = 3 then 0 else want) ≠ op || st.mould.jobs.any (fun m => m.ordinal = ordinal) || x.freed then b
      else
        let tn := r.ref.tenant
        let rd (addr len : Nat) : Option (List Byte × Nat) := if b.canRead tn addr len then some (b.peek x.field tn addr len) else none
        (match (b.jobChecks tn ordinal t.data).bind (work rd) with
        | .error .wait => b
        | .error (.mem stt) => b.killAt a stt 0#32
        | .error (.kill reason i) => b.killBuild a x.field reason i
        | .ok o =>
          if !b.canWriteAll tn (o.writes.map (fun w => (w.1, w.2.length))) then b
          else
            let b1 := b.readAll x.field tn o.reads
            let free : Nat := sumNat (o.writes.map (fun w => w.2.length))
            let r1 := Block.storeAll x.field tn o.writes { b1 with free := b1.free + free }
            if r1.2 ≠ stOk then r1.1.killAt a r1.2 0#32
            else
              let b2 := (((r1.1.bump (Map.mldJobCnt x.field) 1).bump (Map.mldKeyCnt x.field) o.keys).bump (Map.mldPrimCnt x.field) o.prims).bump (Map.mldNodeCnt x.field) o.nodes
              let job : MouldJob := { ordinal := ordinal, flags := if op = 1 then 1 else if op = 2 then 2 else 0, seq := t.seq, desc := o.desc, back := false, field := x.field }
              b2.modSt a (fun s => { s with body := .mould { s.mould with jobs := s.mould.jobs ++ [job] } }))
    | _, _ => b

/-- BUILD (R259 to R273). A job that breaks its table is killed here too. -/
def execBuild (a : StRef) (ordinal : Nat) (upsets : List Upset) (s : State) : Host.Outcome State Fault Refusal :=
  lift s (fun b => b.meeting a.tenant upsets (fun b => b.runJob a ordinal 0 (fun rd j => buildTree rd j (ordinal % 2 ^ 23) b.free)))

/-- REFIT (R274, R275). -/
def execRefit (a : StRef) (ordinal : Nat) (upsets : List Upset) (s : State) : Host.Outcome State Fault Refusal :=
  lift s (fun b => b.meeting a.tenant upsets (fun b => b.runJob a ordinal 1 (fun rd j => refitTree rd j ordinal)))

/-- CHECK (R276). -/
def execCheck (a : StRef) (ordinal : Nat) (upsets : List Upset) (s : State) : Host.Outcome State Fault Refusal :=
  lift s (fun b => b.meeting a.tenant upsets (fun b => b.runJob a ordinal 2 (fun rd j => checkTree rd j ordinal)))

/-- The built job in the front slot of a field's Mould: its station and ordinal. -/
def Block.frontJob (b : Block) (f : Nat) : Option (StRef × Nat) :=
  b.runs.findSome? (fun r => (List.range r.stations.length).findSome? (fun i =>
    match r.stations[i]? with
    | none => none
    | some s => if s.entry.type = .mould then
        (s.active.find? (fun x => decide (x.field = f) && !x.freed && s.mould.jobs.any (fun m => decide (m.ordinal = x.ordinal)))).map (fun x =>
          ({ tenant := r.ref.tenant, handle := r.ref.handle, station := i }, x.ordinal))
      else none))

/-- A job of a field's Mould is still in its back slot: its tile is the next of its station and is not out. A job that waits for jobs before it has finished (R258). -/
def Block.backHolds (b : Block) (f : Nat) : Bool :=
  b.runs.any (fun r => r.killed.isNone && r.stations.any (fun s =>
    decide (s.entry.type = .mould) && s.mould.jobs.any (fun m => m.back && decide (m.ordinal = s.mould.next ∧ m.field = f))))

/-- MOULD_JOB_TO_BACK (R277): the front slot takes the next job; the front waits while the back is busy. -/
def execMouldJobToBack (f : Nat) (s : State) : Host.Outcome State Fault Refusal :=
  lift s (fun b =>
    match b.frontJob f with
    | none => b
    | some (a, n) =>
      if ((b.findRun (stRun a)).any (fun r => r.killed.isSome)) || b.backHolds f then b
      else (b.modSt a (fun st => { st with body := .mould { st.mould with jobs := st.mould.jobs.map (fun m => if m.ordinal = n then { m with back := true } else m) } })).itemFreed a n)

/-- MOULD_TILE_OUT (R258): the descriptor of the next job in order. -/
def execMouldTileOut (a : StRef) (s : State) : Host.Outcome State Fault Refusal :=
  lift s (fun b =>
    match b.live a with
    | none => b
    | some (_, st) =>
      if st.entry.type ≠ .mould ∨ st.ready = false then b
      else
        match st.mould.jobs.find? (fun m => m.ordinal = st.mould.next) with
        | none => b
        | some m =>
          if !m.back then b
          else
            let b1 := b.modSt a (fun x => { x with body := .mould { jobs := x.mould.jobs.filter (fun y => y.ordinal ≠ m.ordinal), next := m.ordinal + 1 } })
            (b1.emit a 0 (rowsTile 64 m.seq m.flags [m.desc])).itemDone a m.ordinal)

end Sys2Proof.Machine
end

