-- ==== Sys2Proof/Machine/Rafter.lean ====
section
/-! DEFINITION. RAFTER stations: the walk of a tree for the rays of a yealm, hit entries, results and completion (chapter 08). -/
namespace Sys2Proof.Machine

/-! ## Parameters (R226) -/

structure RafterPar where
  bound : Bool
  treeSrc : Bool
  results : Bool
  det : Bool
  query : Nat
  pin : Nat
  tau : Num
  treeAddr : Nat
  cap : Nat
  deriving DecidableEq, Repr

def rafterPar (p : List Byte) : RafterPar :=
  let w (i : Nat) : Word := wordAt p i
  { bound := wbit (w 0) 0, treeSrc := wbit (w 0) 1, results := wbit (w 0) 2, det := wbit (w 0) 3, query := wfield (w 0) 4 2, pin := wfield (w 0) 6 3,
    tau := if w 1 = 0xFFFFFFFF#32 then .ofNat 24 else f32 (w 1).toNat, treeAddr := (w 2).toNat + 2 ^ 32 * wfield (w 3) 0 16,
    cap := wfield (w 4) 0 17 }

/-- The kind of YEALM station that feeds a RAFTER. -/
def Run.yealmOf (r : Run) (i : Nat) : Option Nat :=
  (r.inEdge i 0).bind (fun x => match r.stations[x.2.entry.src]? with
    | some s => if s.entry.type = .yealm ∧ x.2.entry.sport = 0 then some x.2.entry.src else none
    | none => none)

/-- Tree kind that a RAFTER accepts: SPACE in SPACE mode, that of the YEALM that feeds it in BOUND mode (R228). -/
def Run.rafterKind (r : Run) (i : Nat) : Nat :=
  if !(r.stations[i]?).any (fun s => wbit (s.pw 0) 0) then 0
  else match r.yealmOf i with
    | some y => (match r.stations[y]? with | some s => wfield (s.pw 0) 0 2 | none => 0)
    | none => 0

/-- The parameter block breaks its table (R226). -/
def rafterBad (p : List Byte) : Bool :=
  let w (i : Nat) : Word := wordAt p i
  let r := rafterPar p
  decide (p.length ≠ 64) || decide (wfield (w 0) 9 23 ≠ 0) || decide (4 < r.pin) || decide (wfield (w 3) 16 16 ≠ 0) || decide (wfield (w 4) 17 15 ≠ 0) ||
  decide (r.cap = 0 ∨ 65536 < r.cap) || !(List.range 11).all (fun i => w (5 + i) = 0#32) ||
  (r.treeSrc && decide (w 2 ≠ 0#32 ∨ w 3 ≠ 0#32)) ||
  (if r.bound then decide (r.query ≠ 0) else r.det || decide (r.query = 3)) ||
  (if r.bound && !r.det then !((Num.fin false 1 (-1)).le r.tau && r.tau.le (.ofNat 80)) else decide (w 1 ≠ 0#32))

/-- Checks of a RAFTER station at launch (R225, R226, R228). -/
def Block.rafterLaunch (b : Block) (r : Run) (i : Nat) (s : Station) : LaunchCheck :=
  let p := rafterPar s.params
  let ins := if p.treeSrc then [0, 1] else [0]
  let outs := if p.results then [0, 1] else [0]
  let shape (o : Option EdgeEntry) (cols : Nat) : Bool := o.any (fun e => decide (e.fmt = rawCode ∧ e.cols = cols))
  let ports := shape (r.inShape i 0) 64 && (!p.treeSrc || shape (r.inShape i 1) 64) && shape (r.outShape i 0) 32 && (!p.results || shape (r.outShape i 1) 32)
  let read := b.peek s.entry.field r.ref.tenant p.treeAddr 64
  let graph := rafterBad s.params || !ports || (r.yealmOf i).isNone
  let named := !graph && !p.treeSrc
  { ins := ins, outs := outs,
    cause := lowestCause [(graph, stGraph), (named && decide (read.2 ≠ stOk), read.2),
      (named && decide (read.2 = stOk) && !(parseTree read.1).ok (r.rafterKind i), stTree)] }

/-! ## Rays (table "ray values used by the Rafter", table "ray state entry") -/

structure Ray where
  lane : Nat
  slot : Nat
  w : List Word
  deriving DecidableEq, Repr

def Ray.word (r : Ray) (i : Nat) : Word := r.w.getD i 0#32
def Ray.f (r : Ray) (i : Nat) : Num := wordF (r.word i)
def Ray.seq (r : Ray) : Nat := (r.word 1).toNat + 2 ^ 32 * wfield (r.word 0) 0 16
/-- q̂ of dimension `d` (words 8 to 15 of the entry, then words 0 to 7 of the second). -/
def Ray.q (r : Ray) (d : Nat) : Num := r.f (8 + d)
def Ray.org (r : Ray) (a : Nat) : Num := r.f (2 + a)
def Ray.dir (r : Ray) (a : Nat) : Num := r.f (5 + a)
def Ray.tmin (r : Ray) : Num := r.f 8
def Ray.tmax (r : Ray) : Num := r.f 9
def Ray.cull (r : Ray) : Bool := wbit (r.word 0) 19

/-- A ray is invalid (R235). -/
def Ray.invalid (r : Ray) (p : RafterPar) (kind : Nat) : Bool :=
  if p.bound then
    let best := r.f 4
    let thr := r.f 5
    !(List.range (kindDims kind)).all (fun d => (r.q d).isFin) || !(r.f 3).isFin || (r.f 3).lt Num.zero || best.isNan ||
      decide (best = .inf false) || (p.det && (thr.isNan || decide (thr = .inf false)))
  else
    (List.range 3).any (fun a => (r.org a).isNan || (r.dir a).isNan) || r.tmin.isNan || r.tmax.isNan ||
      (List.range 3).all (fun a => (r.dir a).isZero) || r.tmax.lt r.tmin

/-! ## BOUND bounds (R236) -/

/-- The upper bound of a box and residual. -/
def upperBound (q : List Num) (rq : Num) (box : List (Num × Num)) (rho : Num) : Num :=
  let terms := List.zipWith (fun (x : Num) (y : Num × Num) => dirMul true x (if Num.zero.le x then y.2 else y.1)) q box
  let s := match terms with | [] => Num.zero | t :: ts => ts.foldl (dirAdd true) t
  let u := dirAdd true s (dirMul true rq rho)
  if u.isNan then .inf false else u

/-- The lower bound of a key's cell and residual. -/
def lowerBound (q : List Num) (rq : Num) (box : List (Num × Num)) (rho : Num) : Num :=
  let terms := List.zipWith (fun (x : Num) (y : Num × Num) => dirMul false x (if Num.zero.le x then y.1 else y.2)) q box
  let s := match terms with | [] => Num.zero | t :: ts => ts.foldl (dirAdd false) t
  let u := dirSub false s (dirMul true rq rho)
  if u.isNan then .inf true else u

/-! ## The walk -/

/-- What the walk stands at: a node and its level, a key leaf, or a primitive range. -/
inductive Cur where
  | node (i level : Nat)
  | leaf (i : Nat)
  | prims (first count kind : Nat)
  deriving DecidableEq, Repr

/-- A hit: kind, item, h0 to h2. -/
structure Hit where
  kind : Nat
  item : Nat
  h0 : Word
  h1 : Word
  h2 : Word
  deriving DecidableEq, Repr

/-- A ray in its walk. `key` of a stack entry is its bound u, or its t_enter. -/
structure Walk where
  cur : Cur
  /-- Top first: what, its bound, its keys. -/
  stack : List (Cur × Num × Nat)
  best : Num
  thr : Num
  tmax : Num
  pruned : Nat
  hits : List Hit
  /-- CLOSEST: the best hit so far, its t and primitive. -/
  closest : Option (Num × Hit)
  nodes : Nat
  leaves : Nat
  prunes : Nat
  /-- Records read, last first: address, bytes, and the level of a node. -/
  reads : List (Nat × Nat × Option Nat)
  deriving DecidableEq, Repr

/-- How a walk ends. -/
inductive WalkEnd where
  | done (w : Walk) (trunc : Bool)
  | node (detail : Nat) (w : Walk)
  | mem (status : Nat)
  | wait
  deriving DecidableEq, Repr

/-- One step of a walk. -/
inductive WalkStep where
  | go (w : Walk)
  | stop (e : WalkEnd)
  deriving DecidableEq, Repr

/-- What a record read gives: none when memory cannot answer yet. -/
abbrev Reader := Nat → Nat → Option (List Byte × Nat)

def satAdd (a n : Nat) : Nat := min (2 ^ 32 - 1) (a + n)

/-- Pops what may still hold an answer (R236, table "SPACE walk against the BOUND walk"). -/
def popStack (bound : Bool) (w : Walk) : List (Cur × Num × Nat) → Walk × Option (Cur × List (Cur × Num × Nat))
  | [] => (w, none)
  | e :: l =>
    if bound then
      (if e.2.1.le w.thr then popStack bound { w with pruned := satAdd w.pruned e.2.2, prunes := w.prunes + 1 } l else (w, some (e.1, l)))
    else if w.tmax.lt e.2.1 then popStack bound w l else (w, some (e.1, l))

/-- The walk goes on with the next entry of its stack, or ends. -/
def Walk.pop (w : Walk) (bound : Bool) : WalkStep :=
  match popStack bound w w.stack with
  | (w1, some (c, l)) => .go { w1 with cur := c, stack := l }
  | (w1, none) => .stop (.done { w1 with stack := [] } false)

/-- The children of a node in order go to the current place and the stack. -/
def Walk.push (w : Walk) (bound : Bool) (l : List (Cur × Num × Nat)) : WalkStep :=
  match l with
  | [] => w.pop bound
  | x :: xs => .go { w with cur := x.1, stack := xs ++ w.stack }

/-- The threshold of a best score (R237). -/
def threshold (p : RafterPar) (r : Ray) (best : Num) : Num :=
  if p.det then r.f 5 else if best = .inf true then .inf true else dirSub false best p.tau

/-- What a child of a node leads to. -/
def Child.cur (c : Child) (space : Bool) (level : Nat) : Cur :=
  if !c.leaf then .node c.ref (level + 1) else if space then .prims c.ref c.count c.pkind else .leaf c.ref

/-! ## SPACE tests (R244 to R247) -/

/-- Near and far limits of a slab on one axis: none when the axis fails, no limit when the direction is zero (R244). -/
def slabAxis (o d lo hi : Num) : Option (Option (Num × Num)) :=
  if d.isZero then (if lo.le o && o.le hi then some none else none)
  else
    let r := ((Num.ofNat 1).divAt 30 d).r32
    let p := dirSub false lo o
    let q := dirSub true hi o
    if r.neg then some (some (dirMul false q r, dirMul true p r)) else some (some (dirMul false p r, dirMul true q r))

/-- t_enter and t_exit of a box, when it passes. -/
def slab (r : Ray) (tmax : Num) (box : List (Num × Num)) : Option (Num × Num) :=
  let ax := (List.range 3).map (fun a => slabAxis (r.org a) (r.dir a) (box.getD a (Num.zero, Num.zero)).1 (box.getD a (Num.zero, Num.zero)).2)
  if ax.any (fun x => x.isNone) then none
  else
    let lim := ax.filterMap (fun x => x.bind (fun y => y))
    let enter := lim.foldl (fun m x => Num.max m x.1) r.tmin
    let exit_ := lim.foldl (fun m x => Num.min m x.2) tmax
    if enter.le exit_ then some (enter, exit_) else none

/-- FP32 operations rounded to nearest even. -/
def fadd (x y : Num) : Num := (x.add y).r32
def fsub (x y : Num) : Num := (x.sub y).r32
def fmul (x y : Num) : Num := (x.mul y).r32
def fdiv (x y : Num) : Num := (x.divAt 30 y).r32
/-- x − y × z with one rounding, and x × y − z × w exactly and rounded once. -/
def fnms (x y z : Num) : Num := (x.sub (y.mul z)).r32
def fcross (x y z w : Num) : Num := ((x.mul y).sub (z.mul w)).r32

/-- The axis of the largest |d|, the lowest on a tie. -/
def mainAxis (r : Ray) : Nat :=
  let a (i : Nat) : Num := (r.dir i).abs
  let m := if (a 0).lt (a 1) then 1 else 0
  if (a m).lt (a 2) then 2 else m

/-- The watertight triangle test (R245): t, b_B and b_C of a hit. -/
def triangle (r : Ray) (tmax : Num) (noCull : Bool) (v : List Num) : Option (Num × Num × Num) :=
  let kz := mainAxis r
  let k1 := (kz + 1) % 3
  let k2 := (k1 + 1) % 3
  let swap := (r.dir kz).lt Num.zero
  let kx := if swap then k2 else k1
  let ky := if swap then k1 else k2
  let sx := fdiv (r.dir kx) (r.dir kz)
  let sy := fdiv (r.dir ky) (r.dir kz)
  let sz := fdiv (.ofNat 1) (r.dir kz)
  let vert (n : Nat) : Num × Num × Num :=
    let c (a : Nat) : Num := fsub (v.getD (3 * n + a) Num.zero) (r.org a)
    (fnms (c kx) sx (c kz), fnms (c ky) sy (c kz), fmul sz (c kz))
  let pa := vert 0
  let pb := vert 1
  let pc := vert 2
  let u := fcross pc.1 pb.2.1 pc.2.1 pb.1
  let vv := fcross pa.1 pc.2.1 pa.2.1 pc.1
  let w := fcross pb.1 pa.2.1 pb.2.1 pa.1
  let below := u.lt Num.zero || vv.lt Num.zero || w.lt Num.zero
  let above := Num.zero.lt u || Num.zero.lt vv || Num.zero.lt w
  let det := fadd (fadd u vv) w
  if (below && above) || det.isZero || (det.lt Num.zero && r.cull && !noCull) then none
  else
    let t := fdiv (fadd (fadd (fmul u pa.2.2) (fmul vv pb.2.2)) (fmul w pc.2.2)) det
    if r.tmin.le t && t.le tmax then some (t, fdiv vv det, fdiv w det) else none

/-- One term of xᵀMy: entry `e` of M at row `i` and column `j`. -/
def formTerm (m x y : List Num) (i j e : Nat) : Num :=
  fmul (fmul (x.getD i Num.zero) (m.getD e Num.zero)) (y.getD j Num.zero)

/-- xᵀMy in the order xx, yy, zz, xy, xz, yz, the off-diagonal terms made by `off` (R246). -/
def formSum (m x y : List Num) (off : Nat → Nat → Nat → Num) : Num :=
  [formTerm m x y 1 1 1, formTerm m x y 2 2 2, off 0 1 3, off 0 2 4, off 1 2 5].foldl fadd (formTerm m x y 0 0 0)

/-- xᵀMx: an off-diagonal term is doubled (R246, log entry 46). -/
def quadForm (m x : List Num) : Num := formSum m x x (fun i j e => fmul (Num.fin false 2 0) (formTerm m x x i j e))

/-- xᵀMy: an off-diagonal entry counts in both its places (R246, log entry 46). -/
def bilinForm (m x y : List Num) : Num := formSum m x y (fun i j e => fadd (formTerm m x y i j e) (formTerm m x y j i e))

/-- The ellipsoid test (R246): t* and q_min of a hit. -/
def ellipsoid (r : Ray) (tmax : Num) (v : List Num) : Option (Num × Num) :=
  let d := (List.range 3).map r.dir
  let k := (List.range 3).map (fun a => fsub (r.org a) (v.getD a Num.zero))
  let m := v.drop 3
  let a := quadForm m d
  let b := bilinForm m d k
  let g := quadForm m k
  let t := fdiv b.negate a
  let q := fsub g (fdiv (fmul b b) a)
  if Num.zero.lt a && q.le (v.getD 9 Num.zero) && r.tmin.le t && t.le tmax then some (t, q) else none

def numWord (x : Num) : Word := BitVec.ofNat 32 (f32code x)

/-- The test of one primitive: its hit and the t that orders it; a PROC hit has no t. -/
def primHit (r : Ray) (tmax : Num) (idx : Nat) (x : Prim) : Option (Hit × Option Num) :=
  match x.kind with
  | 0 => (triangle r tmax x.noCull x.vals).map (fun h => ({ kind := 1, item := idx, h0 := numWord h.1, h1 := numWord h.2.1, h2 := numWord h.2.2 }, some h.1))
  | 1 => (ellipsoid r tmax x.vals).map (fun h => ({ kind := 2, item := idx, h0 := numWord h.1, h1 := numWord h.2, h2 := 0#32 }, some h.1))
  | _ =>
    let box := (List.range 3).map (fun a => (x.vals.getD a Num.zero, x.vals.getD (3 + a) Num.zero))
    (slab r tmax box).map (fun h => ({ kind := 3, item := idx, h0 := numWord h.1, h1 := numWord h.2, h2 := 0#32 }, none))

/-- A hit of a primitive in the mode of the station (table "SPACE walk against the BOUND walk"): the walk, and how it ends if it does. -/
def Walk.takePrim (w : Walk) (p : RafterPar) (h : Hit) (t : Option Num) : Walk × Option Bool :=
  match t, p.query with
  | some x, 0 =>
    let better := match w.closest with | none => true | some c => x.lt c.1 || (x.eq c.1 && decide (h.item < c.2.item))
    (if better then { w with closest := some (x, h), tmax := x } else w, none)
  | _, _ =>
    let w1 : Walk := { w with hits := w.hits ++ [h] }
    (w1, if t.isSome && decide (p.query = 1) then some false else if w1.hits.length = p.cap then some true else none)

/-- Primitives of a range in index order; the first that ends the ray stops the range. -/
def primRange (rd : Reader) (t : TreeDesc) (p : RafterPar) (r : Ray) (kind : Nat) : List Nat → Walk → WalkStep
  | [], w => w.pop false
  | i :: l, w =>
    let addr := t.itemAddr + 64 * i
    match rd addr 64 with
    | none => .stop .wait
    | some (bytes, st) =>
      if st ≠ stOk then .stop (.mem st)
      else
        let w1 : Walk := { w with reads := (addr, 64, none) :: w.reads }
        match parsePrim kind bytes with
        | none => .stop (.node (i + 2 ^ 31) w1)
        | some x =>
          match primHit r w1.tmax i x with
          | none => primRange rd t p r kind l w1
          | some (h, tt) =>
            (match w1.takePrim p h tt with
            | (w2, some tr) => .stop (.done w2 tr)
            | (w2, none) => primRange rd t p r kind l w2)

/-- The test of a node (R236, R244). -/
def Walk.atNode (w : Walk) (t : TreeDesc) (p : RafterPar) (r : Ray) (level : Nat) (n : Node) : WalkStep :=
  let q := (List.range (kindDims t.kind)).map r.q
  let w1 : Walk := { w with nodes := w.nodes + 1 }
  if p.bound then
    let scored := n.children.map (fun c => (c, upperBound q (r.f 3) (boxOf n.origin n.step c.lo c.hi) (Fmt.bf16.decode c.rho)))
    let cut := scored.filter (fun x => x.2.le w.thr)
    let kept := scored.filter (fun x => !x.2.le w.thr)
    let order := sortBy (fun (x y : Child × Num) => y.2.le x.2) kept
    let w2 : Walk := { w1 with pruned := cut.foldl (fun a x => satAdd a x.1.keys) w.pruned, prunes := w.prunes + cut.length }
    w2.push true (order.map (fun x => (x.1.cur false level, x.2, x.1.keys)))
  else
    let scored := n.children.filterMap (fun c => (slab r w.tmax (boxOf n.origin n.step c.lo c.hi)).map (fun e => (c, e.1)))
    let order := sortBy (fun (x y : Child × Num) => x.2.le y.2) scored
    w1.push false (order.map (fun x => (x.1.cur true level, x.2, 0)))

/-- The bitmap of the keys kept. -/
def keepMap (l : List (Nat × Num × Num)) : Nat := l.foldl (fun n x => n + 2 ^ x.1) 0

/-- The test of a key leaf (R236 to R238). -/
def Walk.atLeaf (w : Walk) (t : TreeDesc) (p : RafterPar) (r : Ray) (idx : Nat) (lf : KeyLeaf) : WalkStep :=
  let q := (List.range (kindDims t.kind)).map r.q
  let lim := (r.word 2).toNat
  let cell (k : Nat) : List (Num × Num) :=
    let codes := (lf.keys.getD k ([], 0)).1
    boxOf lf.origin lf.step codes (codes.map (fun c => c + 1))
  let rho (k : Nat) : Num := Fmt.bf16.decode (lf.keys.getD k ([], 0)).2
  let seen := (List.range lf.nkeys).filter (fun k => decide (lf.keyPos + k ≤ lim))
  let b := seen.map (fun k => (k, upperBound q (r.f 3) (cell k) (rho k), lowerBound q (r.f 3) (cell k) (rho k)))
  let best := b.foldl (fun m x => Num.max m x.2.2) w.best
  let thr := threshold p r best
  let kept := b.filter (fun x => !x.2.1.le thr)
  let w1 : Walk := { w with best := best, thr := thr, pruned := satAdd w.pruned (b.length - kept.length), leaves := w.leaves + 1 }
  match kept with
  | [] => w1.pop true
  | x :: xs =>
    let m := keepMap kept
    let top := xs.foldl (fun a y => Num.max a y.2.1) x.2.1
    let h : Hit := { kind := 0, item := idx, h0 := BitVec.ofNat 32 m, h1 := BitVec.ofNat 32 (m / 2 ^ 32), h2 := numWord top }
    let w2 : Walk := { w1 with hits := w1.hits ++ [h] }
    if w2.hits.length = p.cap then .stop (.done w2 true) else w2.pop true

/-- One step of the walk (pseudocode of R238). -/
def Walk.step (rd : Reader) (t : TreeDesc) (p : RafterPar) (r : Ray) (w : Walk) : WalkStep :=
  match w.cur with
  | .node i level =>
    let addr := t.nodeAddr + nodeSize t.kind * i
    (match rd addr (nodeSize t.kind) with
    | none => .stop .wait
    | some (bytes, st) =>
      if st ≠ stOk then .stop (.mem st)
      else
        let w1 : Walk := { w with reads := (addr, nodeSize t.kind, some level) :: w.reads }
        (match parseNode t level bytes with
        | none => .stop (.node i w1)
        | some n => w1.atNode t p r level n))
  | .leaf i =>
    let addr := t.itemAddr + itemSize t.kind * i
    (match rd addr (itemSize t.kind) with
    | none => .stop .wait
    | some (bytes, st) =>
      if st ≠ stOk then .stop (.mem st)
      else
        let w1 : Walk := { w with reads := (addr, itemSize t.kind, none) :: w.reads }
        (match parseLeaf t i bytes with
        | none => .stop (.node (i + 2 ^ 31) w1)
        | some lf => w1.atLeaf t p r i lf))
  | .prims first count kind => primRange rd t p r kind ((List.range count).map (fun k => first + k)) { w with leaves := w.leaves + 1 }

/-- The whole walk; `fuel` bounds its steps. -/
def walkTree (rd : Reader) (t : TreeDesc) (p : RafterPar) (r : Ray) : Nat → Walk → WalkEnd
  | 0, w => .done w false
  | n + 1, w =>
    match w.step rd t p r with
    | .stop e => e
    | .go w1 => walkTree rd t p r n w1

/-- More steps than a tree of 16 levels has places. -/
def walkFuel : Nat := 2 ^ 52

/-- A ray's walk from the root's children. -/
def Ray.walk (rd : Reader) (t : TreeDesc) (p : RafterPar) (r : Ray) : WalkEnd :=
  let best := r.f 4
  let w : Walk := { cur := .node 0 1, stack := [], best := best, thr := threshold p r best, tmax := r.tmax, pruned := 0, hits := [], closest := none,
                    nodes := 0, leaves := 0, prunes := 0, reads := [] }
  match walkTree rd t p r walkFuel w with
  | .done w1 tr =>
    (match w1.closest with
    | some c => if tr then .done w1 true else .done { w1 with hits := w1.hits ++ [c.2] } false
    | none => .done w1 tr)
  | e => e

/-- The certified mass bound (R241). -/
def massBound (w : Walk) (trunc : Bool) : Num :=
  if trunc then .inf false
  else if w.pruned = 0 then Num.zero
  else if w.best = .inf true then .inf false
  else dirMul true (dirF32 true (.ofNat w.pruned)) (expUp (dirSub true w.thr w.best))

/-! ## Results of a ray (R248, R250, R281) -/

/-- Sets bits of word 0. -/
def setBits (w : Word) (mask : Nat) : Word := w ||| BitVec.ofNat 32 mask

/-- The entry after a pass (R281). -/
def Ray.after (r : Ray) (p : RafterPar) (w : Walk) (trunc : Bool) : List Word :=
  let put (l : List Word) (i : Nat) (x : Word) : List Word := modAt l i (fun _ => x)
  if p.bound then
    let l1 := put r.w 4 (numWord w.best)
    let l2 := if p.det then l1 else put l1 5 (numWord w.thr)
    let l3 := put l2 6 (BitVec.ofNat 32 (satAdd (r.word 6).toNat w.pruned))
    let l4 := put l3 7 (numWord (dirAdd true (r.f 7) (massBound w trunc)))
    put l4 0 (if trunc then setBits (r.word 0) (2 ^ 21) else r.word 0)
  else
    let l1 := if p.query = 0 then put r.w 9 (numWord w.tmax) else r.w
    let l2 := put l1 10 (BitVec.ofNat 32 (satAdd (r.word 10).toNat w.hits.length))
    let w1 := if trunc then setBits (r.word 0) (2 ^ 21) else r.word 0
    put l2 0 (if p.query = 1 ∧ w.hits ≠ [] then setBits w1 (2 ^ 22) else w1)

/-- A hit entry (R248). -/
def Ray.hitRow (r : Ray) (tree : Nat) (h : Hit) : List Byte :=
  wordsBytes [BitVec.ofNat 32 (h.kind + 4 * r.lane + 64 * r.slot), BitVec.ofNat 32 r.seq, BitVec.ofNat 32 (r.seq / 2 ^ 32), BitVec.ofNat 32 tree,
    BitVec.ofNat 32 h.item, h.h0, h.h1, h.h2]

/-- A ray result record (R250). -/
def Ray.resultRow (r : Ray) (bound nan trunc : Bool) (tree hits : Nat) (r0 r1 r2 r3 : Word) : List Byte :=
  wordsBytes [BitVec.ofNat 32 (b2n bound + 2 * b2n nan + 4 * b2n trunc + 64 * r.lane + 1024 * r.slot), BitVec.ofNat 32 r.seq,
    BitVec.ofNat 32 (r.seq / 2 ^ 32 + 65536 * min 65535 hits), BitVec.ofNat 32 tree, r0, r1, r2, r3]

/-- What the walk of one lane gives. -/
structure LaneOut where
  hits : List (List Byte)
  result : List Byte
  entry : List Word
  walk : Option Walk
  nan : Bool
  trunc : Bool
  deriving DecidableEq, Repr

/-- The outcome of a yealm's lanes. -/
inductive LanesEnd where
  | ok (l : List (Nat × LaneOut))
  | node (detail : Nat)
  | mem (status : Nat)
  | wait
  deriving DecidableEq, Repr

/-- One lane against a tree. -/
def Ray.run (rd : Reader) (t : TreeDesc) (p : RafterPar) (tree : Nat) (r : Ray) : WalkEnd × LaneOut :=
  if r.invalid p t.kind then
    let e := modAt r.w 0 (fun x => setBits x (2 ^ 20))
    let row := if p.bound then r.resultRow true true false tree 0 (r.word 4) (r.word 5) 0#32 0#32
               else r.resultRow false true false tree 0 (r.word 9) 0#32 0#32 0#32
    (.wait, { hits := [], result := row, entry := e, walk := none, nan := true, trunc := false })
  else
    let e := r.walk rd t p
    match e with
    | .done w tr =>
      let row := if p.bound then r.resultRow true false tr tree w.hits.length (numWord w.best) (numWord w.thr) (BitVec.ofNat 32 w.pruned) (numWord (massBound w tr))
                 else r.resultRow false false tr tree w.hits.length (numWord w.tmax) 0#32 0#32 0#32
      (e, { hits := w.hits.map (r.hitRow tree), result := row, entry := r.after p w tr, walk := some w, nan := false, trunc := tr })
    | _ => (e, { hits := [], result := [], entry := [], walk := none, nan := false, trunc := false })

/-- The valid lanes in ascending order. -/
def runLanes (rd : Reader) (t : TreeDesc) (p : RafterPar) (tree : Nat) : List Ray → List (Nat × LaneOut) → LanesEnd
  | [], acc => .ok acc
  | r :: l, acc =>
    let x := Ray.run rd t p tree r
    if x.2.nan then runLanes rd t p tree l (acc ++ [(r.slot, x.2)])
    else match x.1 with
      | .done _ _ => runLanes rd t p tree l (acc ++ [(r.slot, x.2)])
      | .node d _ => .node d
      | .mem st => .mem st
      | .wait => .wait

/-! ## Yealm tiles (table "yealm tile header") -/

def yealmTree (t : Tile) : Nat := (wordAt t.data 2).toNat
def yealmValid (t : Tile) : Nat := wfield (wordAt t.data 1) 0 16
def yealmWindowNo (t : Tile) : Nat := (wordAt t.data 4).toNat
def yealmIdx (t : Tile) : Nat := wfield (wordAt t.data 5) 0 12
def yealmCount (t : Tile) : Nat := wfield (wordAt t.data 5) 12 13
def yealmSeq (t : Tile) : Nat := (wordAt t.data 6).toNat + 2 ^ 32 * wfield (wordAt t.data 7) 0 16

/-- The valid lanes of a yealm tile. -/
def yealmRays (kind : Nat) (t : Tile) : List Ray :=
  let e := if kind = 2 then 2 else 1
  ((List.range 16).filter (fun i => bitAt (yealmValid t) i)).map (fun i =>
    let base := 32 + 16 * e * i
    { lane := i, slot := wfield (wordAt t.data (16 + i)) 0 22, w := (List.range (16 * e)).map (fun j => wordAt t.data (base + j)) })

/-! ## Trees of a station (R251, R252) -/

def Station.rafter (s : Station) : RafterSt :=
  match s.body with | .rafter r => r | _ => { trees := [], got := 0, high := none, done := [] }

def Block.modRafter (b : Block) (a : StRef) (f : RafterSt → RafterSt) : Block := b.modSt a (fun s => { s with body := .rafter (f s.rafter) })

/-- A tree is marked and no longer used: it is released (R251). -/
def HeldTree.over (t : HeldTree) : Bool := t.marked && decide (t.users = 0)

/-- A line of a node cache holds bytes of a range. -/
def NodeLine.meets (x : NodeLine) (lo n : Nat) : Bool := decide (lo < x.addr + 128) && decide (x.addr < lo + n)

/-- Trees that are over are released, and their lines no longer pinned (R251, R254). -/
def Block.dropTrees (b : Block) (a : StRef) : Block :=
  match (b.findRun (stRun a)).bind (fun r => r.stations[a.station]?) with
  | none => b
  | some s =>
    let gone := (s.rafter.trees.filter HeldTree.over).map (fun t => parseTree t.desc)
    let free (x : NodeLine) : NodeLine :=
      if decide (x.run = stRun a) && gone.any (fun d => x.meets d.nodeAddr (d.nodes * nodeSize d.kind)) then { x with pin := false } else x
    let b1 := b.modRafter a (fun r => { r with trees := r.trees.filter (fun t => !t.over) })
    { b1 with nodeCaches := b1.nodeCaches.map (fun e => (e.1, e.2.map free)) }

/-- Trees below an ordinal are marked for release. -/
def RafterSt.mark (r : RafterSt) (n : Nat) : RafterSt :=
  { r with trees := r.trees.map (fun t => if t.ord < n then { t with marked := true } else t) }

/-- The tree that a yealm needs has arrived. -/
def Station.treeHere (s : Station) (t : Tile) : Bool :=
  !(rafterPar s.params).treeSrc || s.rafter.trees.any (fun x => x.ord = yealmTree t)

/-- A yealm cannot get its tree (R252). -/
def Station.treeGone (s : Station) (n : Nat) : Bool :=
  s.rafter.high.any (fun h => decide (n < h)) || (s.portClosed 1 && decide (s.rafter.got ≤ n))

/-- A TREE kill (R252). -/
def Block.killTree (b : Block) (a : StRef) (s : Station) (n : Nat) : Block :=
  (b.setErrBit (Map.rafErr s.homeField) 1).killAt a stTree (BitVec.ofNat 32 n)

/-- A yealm tile reaches the station and names its tree (R251, R252); false when the run is killed. -/
def Block.nameTree (b : Block) (a : StRef) (s : Station) (t : Tile) : Block × Bool :=
  if !(rafterPar s.params).treeSrc || t.closing then (b, true)
  else
    let n := yealmTree t
    if s.treeGone n then (b.killTree a s n, false)
    else
      let use (x : HeldTree) : HeldTree := if x.ord = n then { x with users := x.users + 1 } else x
      let b1 := (b.modRafter a (fun r => r.mark n)).dropTrees a
      (b1.modRafter a (fun r => { r with high := some n, trees := r.trees.map use }), true)

/-- Lines of a tree's nodes are dropped from the node caches of a run (R258). -/
def Block.dropTreeLines (b : Block) (r : RunRef) (lo n : Nat) : Block :=
  let out (x : NodeLine) : Bool := decide (x.run = r) && x.meets lo n
  { b with nodeCaches := b.nodeCaches.map (fun e => (e.1, e.2.filter (fun x => !out x))) }

/-! ## Node caches (R253, R254) -/

def lineBytes : Nat := 128

/-- The set of a line, one of 128 (R253). Which one an address takes is not stated. -/
def nodeSetOf (addr : Nat) : Nat := Config.nodeSet addr % 128

/-- A line becomes the most recently used of its cache, in the place of the least recently used line of a full set; a set whose 16 lines are pinned takes no other. At most 1,024 lines are pinned (R253, R254). -/
def useLine (c : List NodeLine) (r : RunRef) (addr : Nat) (pin : Bool) : List NodeLine :=
  let me (x : NodeLine) : Bool := decide (x.run = r ∧ x.addr = addr)
  let pins := pin && decide (c.countP (fun x => x.pin) < 1024)
  match c.find? me with
  | some x => { x with pin := x.pin || pins } :: c.filter (fun y => !me y)
  | none =>
    let line : NodeLine := { run := r, addr := addr, pin := pins }
    let set_ := c.filter (fun x => nodeSetOf x.addr = nodeSetOf addr)
    if set_.length < 16 then line :: c
    else match (set_.filter (fun x => !x.pin)).getLast? with
      | some v => line :: c.erase v
      | none => c

/-- Addresses of the nodes of `n` levels from the nodes `is` of a level on, as far as memory gives them. -/
def levelNodes (rd : Reader) (t : TreeDesc) : Nat → Nat → List Nat → List Nat
  | 0, _, _ => []
  | n + 1, level, is =>
    let size := nodeSize t.kind
    let below (i : Nat) : List Nat :=
      match rd (t.nodeAddr + size * i) size with
      | some (bytes, st) => if st ≠ stOk then [] else (match parseNode t level bytes with
          | some x => (x.children.filter (fun c => !c.leaf)).map (fun c => c.ref)
          | none => [])
      | none => []
    is.map (fun i => t.nodeAddr + size * i) ++ levelNodes rd t n (level + 1) (is.flatMap below)

/-- A node is fetched by a Rafter: served by its cache, or by memory. -/
def Block.fetchNode (b : Block) (unit f : Nat) (r : RunRef) (addr size : Nat) : Block × Bool :=
  let c := b.nodeCaches.getD unit []
  let lines := (List.range (ceilDiv size lineBytes)).map (fun i => addr / lineBytes * lineBytes + lineBytes * i)
  let hit := lines.all (fun a => c.any (fun x => decide (x.run = r ∧ x.addr = a)))
  let b1 : Block := { b with nodeCaches := b.nodeCaches.set unit (lines.foldl (fun c a => useLine c r a false) c) }
  (if hit then b1.bump (Map.rafNcHit f) 1 else b1.bump (Map.rafNcMiss f) 1, hit)

/-- The nodes of the tree's first levels are loaded and pinned before its first yealm on the unit is walked (R254). -/
def Block.pinTree (b : Block) (rd : Reader) (unit f : Nat) (r : RunRef) (t : TreeDesc) (levels : Nat) : Block :=
  (levelNodes rd t levels 1 [0]).foldl (fun (x : Block) addr =>
    let lines := (List.range (ceilDiv (nodeSize t.kind) lineBytes)).map (fun i => addr / lineBytes * lineBytes + lineBytes * i)
    let c := x.nodeCaches.getD unit []
    let here := lines.all (fun a => c.any (fun y => decide (y.run = r ∧ y.addr = a)))
    let x1 := if here then x else (x.load f r.tenant addr (nodeSize t.kind) .load).1
    { x1 with nodeCaches := x1.nodeCaches.set unit (lines.foldl (fun c a => useLine c r a true) c) }) b

/-- The reads of a walk take effect, in order. -/
def Block.walkReads (b : Block) (unit f : Nat) (r : RunRef) (w : Walk) : Block :=
  w.reads.reverse.foldl (fun (x : Block) e =>
    match e.2.2 with
    | some _ =>
      let y := x.fetchNode unit f r e.1 e.2.1
      if y.2 then y.1 else (y.1.load f r.tenant e.1 e.2.1 .load).1
    | none => (x.load f r.tenant e.1 e.2.1 .load).1) b

/-- The first node of a tree is fetched by the Rafters of a station (R258), where memory can answer. -/
def Block.firstNode (b : Block) (units : List (Nat × Nat)) (r : RunRef) (t : TreeDesc) : Block :=
  let size := nodeSize t.kind
  units.foldl (fun (x : Block) u =>
    if !x.canRead r.tenant t.nodeAddr size then x
    else
      let y := x.fetchNode (18 * u.1 + u.2) u.1 r t.nodeAddr size
      if y.2 then y.1 else (y.1.load u.1 r.tenant t.nodeAddr size .load).1) b

/-- TREE_DESCRIPTOR_ARRIVAL (R228, R251, R252, R258): a descriptor arrives on port 1, is checked, and is held for the yealms that name it; lines of its node array are dropped and its first node is fetched. -/
def execTreeDescriptorArrival (a : StRef) (upsets : List Upset) (s : State) : Host.Outcome State Fault Refusal :=
  lift s (fun b => b.meeting a.tenant upsets (fun b =>
    match b.live a with
    | none => b
    | some (r, st) =>
      if st.entry.type ≠ .rafter then b
      else
        match r.head a.station 1 with
        | none => b
        | some t =>
          if 64 ≤ st.rafter.trees.length then b
          else
            let d := parseTree t.data
            let n := st.rafter.got
            let waits (x : Item) : Bool := decide (x.run = r.ref ∧ x.station = a.station)
            let treesOf (l : List (Nat × Operand)) : List Nat := l.filterMap (fun y => match y.2 with | .tile z => some (yealmTree z))
            let named := (b.ridge.items.filter waits).flatMap (fun x => treesOf x.slots) ++ st.active.flatMap (fun x => treesOf x.slots)
            let b1 := b.consume a 1
            let last (x : Block) (got : Nat) : Block :=
              if t.last then (match named.find? (fun m => decide (got ≤ m)) with | some m => x.killTree a st m | none => x) else x
            if t.closing then last b1 n
            else if !d.ok (r.rafterKind a.station) then b1.killTree a st n
            else
              let users := named.countP (fun m => m = n)
              let held : HeldTree := { ord := n, desc := t.data, marked := st.rafter.high.any (fun h => decide (n < h)), users := users }
              let b2 := ((b1.dropTreeLines r.ref d.nodeAddr (d.nodes * nodeSize d.kind)).firstNode st.units r.ref d).modRafter a (fun x => { x with trees := x.trees ++ [held], got := n + 1 })
              last (b2.dropTrees a) (n + 1)))

/-- The counters of a lane (table "Rafter registers"). -/
def Block.countLane (b : Block) (f : Nat) (o : LaneOut) : Block :=
  let b1 := if o.nan then b.setErrBit (Map.rafErr f) 2 else b
  let b2 := if o.trunc then b1.setErrBit (Map.rafErr f) 3 else b1
  match o.walk with
  | some w => (((b2.bump (Map.rafNodeCnt f) w.nodes).bump (Map.rafLeafCnt f) w.leaves).bump (Map.rafHitCnt f) w.hits.length).bump (Map.rafPruneCnt f) w.prunes
  | none => b2

/-- Emits rows in tiles of at most the edge's rows (R249). -/
def Block.emitRows (b : Block) (a : StRef) (port cols seq : Nat) (rows : List (List Byte)) : Block :=
  match (b.findRun (stRun a)).bind (fun r => r.outShape a.station port) with
  | none => b
  | some e => (chunk e.rows rows.length rows).foldl (fun (x : Block) l => x.emit a port (rowsTile cols seq 0 l)) b

/-- YEALM_TRAVERSAL (R227 to R250): the unit walks the tree for the rays of a yealm and emits hit entries and results. -/
def execYealmTraversal (a : StRef) (ordinal : Nat) (upsets : List Upset) (s : State) : Host.Outcome State Fault Refusal :=
  lift s (fun b => b.meeting a.tenant upsets (fun b =>
    match b.working a ordinal with
    | none => b
    | some (r, st, x) =>
      match st.entry.type, x.tile 0 with
      | .rafter, some t =>
        let p := rafterPar st.params
        if st.rafter.done.any (fun d => d.ordinal = ordinal) || !st.ready || !st.treeHere t then b
        else
          let peeked := b.peek x.field r.ref.tenant p.treeAddr 64
          let desc := if p.treeSrc then ((st.rafter.trees.find? (fun d => d.ord = yealmTree t)).map (fun d => d.desc)).getD [] else peeked.1
          let d := parseTree desc
          let tree := if p.treeSrc then yealmTree t else 0
          let rd (addr len : Nat) : Option (List Byte × Nat) :=
            if b.canRead r.ref.tenant addr len then some (b.peek x.field r.ref.tenant addr len) else none
          if !p.treeSrc && !b.canRead r.ref.tenant p.treeAddr 64 then b
          else if !p.treeSrc && peeked.2 ≠ stOk then b.killAt a peeked.2 0#32
          else if !p.treeSrc && !d.ok (r.rafterKind a.station) then b.killTree a st tree
          else match runLanes rd d p tree (yealmRays d.kind t) [] with
          | .wait => b
          | .mem stt => b.killAt a stt 0#32
          | .node n => (b.setErrBit (Map.rafErr x.field) 0).killAt a stNode (BitVec.ofNat 32 n)
          | .ok l =>
            let unit := 18 * x.field + x.unit
            let b0 := b.pinTree rd unit x.field r.ref d p.pin
            let b1 := l.foldl (fun (y : Block) o => ((match o.2.walk with
              | some w => y.walkReads unit x.field r.ref w
              | none => y)).countLane x.field o.2) b0
            let hits := l.flatMap (fun o => o.2.hits)
            let done : YealmDone := { ordinal := ordinal, tree := tree, window := yealmWindowNo t, yidx := yealmIdx t, ycount := yealmCount t,
                                      hits := hits.length, lanes := l.map (fun o => (o.1, o.2.entry)) }
            let b2 := b1.modRafter a (fun y => { y with done := y.done ++ [done] })
            let b3 := b2.emitRows a 0 32 (yealmSeq t) hits
            if p.results then b3.emitRows a 1 32 (yealmSeq t) (l.map (fun o => o.2.result)) else b3
      | _, _ => b))

/-- Ray state entries of a YEALM station take new words by slot (R281). -/
def YealmSt.writeBack (y : YealmSt) (e : Nat) (lanes : List (Nat × List Word)) : YealmSt :=
  let fixW (w : YWindow) : YWindow :=
    { w with rays := (List.range w.rays.length).map (fun i =>
        match lanes.find? (fun l => decide (w.slots.getD (e * i) 0 = l.1)) with
        | some l => l.2
        | none => w.rays.getD i []) }
  { y with windows := y.windows.map fixW }

/-- The COUCH that a RAFTER's hits go to. -/
def Run.couchOf (r : Run) (i : Nat) : Option Nat :=
  (r.outEdge i 0).bind (fun x => match r.stations[x.2.entry.dst]? with
    | some s => if s.entry.type = .couch then some x.2.entry.dst else none
    | none => none)

/-- YEALM_COMPLETE (R281, R368): the entries are written back, and the token goes to the YEALM station and to the COUCH that counts it. -/
def execYealmComplete (a : StRef) (ordinal : Nat) (s : State) : Host.Outcome State Fault Refusal :=
  lift s (fun b =>
    match b.working a ordinal with
    | none => b
    | some (r, st, _) =>
      match st.rafter.done.find? (fun d => d.ordinal = ordinal), r.yealmOf a.station with
      | some d, some y =>
        if st.entry.type ≠ .rafter ∨ st.ready = false then b
        else
          let e := if r.rafterKind a.station = 2 then 2 else 1
          let wb (x : Station) : Station := match x.body with | .yealm z => { x with body := .yealm (z.writeBack e d.lanes) } | _ => x
          let use (x : HeldTree) : HeldTree := if x.ord = d.tree then { x with users := x.users - 1 } else x
          let b1 := ((b.modSt { a with station := y } wb).modRafter a (fun z =>
            { z with done := z.done.filter (fun q => q.ordinal ≠ ordinal), trees := z.trees.map use })).dropTrees a
          let tok (to_ : Nat) : Token :=
            { run := r.ref, station := to_, ordinal := ordinal, tree := d.tree, window := d.window, yidx := d.yidx, ycount := d.ycount, hits := d.hits }
          let toks := tok y :: (match r.couchOf a.station with | some c => [tok c] | none => [])
          ({ b1 with ridge := { b1.ridge with tokens := b1.ridge.tokens ++ toks } } : Block).itemDone a ordinal
      | _, _ => b)

end Sys2Proof.Machine
end

