-- ==== Sys2Proof/Machine/Yealm.lean ====
section
/-! DEFINITION. The ray state table and YEALM stations: forming rays, windows, sort keys, yealm tiles, passes and cohorts (chapter 10). -/
namespace Sys2Proof.Machine

/-! ## Parameters (R283) -/

structure YealmPar where
  kind : Nat
  src : Nat
  det : Bool
  cull : Bool
  close : Bool
  posMode : Bool
  passes : Nat
  lg : Nat
  cohort : Nat
  treeBase : Nat
  seqBase : Nat
  posBase : Nat
  qscale : Num
  thr : Word
  proj : Nat
  n : Nat
  deriving DecidableEq, Repr

def yealmPar (p : List Byte) : YealmPar :=
  let w (i : Nat) : Word := wordAt p i
  { kind := wfield (w 0) 0 2, src := wfield (w 0) 2 2, det := wbit (w 0) 4, cull := wbit (w 0) 5, close := wbit (w 0) 6, posMode := wbit (w 0) 7,
    passes := wfield (w 1) 0 16, lg := wfield (w 1) 16 5, cohort := wfield (w 2) 0 16, treeBase := (w 3).toNat,
    seqBase := (w 4).toNat + 2 ^ 32 * wfield (w 5) 0 16, posBase := (w 6).toNat, qscale := wordF (w 7), thr := w 8,
    proj := (w 9).toNat + 2 ^ 32 * wfield (w 10) 0 16, n := wfield (w 11) 0 9 }

def YealmPar.bound (p : YealmPar) : Bool := decide (p.kind ≠ 0)
/-- Entries per ray (R279). -/
def YealmPar.ents (p : YealmPar) : Nat := if p.kind = 2 then 2 else 1
def YealmPar.winRays (p : YealmPar) : Nat := 2 ^ p.lg
/-- Width and height of a camera. -/
def camW (p : List Byte) : Nat := wfield (wordAt p 28) 0 16
def camH (p : List Byte) : Nat := wfield (wordAt p 28) 16 16

/-- The parameter block breaks its table, or src does not suit kind (R283, R284). -/
def yealmBad (p : List Byte) : Bool :=
  let w (i : Nat) : Word := wordAt p i
  let y := yealmPar p
  let zero (lo hi : Nat) : Bool := (List.range (hi - lo)).all (fun i => w (lo + i) = 0#32)
  let thrOk := match wordF y.thr with | .fin _ _ _ => true | .inf s => s | .nan _ => false
  decide (p.length ≠ 128) || decide (y.kind = 3) || decide (wfield (w 0) 8 24 ≠ 0 ∨ wfield (w 1) 21 11 ≠ 0 ∨ wfield (w 2) 16 16 ≠ 0 ∨ wfield (w 5) 16 16 ≠ 0) ||
  decide (wfield (w 10) 16 16 ≠ 0 ∨ wfield (w 11) 9 23 ≠ 0 ∨ w 31 ≠ 0#32) || !zero 12 16 ||
  (if y.bound then decide (2 ≤ y.src) || y.cull else decide (y.src < 2) || y.det || y.posMode) ||
  decide (y.passes = 0 ∨ y.lg < 4 ∨ 16 < y.lg ∨ y.cohort = 0) || (!y.posMode && decide (w 6 ≠ 0#32)) ||
  (if y.det then !thrOk else decide (w 8 ≠ 0#32)) ||
  (if y.src = 0 then decide (y.proj % 64 ≠ 0 ∨ y.n < 64 ∨ 256 < y.n ∨ y.n % 16 ≠ 0) else decide (w 7 ≠ 0#32) || !zero 9 12) ||
  (if y.src = 3 then decide (camW p = 0 ∨ 16384 < camW p ∨ camH p = 0 ∨ 16384 < camH p) else !zero 16 31)

/-- Format and columns of the input tiles (table "YEALM sources"). -/
def YealmPar.inputOk (y : YealmPar) (e : EdgeEntry) : Bool :=
  if y.src = 0 then decide ((e.fmt = 1 ∨ e.fmt = 2 ∨ e.fmt = 3) ∧ e.cols = y.n)
  else if y.src = 1 then decide (e.fmt = 1 ∧ e.cols = kindDims y.kind + 1)
  else decide (e.fmt = 1 ∧ e.cols = 8)

/-! ## The ray state table (R279, R294) -/

/-- Entries of the table. -/
def Block.rayTable (b : Block) : Nat := (b.start.img.map (fun g => g.rayState * 65536)).getD 0

/-- Entries that stations hold. -/
def Block.rayUsed (b : Block) : List Nat := b.runs.flatMap (fun r => r.stations.flatMap (fun s => s.body.rayEntries))

/-- The part of the table in a field: the table is spread evenly over the fields in service (R119), in whole pairs of entries, so that no ray of two entries lies across two fields (R279). -/
def Block.rayPart (b : Block) (f : Nat) : Nat × Nat :=
  let fs := b.fieldsIn
  let k := fs.findIdx (fun x => x = f)
  if k < fs.length then (2 * (b.rayTable / 2 * k / fs.length), 2 * (b.rayTable / 2 * (k + 1) / fs.length)) else (0, 0)

/-- Free slots from `s` up to below `hi`, for `need` rays of `e` entries each: the entries, and the rays still without any. -/
def freeEntries (used : List Nat) (e hi : Nat) : Nat → Nat → Nat → List Nat → List Nat × Nat
  | 0, _, need, acc => (acc, need)
  | fuel + 1, s, need, acc =>
    if need = 0 ∨ hi < s + e then (acc, need)
    else if (List.range e).all (fun i => !used.contains (s + i)) then
      freeEntries used e hi fuel (s + e) (need - 1) (acc ++ (List.range e).map (fun i => s + i))
    else freeEntries used e hi fuel (s + e) need acc

/-- Entries for `need` rays, a field's own first and then those of F0 to F7. -/
def Block.allocRays (b : Block) (f e need : Nat) : Option (List Nat) :=
  let used := b.rayUsed
  let r := (f :: (List.range 8).filter (fun x => x ≠ f)).foldl (fun (a : List Nat × Nat) x =>
    let part := b.rayPart x
    let got := freeEntries used e part.2 (part.2 - part.1) (ceilDiv part.1 e * e) a.2 []
    (a.1 ++ got.1, got.2)) ([], need)
  if r.2 = 0 then some r.1 else none

/-! ## Forming rays (R285 to R287) -/

/-- The entry words of a BOUND ray. -/
def boundEntry (y : YealmPar) (ordinal : Nat) (q : List Word) (rho : Word) : List Word :=
  let seq := (y.seqBase + ordinal) % 2 ^ 48
  let thr : Word := if y.det then y.thr else 0xFF800000#32
  let pos : Word := if y.posMode then BitVec.ofNat 32 (y.posBase + ordinal) else 0xFFFFFFFF#32
  let q8 := q.take 8
  let head := [BitVec.ofNat 32 (seq / 2 ^ 32 + 65536 * y.kind + 2 ^ 18 * b2n y.det), BitVec.ofNat 32 seq, pos, rho, 0xFF800000#32, thr, 0#32, 0#32] ++ q8
  if y.kind = 2 then head ++ q.drop 8 ++ List.replicate 8 0#32 else head

/-- The entry words of a SPACE ray of o, d, tmin and tmax. -/
def spaceEntry (y : YealmPar) (ordinal : Nat) (v : List Word) : List Word :=
  let seq := (y.seqBase + ordinal) % 2 ^ 48
  [BitVec.ofNat 32 (seq / 2 ^ 32 + 2 ^ 19 * b2n y.cull), BitVec.ofNat 32 seq] ++ v ++ List.replicate 6 0#32

/-- A camera's ray (R287). -/
def cameraRay (y : YealmPar) (p : List Byte) (ordinal : Nat) : List Word :=
  let w (i : Nat) : Word := wordAt p i
  let px := ordinal % camW p
  let py := ordinal / camW p
  let half (x : Nat) : Num := .fin false (2 * x + 1) (-1)
  let a := fsub (fmul (half px) (fdiv (.ofNat 2) (.ofNat (camW p)))) (.ofNat 1)
  let b := fsub (.ofNat 1) (fmul (half py) (fdiv (.ofNat 2) (.ofNat (camH p))))
  let d := (List.range 3).map (fun c => numWord (fadd (fadd (wordF (w (19 + c))) (fmul a (wordF (w (22 + c))))) (fmul b (wordF (w (25 + c))))))
  spaceEntry y ordinal ([w 16, w 17, w 18] ++ d ++ [w 29, w 30])

/-- A raw query projected (R286). -/
def projectQuery (y : YealmPar) (p : List (List Num)) (q : List Num) : List Word × Word :=
  let qs := q.map (fun x => fmul x y.qscale)
  let kh := projectKey p qs
  (kh.map numWord, numWord (residual p qs kh))

/-- The entry that an input row forms. -/
def rowEntry (y : YealmPar) (fmt : Nat) (p : List (List Num)) (ordinal : Nat) (row : List Byte) : List Word :=
  if y.src = 0 then
    let q := projectQuery y p (rowNums ((fmtOf fmt).getD .fp32) y.n row)
    boundEntry y ordinal q.1 q.2
  else if y.src = 1 then
    let d := kindDims y.kind
    boundEntry y ordinal ((List.range d).map (fun i => wordAt row i)) (wordAt row d)
  else spaceEntry y ordinal ((List.range 8).map (fun i => wordAt row i))

/-! ## Sort keys and yealms (R288, R289) -/

/-- Bits of values by planes from the top, value by value within a plane. -/
def planeBits (planes : Nat) (g : List Nat) : Nat :=
  ((List.range planes).flatMap (fun p => g.map (fun v => v / 2 ^ (planes - 1 - p) % 2))).foldl (fun c x => 2 * c + x) 0

/-- min(top, ⌊half × (v ÷ a + 1)⌋), exactly. -/
def dirGrid (half top : Nat) (v a : Num) : Nat := min top (Int.toNat ((half : Int) * (v.fix + a.fix) / a.fix))

/-- The sort key of a ray (R288). -/
def rayKey (kind : Nat) (w : List Word) : Nat :=
  let f (i : Nat) : Num := wordF (w.getD i 0#32)
  let vals := if kind = 0 then (List.range 3).map (fun c => f (5 + c)) else (List.range (kindDims kind)).map (fun d => f (8 + d))
  let a := vals.foldl (fun (m : Num) v => if m.lt v.abs then v.abs else m) Num.zero
  if vals.any Num.isNan || a.isZero || !a.isFin then 0
  else if kind = 0 then
    (List.range 3).foldl (fun n c => 2 * n + b2n (wbit (w.getD (5 + c) 0#32) 31)) 0 * 2 ^ 27 + planeBits 9 (vals.map (fun v => dirGrid 256 511 v a))
  else planeBits 3 ((vals.take (if kind = 1 then 8 else 10)).map (fun v => dirGrid 4 7 v a))

/-- Sequence number of an entry. -/
def entrySeq (w : List Word) : Nat := (w.getD 1 0#32).toNat + 2 ^ 32 * wfield (w.getD 0 0#32) 0 16

/-- The rays of a window in the order of (key, ordinal). -/
def windowOrder (kind : Nat) (rays : List (List Word)) : List Nat :=
  (sortBy (fun (x y : Nat × Nat) => decide (x.1 < y.1) || (decide (x.1 = y.1) && decide (x.2 ≤ y.2)))
    ((List.range rays.length).map (fun i => (rayKey kind (rays.getD i []), i)))).map (fun x => x.2)

/-- Yealms of a window. -/
def YWindow.count (w : YWindow) : Nat := ceilDiv w.rays.length 16

/-! ## The station's state -/

def YealmSt.start : YealmSt :=
  { rows := [], formed := 0, windows := [], opened := 0, asked := none, cohort := 0, pass := 0, window := 0, yealm := 0, total := none }

def Station.yealm (s : Station) : YealmSt := match s.body with | .yealm y => y | _ => YealmSt.start

def Block.modYealm (b : Block) (a : StRef) (f : YealmSt → YealmSt) : Block := b.modSt a (fun s => { s with body := .yealm (f s.yealm) })

/-- Checks of a YEALM station at launch (R282 to R284). -/
def Block.yealmLaunch (b : Block) (r : Run) (i : Nat) (s : Station) : LaunchCheck :=
  let y := yealmPar s.params
  let bad := yealmBad s.params
  let ins := if y.src = 3 then [] else [0]
  let outs := if y.close then [0, 1] else [0]
  let inOk := decide (y.src = 3) || (r.inShape i 0).any y.inputOk
  let out0 := (r.outEdge i 0).any (fun x =>
    decide (x.2.entry.fmt = rawCode ∧ x.2.entry.cols = 64 ∧ 2 + 16 * y.ents ≤ x.2.entry.rows ∧ x.2.entry.dport = 0) &&
    (match r.stations[x.2.entry.dst]? with
    | some t => decide (t.entry.type = .rafter) && (rafterPar t.params).bound == y.bound && (!y.bound || (rafterPar t.params).det == y.det) &&
        ((rafterPar t.params).treeSrc || decide (y.passes = 1))
    | none => false))
  let out1 := !y.close || (r.outShape i 1).any (fun e => decide (e.fmt = rawCode ∧ e.cols = 32))
  { ins := ins, outs := outs,
    cause := lowestCause [(bad || !inOk || !out0 || !out1 || decide (b.rayTable < y.cohort * y.winRays * y.ents), stGraph)] }

/-! ## Windows -/

/-- Rays join the window being formed; a full window is closed. -/
def YealmSt.join (y : YealmSt) (cap : Nat) (rays : List (List Word)) : YealmSt :=
  { y with formed := y.formed + rays.length,
           windows := y.windows.map (fun w => if w.full then w else { w with rays := w.rays ++ rays, full := decide (cap ≤ w.rays.length + rays.length) }) }

/-- Room in the window being formed. -/
def YealmSt.room (y : YealmSt) (cap : Nat) : Nat :=
  match y.windows.find? (fun w => !w.full) with
  | some w => cap - w.rays.length
  | none => 0

/-- The input has closed: the last window keeps the entries that its rays use (R294). -/
def YealmSt.closeInput (y : YealmSt) (e : Nat) : YealmSt :=
  let ws := y.windows.map (fun w => if w.full then w else { w with slots := w.slots.take (e * w.rays.length), full := true })
  { y with windows := ws, total := some y.opened }

/-- The projection matrix, when the station has one. -/
def Block.yealmProj (b : Block) (f t : Nat) (y : YealmPar) : List (List Num) :=
  if y.src = 0 then
    let l := (b.peek f t y.proj (kindDims y.kind * y.n * 4)).1
    (List.range (kindDims y.kind)).map (fun d => rowNums .fp32 y.n (l.drop (4 * y.n * d)))
  else []

/-- Rows of the item in the former become rays while the window has room; with its last row the item's work is done, and the window closes when no further ray can come. -/
def Block.formRays (b : Block) (a : StRef) (r : Run) (s : Station) : Block :=
  let p := yealmPar s.params
  let y := s.yealm
  let n := min (y.room p.winRays) y.rows.length
  let fmt := ((r.inShape a.station 0).map (fun e => e.fmt)).getD 1
  let proj := b.yealmProj s.homeField r.ref.tenant p
  let rays := (List.range n).map (fun i => rowEntry p fmt proj (y.formed + i) (y.rows.getD i []))
  let y1 : YealmSt := { (y.join p.winRays rays) with rows := y.rows.drop n }
  let last : Bool := y1.rows.isEmpty
  let y2 := if s.portClosed 0 && last && decide (s.made = s.dispatched) then y1.closeInput p.ents else y1
  let b1 := if p.src = 0 ∧ n ≠ 0 then b.readAll s.homeField r.ref.tenant [(p.proj, kindDims p.kind * p.n * 4)] else b
  let b2 := (b1.bump (Map.yeaRayCnt s.homeField) n).modYealm a (fun _ => y2)
  if last then (s.active.filter (fun x => !x.done)).foldl (fun (x : Block) i => x.itemDone a i.ordinal) b2 else b2

/-- The projection matrix cannot be read now, or fails: the status. -/
def Block.projStatus (b : Block) (s : Station) (t : Nat) : Option Nat :=
  let p := yealmPar s.params
  if p.src ≠ 0 then some stOk
  else if !b.canRead t p.proj (kindDims p.kind * p.n * 4) then none
  else some (b.peek s.homeField t p.proj (kindDims p.kind * p.n * 4)).2

/-- The rows that the former holds become rays where the window being formed has room for them and memory gives the matrix (R285, R294). -/
def Block.yealmForm (b : Block) (a : StRef) : Block :=
  match b.live a with
  | none => b
  | some (r, s) =>
    let p := yealmPar s.params
    if s.yealm.rows.isEmpty || decide (s.yealm.room p.winRays = 0) then b
    else
      match b.projStatus s r.ref.tenant with
      | none => b
      | some st => if st ≠ stOk then b.killAt a st 0#32 else b.formRays a r s

/-- An item of a YEALM reaches the former: the rows of its tile wait there (R285, R294). -/
def Block.yealmStart (b : Block) (a : StRef) (slots : List (Nat × Operand)) : Block :=
  match slots with
  | (_, .tile t) :: _ =>
    let size := t.cols * elemBytes t.fmt
    (b.modYealm a (fun y => { y with rows := (List.range t.rows).map (fun i => t.row size i) })).yealmForm a
  | [] => b

/-- A YEALM's input has closed: without an item to come or rows left, the last window keeps what its rays use (R294). -/
def Block.yealmClose (b : Block) (a : StRef) : Block :=
  match b.live a with
  | none => b
  | some (_, s) =>
    if s.portClosed 0 && s.yealm.rows.isEmpty && decide (s.made = s.dispatched) then b.modYealm a (fun y => y.closeInput (yealmPar s.params).ents) else b

/-- An input tile of a YEALM has other columns than its edge (R517). -/
def Run.wrongCols (r : Run) (i : Nat) (t : Tile) : Bool := (r.inShape i 0).any (fun e => decide (t.cols ≠ e.cols))

/-- The places of the windows that wait for entries, in the order in which they asked (R294). -/
def Block.asks (b : Block) : List Nat := (b.runs.filter (fun r => r.killed.isNone)).flatMap (fun r => r.stations.filterMap (fun s => s.yealm.asked))

/-- The place of a window that asks now: after every window that waits. -/
def Block.nextAsk (b : Block) : Nat := b.asks.foldl (fun m n => max m (n + 1)) 0

/-- A window that asked before place `n` still waits. -/
def Block.asksBefore (b : Block) (n : Nat) : Bool := b.asks.any (fun x => decide (x < n))

/-- YEALM_WINDOW_ALLOC (R294, R288): the entries of a whole window, and the rays that can be formed at once. -/
def execYealmWindowAlloc (a : StRef) (upsets : List Upset) (s : State) : Host.Outcome State Fault Refusal :=
  lift s (fun b => b.meeting a.tenant upsets (fun b =>
    match b.live a with
    | none => b
    | some (r, st) =>
      let p := yealmPar st.params
      let y := st.yealm
      let rays := camW st.params * camH st.params
      let wants := if p.src = 3 then st.active.any (fun x => !x.done) && decide (y.formed < rays) else !y.rows.isEmpty
      if st.entry.type ≠ .yealm ∨ wants = false then b
      else if y.windows.any (fun w => !w.full) then b.yealmForm a
      else
        let need := if p.src = 3 then min p.winRays (rays - y.formed) else p.winRays
        let n := y.asked.getD b.nextAsk
        let wait (x : Block) : Block := x.modYealm a (fun z => { z with asked := some n })
        if b.asksBefore n then wait b
        else
          match b.projStatus st r.ref.tenant with
          | none => b
          | some stt =>
            if stt ≠ stOk then b.killAt a stt 0#32
            else
              match b.allocRays st.homeField p.ents need with
              | none => wait b
              | some slots =>
                let w : YWindow := { no := y.opened, slots := slots, rays := [], full := false, order := none, tokens := [] }
                let y1 : YealmSt := { y with windows := y.windows ++ [w], opened := y.opened + 1, asked := none }
                if p.src = 3 then
                  let l := (List.range need).map (fun i => cameraRay p st.params (y.formed + i))
                  let y2 := y1.join need l
                  let b2 := (b.bump (Map.yeaRayCnt st.homeField) need).modYealm a (fun _ => { y2 with total := if y2.formed = rays then some y2.opened else none })
                  if y2.formed = rays then st.active.foldl (fun (x : Block) i => x.itemDone a i.ordinal) b2 else b2
                else (b.modYealm a (fun _ => y1)).yealmForm a))

/-- YEALM_WINDOW_SORT (R288, R289). -/
def execYealmWindowSort (a : StRef) (s : State) : Host.Outcome State Fault Refusal :=
  lift s (fun b =>
    match b.live a with
    | none => b
    | some (_, st) =>
      if st.entry.type ≠ .yealm then b
      else
        match st.yealm.windows.find? (fun w => w.full && w.order.isNone) with
        | none => b
        | some w =>
          let o := windowOrder (yealmPar st.params).kind w.rays
          let done : YWindow := { w with order := some o, tokens := List.replicate w.count 0 }
          b.modYealm a (fun y => { y with windows := y.windows.map (fun x => if x.no = w.no then done else x) }))

/-! ## Emission (R290 to R292) -/

/-- The place in the order of R291 that follows the last window of a pass. -/
structure Cursor where
  cohort : Nat
  pass : Nat
  window : Nat
  deriving DecidableEq, Repr

/-- Past the last window of a cohort the next pass begins, or the next cohort. -/
def Cursor.roll (p : YealmPar) (total : Option Nat) (c : Cursor) : Cursor :=
  let first := c.cohort * p.cohort
  if first < c.window ∧ (c.window = first + p.cohort ∨ total = some c.window) then
    (if c.pass + 1 < p.passes then { c with pass := c.pass + 1, window := first } else { cohort := c.cohort + 1, pass := 0, window := first + p.cohort })
  else c

/-- Every window has had its passes. -/
def Cursor.over (p : YealmPar) (total : Option Nat) (c : Cursor) : Bool := total.any (fun t => decide (t ≤ c.cohort * p.cohort))

/-- Tree ordinal of a pass of a cohort (R290). -/
def YealmPar.tree (p : YealmPar) (c : Cursor) : Nat := (p.treeBase + c.cohort * p.passes + c.pass) % 2 ^ 32

/-- The yealm tile of a window's yealm (R291, R292). -/
def yealmTile (p : YealmPar) (c : Cursor) (w : YWindow) (j : Nat) : Tile :=
  let idx := ((w.order.getD []).drop (16 * j)).take 16
  let e := p.ents
  let ray (i : Nat) : List Word := w.rays.getD (idx.getD i 0) []
  let lanes := List.range idx.length
  let gone (x : Word) : Bool := wbit x 20 || wbit x 22
  let valid := sumNat ((lanes.filter (fun i => !gone ((ray i).getD 0 0#32))).map (fun i => 2 ^ i))
  let seq := lanes.foldl (fun m i => min m (entrySeq (ray i))) (entrySeq (ray 0))
  let slots := (List.range 16).map (fun i => if i < idx.length then BitVec.ofNat 32 (w.slots.getD (e * idx.getD i 0) 0) else (0#32 : Word))
  let head : List Word := [BitVec.ofNat 32 (0x594C + 65536 * p.kind), BitVec.ofNat 32 valid, BitVec.ofNat 32 (p.tree c), BitVec.ofNat 32 c.pass, BitVec.ofNat 32 w.no,
    BitVec.ofNat 32 (j + 4096 * w.count), BitVec.ofNat 32 seq, BitVec.ofNat 32 (seq / 2 ^ 32)] ++ List.replicate 8 0#32 ++ slots
  let body := (List.range 16).flatMap (fun i => if i < idx.length then ray i else List.replicate (16 * e) 0#32)
  let data := wordsBytes (head ++ body)
  { fmt := rawCode, ovf := false, unf := false, last := false, flags := 0, rows := 2 + 16 * e, cols := 64, no := 0, dbytes := data.length, seq := seq, data := data }

/-- The place and window that a YEALM station emits from next, where that window is sorted (R291). -/
def YealmSt.next (y : YealmSt) (p : YealmPar) : Option (Cursor × YWindow) :=
  let c0 : Cursor := { cohort := y.cohort, pass := y.pass, window := y.window }
  let c := if y.yealm = 0 then c0.roll p y.total else c0
  (y.windows.find? (fun w => decide (w.no = c.window) && w.order.isSome)).map (fun w => (c, w))

/-- The next yealm's pass before has its token (R291). -/
def YealmSt.hasToken (y : YealmSt) (c : Cursor) (w : YWindow) : Bool := decide (c.pass ≤ w.tokens.getD y.yealm 0)

/-- YEALM_EMIT (R291): the next yealm tile, once its pass before has its token. -/
def execYealmEmit (a : StRef) (s : State) : Host.Outcome State Fault Refusal :=
  lift s (fun b =>
    match b.live a with
    | none => b
    | some (_, st) =>
      let p := yealmPar st.params
      let y := st.yealm
      match y.next p with
      | none => b
      | some (c, w) =>
        if st.entry.type ≠ .yealm ∨ st.ready = false ∨ y.hasToken c w = false then b
        else
          let end_ := decide (w.count ≤ y.yealm + 1)
          let y1 : YealmSt := { y with cohort := c.cohort, pass := c.pass, window := if end_ then c.window + 1 else c.window, yealm := if end_ then 0 else y.yealm + 1 }
          ((b.modYealm a (fun _ => y1)).bump (Map.yeaYealmCnt st.homeField) 1).emit a 0 (yealmTile p c w y.yealm))

/-- The close record of an entry (R293). -/
def closeRow (w : List Word) : List Byte :=
  let g (i : Nat) : Word := w.getD i 0#32
  let kind := wfield (g 0) 16 2
  let w0 := kind + 4 * b2n (wbit (g 0) 20) + 8 * b2n (wbit (g 0) 21) + 16 * b2n (wbit (g 0) 22)
  wordsBytes ([BitVec.ofNat 32 w0, g 1, BitVec.ofNat 32 (wfield (g 0) 0 16)] ++
    (if kind = 0 then [g 9, g 10, 0#32, 0#32] else [g 4, g 5, g 6, g 7]) ++ [0#32])

/-- The station's work is done (R293): no further ray can come, and every window's entries are free. -/
def Station.yealmOver (s : Station) : Bool := s.yealm.total.isSome && s.yealm.windows.isEmpty && s.yealm.rows.isEmpty

/-- COHORT_CLOSE (R293, R186): close records in ascending sequence number, and the cohort's entries are free. -/
def execCohortClose (a : StRef) (s : State) : Host.Outcome State Fault Refusal :=
  lift s (fun b =>
    match b.live a with
    | none => b
    | some (r, st) =>
      let p := yealmPar st.params
      let y := st.yealm
      match y.windows.head? with
      | none => b
      | some w0 =>
        let c := w0.no / p.cohort
        let mine := y.windows.filter (fun w => decide (w.no / p.cohort = c))
        let whole := decide (mine.length = p.cohort) || y.total.any (fun t => decide (t ≤ (c + 1) * p.cohort))
        let closed := mine.all (fun w => w.order.isSome && w.tokens.all (fun t => decide (p.passes ≤ t)))
        if st.entry.type ≠ .yealm ∨ st.ready = false ∨ (whole && closed) = false then b
        else
          let rays := sortBy (fun (x y : List Word) => decide (entrySeq x ≤ entrySeq y)) (mine.flatMap (fun w => w.rays))
          let b1 := b.modYealm a (fun z => { z with windows := z.windows.filter (fun w => decide (w.no / p.cohort ≠ c)) })
          let b2 : Block := match p.close, r.outShape a.station 1 with
            | true, some e =>
              (chunk e.rows rays.length rays).foldl (fun (x : Block) (l : List (List Word)) => x.emit a 1 (rowsTile 32 (entrySeq (l.headD [])) 0 (l.map closeRow))) b1
            | _, _ => b1
          b2.finishWhen a (fun _ s => s.yealmOver))

/-- A completion token reaches its YEALM station (R291). -/
def YealmSt.token (y : YealmSt) (t : Token) : YealmSt :=
  { y with windows := y.windows.map (fun w => if w.no = t.window then { w with tokens := modAt w.tokens t.yidx (fun n => n + 1) } else w) }

end Sys2Proof.Machine
end

