-- ==== Sys2Proof/Machine/Couch.lean ====
section
/-! DEFINITION. COUCH stations: batches, leaf-major records, hit courses and replay (chapter 10). -/
namespace Sys2Proof.Machine

/-! ## Parameters (R297) -/

structure CouchPar where
  replay : Bool
  bitmap : Bool
  course : Bool
  reverse : Bool
  rec_ : Nat
  recLen : Nat
  dir : Nat
  dirLen : Nat
  buf : Nat
  deriving DecidableEq, Repr

def couchPar (p : List Byte) : CouchPar :=
  let w (i : Nat) : Word := wordAt p i
  let ad (i : Nat) : Nat := (w i).toNat + 2 ^ 32 * wfield (w (i + 1)) 0 16
  { replay := wbit (w 0) 0, bitmap := wbit (w 0) 1, course := wbit (w 0) 2, reverse := wbit (w 0) 3, rec_ := ad 1, recLen := (w 3).toNat,
    dir := ad 4, dirLen := (w 6).toNat, buf := wfield (w 7) 0 10 }

def CouchPar.usesCourse (c : CouchPar) : Bool := c.course || c.replay

/-- The parameter block breaks its table (R297). -/
def couchBad (p : List Byte) : Bool :=
  let w (i : Nat) : Word := wordAt p i
  let c := couchPar p
  decide (p.length ≠ 64) || decide (wfield (w 0) 4 28 ≠ 0 ∨ wfield (w 2) 16 16 ≠ 0 ∨ wfield (w 5) 16 16 ≠ 0 ∨ wfield (w 7) 10 22 ≠ 0) ||
  !(List.range 8).all (fun i => w (8 + i) = 0#32) ||
  (if c.replay then c.course || decide (c.buf ≠ 0) else c.reverse || decide (c.buf = 0)) ||
  (if c.usesCourse then decide (c.rec_ % 4096 ≠ 0 ∨ c.recLen % 4096 ≠ 0 ∨ c.dir % 64 ≠ 0 ∨ c.dirLen < 64)
   else !(List.range 6).all (fun i => w (1 + i) = 0#32))

/-- The RAFTER that feeds a COUCH from its port 0. -/
def Run.rafterOf (r : Run) (i : Nat) : Option Nat :=
  (r.inEdge i 0).bind (fun x => match r.stations[x.2.entry.src]? with
    | some s => if s.entry.type = .rafter ∧ x.2.entry.sport = 0 then some x.2.entry.src else none
    | none => none)

/-- The YEALM that a COUCH is bound to at launch (R298): its station and parameters. -/
def Run.boundYealm (r : Run) (i : Nat) : Option (Nat × YealmPar) :=
  ((r.rafterOf i).bind r.yealmOf).bind (fun y => (r.stations[y]?).map (fun s => (y, yealmPar s.params)))

/-- Checks of a COUCH station at launch (R296 to R298). -/
def Run.couchLaunch (r : Run) (i : Nat) (s : Station) : LaunchCheck :=
  let c := couchPar s.params
  let lg := ((r.boundYealm i).map (fun y => y.2.lg)).getD 4
  let need := if c.bitmap then 1 + ceilDiv (2 ^ lg) 256 else 129
  let inOk := c.replay || ((r.inShape i 0).any (fun e => decide (e.fmt = rawCode ∧ e.cols = 32)) && (r.boundYealm i).isSome)
  let outOk := (r.outShape i 0).any (fun (e : EdgeEntry) => decide (e.fmt = rawCode ∧ e.cols = 32 ∧ (need ≤ e.rows ∨ (c.replay = true ∧ c.bitmap = true))))
  { ins := if c.replay then [] else [0], outs := [0],
    cause := lowestCause [(couchBad s.params || !inOk || !outOk || (c.bitmap && !c.replay && decide (12 < lg)), stGraph)] }

/-- Felt bytes of a COUCH's batch buffer (R298). -/
def couchBuffer (p : List Byte) : Nat := (couchPar p).buf * 131072

/-! ## The station's state -/

def CouchSt.start : CouchSt :=
  { batches := [], cohort := 0, pass := 0, window := 0, off := 0, nbatch := 0, header := false, replayed := 0, total := none }

def Station.couch (s : Station) : CouchSt := match s.body with | .couch c => c | _ => CouchSt.start

def Block.modCouch (b : Block) (a : StRef) (f : CouchSt → CouchSt) : Block := b.modSt a (fun s => { s with body := .couch (f s.couch) })

def emptyBatch (window tree field : Nat) : Batch :=
  { window := window, tree := tree, entries := [], spilled := 0, tokens := 0, ycount := 0, declared := 0, field := field }

/-- Changes a batch, which begins when it is first named. -/
def CouchSt.modBatch (c : CouchSt) (window tree field : Nat) (f : Batch → Batch) : CouchSt :=
  let me (x : Batch) : Bool := decide (x.window = window ∧ x.tree = tree)
  if c.batches.any me then { c with batches := c.batches.map (fun x => if me x then f x else x) }
  else { c with batches := c.batches ++ [f (emptyBatch window tree field)] }

/-- A completion token reaches the COUCH that counts it (R299). -/
def CouchSt.token (c : CouchSt) (field : Nat) (t : Token) : CouchSt :=
  c.modBatch t.window t.tree field (fun x => { x with tokens := x.tokens + 1, ycount := t.ycount, declared := x.declared + t.hits })

/-- Hit entries of the buffer that batches hold (R306). -/
def CouchSt.buffered (c : CouchSt) : Nat := sumNat (c.batches.map (fun x => x.entries.length - x.spilled))

/-! ## Ingest (R299, R306) -/

/-- Words of a hit entry. -/
def hitWords (l : List Byte) : List Word := (List.range 8).map (fun i => wordAt l i)
def hitSeq (w : List Word) : Nat := (w.getD 1 0#32).toNat + 2 ^ 32 * wfield (w.getD 2 0#32) 0 16

/-- The window of an entry (R299). -/
def YealmPar.windowOf (y : YealmPar) (seq : Nat) : Nat := (seq + 2 ^ 48 - y.seqBase) % 2 ^ 48 / y.winRays

/-- The entries of an item's hit tile join their batch; beyond the buffer they take Gutter room (R299, R306). -/
def Block.ingest (b : Block) (a : StRef) (ordinal : Nat) : Block :=
    match b.working a ordinal with
    | none => b
    | some (r, st, x) =>
      match st.entry.type, x.tile 0, r.boundYealm a.station with
      | .couch, some t, some (_, y) =>
        let q : HeldQueue := r.heldEdge a.station 0
        let c := st.couch
        let cap := (couchPar st.params).buf * 4096
        let ents := (List.range t.rows).map (fun i => hitWords (t.row 32 i))
        let first := ents.headD []
        let window := y.windowOf (hitSeq first)
        let tree := (first.getD 3 0#32).toNat
        let spill := ents.length - (cap - c.buffered)
        let old := ((c.batches.find? (fun z => decide (z.window = window ∧ z.tree = tree))).map (fun z => z.spilled)).getD 0
        let total := sumNat (c.batches.map (fun z => z.spilled))
        let pages := ceilDiv (total + spill) 128 - ceilDiv total 128
        if b.isHeld a.tenant q then b
        else if spill ≠ 0 ∧ b.gutterSize r.ref.tenant * 128 ≤ old + spill then
          (b.setErrBit (Map.couErr x.field) 0).killAt a stBatch (BitVec.ofNat 32 window)
        else if b.gutterFree r.ref.tenant < pages then b.hold r.ref.tenant q
        else
          let b1 := b.modCouch a (fun z => z.modBatch window tree x.field (fun w => { w with entries := w.entries ++ ents, spilled := w.spilled + spill }))
          ((b1.bump (Map.couHitCnt x.field) ents.length).bump (Map.couSpillCnt x.field) spill).itemDone a ordinal
      | _, _, _ => b

/-- HIT_TILE_INGEST (R299, R306): a Couch port takes the entries of a tile. -/
def execHitTileIngest (a : StRef) (ordinal : Nat) (s : State) : Host.Outcome State Fault Refusal := lift s (fun b => b.ingest a ordinal)

/-! ## Records (R300 to R302) -/

/-- A record header. -/
def recHeader (kind : Nat) (bitmap cont bend empty : Bool) (nent tree : Nat) (item : Word) (seq0 part window rays : Nat) : List Byte :=
  wordsBytes [BitVec.ofNat 32 (kind + 4 * b2n bitmap + 8 * b2n cont + 16 * b2n bend + 32 * b2n empty + 65536 * nent), BitVec.ofNat 32 tree, item,
    BitVec.ofNat 32 seq0, BitVec.ofNat 32 (seq0 / 2 ^ 32), BitVec.ofNat 32 part, BitVec.ofNat 32 window, BitVec.ofNat 32 rays]

/-- Splits sorted entries by item. -/
def byItem : Nat → List (Nat × List Word) → List (List (Nat × List Word))
  | 0, _ => []
  | _ + 1, [] => []
  | fuel + 1, x :: l =>
    let same (e : Nat × List Word) : Bool := decide (e.2.getD 4 0#32 = x.2.getD 4 0#32)
    (x :: l.takeWhile same) :: byItem fuel (l.dropWhile same)

/-- The record entry of a hit. -/
def recEntry (e : Nat × List Word) : List Byte :=
  wordsBytes [BitVec.ofNat 32 (e.1 % 65536), e.2.getD 5 0#32, e.2.getD 6 0#32, e.2.getD 7 0#32]

/-- The bitmap of the rays that hit an item: a number whose bit i is ray index i. -/
def rayMap (l : List (Nat × List Word)) : Nat := l.foldl (fun n e => n ||| 2 ^ e.1) 0

/-- The records of a batch in order, the last with bend set (R300 to R302); `hk` is the hkind of the record of an empty batch, a free value (log entry 70). -/
def batchRecords (bitmap : Bool) (hk : Nat) (y : YealmPar) (x : Batch) : List (List Byte) :=
  let seq0 := (y.seqBase + x.window * y.winRays) % 2 ^ 48
  let idx (w : List Word) : Nat := (hitSeq w + 2 ^ 48 - seq0) % 2 ^ 48
  let le (p q : Nat × List Word) : Bool :=
    let pi := (p.2.getD 4 0#32).toNat
    let qi := (q.2.getD 4 0#32).toNat
    decide (pi < qi) || (decide (pi = qi) && decide (p.1 ≤ q.1))
  let sorted := sortBy le (x.entries.map (fun w => (idx w, w)))
  let items := byItem sorted.length sorted
  if items.isEmpty then [recHeader hk bitmap false true true 0 x.tree 0xFFFFFFFF#32 seq0 0 x.window 0]
  else
    (List.range items.length).flatMap (fun i =>
      let it := items.getD i []
      let h := (it.headD (0, [])).2
      let kind := wfield (h.getD 0 0#32) 0 2
      let item := h.getD 4 0#32
      let lastItem := decide (i + 1 = items.length)
      if bitmap then
        [recHeader kind true false lastItem false 0 x.tree item seq0 0 x.window it.length ++ padTo 32 (leBytes (y.winRays / 8) (rayMap it))]
      else
        let parts := chunk 256 it.length it
        (List.range parts.length).map (fun k =>
          let es := parts.getD k []
          let lastPart := decide (k + 1 = parts.length)
          recHeader kind false (!lastPart) (lastItem && lastPart) false es.length x.tree item seq0 k x.window 0 ++
            padTo 32 (es.flatMap recEntry)))

/-- Whole records packed into tiles of at most `rows` rows of 32 bytes. -/
def packRecords (rows : Nat) : List (List Byte) → List Byte → List (List Byte)
  | [], cur => if cur.isEmpty then [] else [cur]
  | x :: l, cur =>
    if cur.isEmpty then packRecords rows l x
    else if cur.length + x.length ≤ 32 * rows then packRecords rows l (cur ++ x)
    else cur :: packRecords rows l x

/-- Emits the records of a batch; flag [11] marks the tile that ends it (R302). -/
def Block.emitRecords (b : Block) (a : StRef) (rows tree : Nat) (recs : List (List Byte)) : Block :=
  let tiles := packRecords rows recs []
  (List.range tiles.length).foldl (fun (x : Block) i =>
    let d := tiles.getD i []
    x.emit a 0 (rowsTile 32 tree (b2n (decide (i + 1 = tiles.length))) (chunk 32 d.length d))) b

/-- A COURSE kill (table "kill causes laid down in this chapter"). -/
def Block.killCourse (b : Block) (a : StRef) (f region batch : Nat) : Block :=
  (b.setErrBit (Map.couErr f) 1).killAt a stCourse (BitVec.ofNat 32 (2 ^ 31 * region + batch % 2 ^ 31))

/-- Where a COUCH stands, past the ends of passes and cohorts (R299). -/
def CouchSt.cursor (c : CouchSt) (p : YealmPar) (total : Option Nat) : Cursor :=
  ({ cohort := c.cohort, pass := c.pass, window := c.window } : Cursor).roll p total

/-- Windows in all of the YEALM that a COUCH is bound to, once known. -/
def Run.yealmTotal (r : Run) (i : Nat) : Option Nat :=
  ((r.boundYealm i).bind (fun y => r.stations[y.1]?)).bind (fun s => s.yealm.total)

/-- The tree ordinal that the batch of a place carries. -/
def Run.batchTree (r : Run) (i : Nat) (p : YealmPar) (c : Cursor) : Nat :=
  if ((r.rafterOf i).bind (fun j => r.stations[j]?)).any (fun s => (rafterPar s.params).treeSrc) then p.tree c else 0

/-- Every batch has been emitted. -/
def Run.couchOver (r : Run) (i : Nat) (s : Station) : Bool :=
  let p := couchPar s.params
  if p.replay then s.couch.total.any (fun n => decide (n ≤ s.couch.replayed))
  else
    match r.boundYealm i with
    | some (_, y) => r.drained i && (s.couch.cursor y (r.yealmTotal i)).over y (r.yealmTotal i)
    | none => false

/-- The station's work is done: every batch is out, a course's header is written, and every item has completed. -/
def Run.couchEnd (r : Run) (i : Nat) (s : Station) : Bool :=
  r.couchOver i s && s.allDone && (!(couchPar s.params).course || s.couch.header)

/-- The hkind of the record of an empty batch: a free value (log entry 70). -/
def Block.freeKind (b : Block) : Nat := (Config.freeWord b.free).toNat % 4

/-- BATCH_EMIT (R299 to R304, R307): the next batch in order, once it is whole. -/
def execBatchEmit (a : StRef) (upsets : List Upset) (s : State) : Host.Outcome State Fault Refusal :=
  lift s (fun b => b.meeting a.tenant upsets (fun b =>
    match b.live a with
    | none => b
    | some (r, st) =>
      match r.boundYealm a.station, r.outShape a.station 0 with
      | some (_, y), some e =>
        let c := st.couch
        let p := couchPar st.params
        let cur := c.cursor y (r.yealmTotal a.station)
        let tree := r.batchTree a.station y cur
        (match c.batches.find? (fun x => decide (x.window = cur.window ∧ x.tree = tree)) with
        | none => b
        | some x =>
          if st.entry.type ≠ .couch ∨ st.ready = false ∨ x.tokens = 0 ∨ x.tokens < x.ycount ∨ x.entries.length < x.declared then b
          else
            let recs := batchRecords p.bitmap b.freeKind y x
            let bytes := recs.flatMap (fun z => z)
            let dirAt := 64 + 16 * c.nbatch
            let dirEnt := wordsBytes [BitVec.ofNat 32 x.tree, BitVec.ofNat 32 x.window, BitVec.ofNat 32 c.off, BitVec.ofNat 32 bytes.length]
            let done (z0 : Block) : Block :=
              let z : Block := if x.entries.isEmpty then { z0 with free := z0.free + 1 } else z0
              ((z.modCouch a (fun w => { w with batches := w.batches.filter (fun q => !(q.window = x.window && q.tree = x.tree)), cohort := cur.cohort, pass := cur.pass,
                                                window := cur.window + 1, off := w.off + bytes.length, nbatch := w.nbatch + 1 })).bump
                (Map.couRecCnt x.field) recs.length).bump (Map.couBatchCnt x.field) 1
            let out (z : Block) : Block := ((done z).emitRecords a e.rows x.tree recs).finishWhen a (fun r1 s1 => r1.couchEnd a.station s1)
            if !p.course then out b
            else if p.recLen < c.off + bytes.length then b.killCourse a x.field 0 c.nbatch
            else if p.dirLen < dirAt + 16 then b.killCourse a x.field 1 c.nbatch
            else if !b.canWrite r.ref.tenant (p.rec_ + c.off) bytes.length || !b.canWrite r.ref.tenant (p.dir + dirAt) 16 then b
            else
              let w := Block.storeAll x.field r.ref.tenant [(p.rec_ + c.off, bytes), (p.dir + dirAt, dirEnt)] b
              if w.2 ≠ stOk then w.1.killAt a w.2 0#32 else out w.1)
      | _, _ => b))

/-- COURSE_HEADER_WRITE (R304): the header goes last, once every batch is written. -/
def execCourseHeaderWrite (a : StRef) (upsets : List Upset) (s : State) : Host.Outcome State Fault Refusal :=
  lift s (fun b => b.meeting a.tenant upsets (fun b =>
    match b.live a with
    | none => b
    | some (r, st) =>
      let p := couchPar st.params
      let c := st.couch
      if st.entry.type ≠ .couch ∨ p.course = false ∨ c.header = true ∨ r.couchOver a.station st = false then b
      else
        let lg := ((r.boundYealm a.station).map (fun y => y.2.lg)).getD 0
        let hdr := wordsBytes ([BitVec.ofNat 32 (0x4843 + 65536 * b2n p.bitmap), BitVec.ofNat 32 c.nbatch, BitVec.ofNat 32 c.off, BitVec.ofNat 32 lg] ++ List.replicate 12 0#32)
        if !b.canWrite r.ref.tenant p.dir 64 then b
        else
          let w := Block.storeAll st.homeField r.ref.tenant [(p.dir, hdr)] b
          if w.2 ≠ stOk then w.1.killAt a w.2 0#32 else (w.1.modCouch a (fun z => { z with header := true })).finishWhen a (fun r1 s1 => r1.couchEnd a.station s1)))

/-! ## Replay (R305) -/

/-- Whole records of a batch's bytes; what is left makes the last. -/
def cutRecords (bitmap : Bool) (mapBytes : Nat) : Nat → List Byte → List (List Byte)
  | 0, _ => []
  | _ + 1, [] => []
  | fuel + 1, x :: l =>
    let all := x :: l
    let n := if bitmap then 32 + ceilDiv mapBytes 32 * 32 else 32 + ceilDiv (16 * wfield (wordAt all 0) 16 9) 32 * 32
    let size := if wbit (wordAt all 0) 5 then 32 else n
    all.take size :: cutRecords bitmap mapBytes fuel (all.drop size)

/-- REPLAY (R305): the course is checked, and the port that holds the station's item emits its next batch; with the last one the item's work is done. -/
def execReplay (a : StRef) (upsets : List Upset) (s : State) : Host.Outcome State Fault Refusal :=
  lift s (fun b => b.meeting a.tenant upsets (fun b =>
    match b.live a with
    | none => b
    | some (r, st) =>
      let p := couchPar st.params
      let c := st.couch
      let t := r.ref.tenant
      match r.outShape a.station 0, st.active.find? (fun x => !x.done) with
      | some e, some x =>
        let f := x.field
        if st.entry.type ≠ .couch ∨ p.replay = false ∨ st.ready = false ∨ c.total.any (fun n => decide (n ≤ c.replayed)) = true then b
        else if !b.canRead t p.dir 64 then b
        else
          let h := b.peek f t p.dir 64
          let n := (wordAt h.1 1).toNat
          if h.2 ≠ stOk then b.killAt a h.2 0#32
          else if decide (wfield (wordAt h.1 0) 0 16 ≠ 0x4843) || (wbit (wordAt h.1 0) 16 != p.bitmap) || decide (wfield (wordAt h.1 0) 17 1 ≠ 0) || decide (p.dirLen < 64 + 16 * n) then
            b.killCourse a f 1 0
          else if n ≤ c.replayed then (b.modCouch a (fun z => { z with total := some n })).itemDone a x.ordinal
          else
            let k := if p.reverse then n - 1 - c.replayed else c.replayed
            let at_ := p.dir + 64 + 16 * k
            if !b.canRead t at_ 16 then b
            else
              let d := b.peek f t at_ 16
              let off := (wordAt d.1 2).toNat
              let len := (wordAt d.1 3).toNat
              if d.2 ≠ stOk then b.killAt a d.2 0#32
              else if p.recLen < off + len then b.killCourse a f 0 k
              else if !b.canRead t (p.rec_ + off) len then b
              else
                let l := b.peek f t (p.rec_ + off) len
                if l.2 ≠ stOk then b.killAt a l.2 0#32
                else
                  let recs := cutRecords p.bitmap (2 ^ wfield (wordAt h.1 3) 0 5 / 8) len l.1
                  let b1 := b.readAll f t [(p.dir, 64), (at_, 16), (p.rec_ + off, len)]
                  let b2 := ((b1.modCouch a (fun z => { z with replayed := z.replayed + 1, total := some n })).bump (Map.couRecCnt f) recs.length).bump (Map.couBatchCnt f) 1
                  let b3 := b2.emitRecords a e.rows (wordAt d.1 0).toNat recs
                  if n ≤ c.replayed + 1 then b3.itemDone a x.ordinal else b3
      | _, _ => b))

end Sys2Proof.Machine
end

