-- ==== Sys2Proof/Machine/Eave.lean ====
section
/-! DEFINITION. The Eaves: reads and their errors, the write queue, parity, temperature, refresh, scrubbing, retraining, map-out and failing rows (chapter 15). -/
namespace Sys2Proof.Machine

/-! ## Modes and refresh (R426 to R429) -/

/-- A zone of this Eave is being copied away. -/
def Block.migrating (b : Block) (k : Nat) : Bool :=
  b.vat.rows.any (fun r => r.copies.any (fun c => (r.table[c.1]?).any (fun z => z.eave = k)))

/-- The Screen group of the field's stacks is running. -/
def Block.stackGroup (b : Block) (k : Nat) : Bool :=
  match b.screen.groups.get (32 * (k / 3) + 3) with | some (.running _) => true | _ => false

/-- EAV_STATUS.mode (R426): 0 SERVICE, 1 START, 2 TEST, 3 RECOVERY. -/
def Block.eaveMode (b : Block) (k : Nat) : Nat :=
  let e := b.eave k
  if e.start then 1
  else if e.test.isSome || b.stackGroup k then 2
  else if e.pcs.any (fun p => p.2.event.isSome) || e.moves.any (fun m => m.copying) || b.migrating k then 3
  else 0

/-- Refresh rate in force, as EAV_RFSH_CTL.rate: 0 1×, 1 2×, 2 4× (R427, R428). -/
def Block.refreshRate (b : Block) (k : Nat) : Nat := if b.eaveMode k = 0 then (b.eave k).band else 1

/-- The throttle of R428 is in force. -/
def Block.throttled (b : Block) (k : Nat) : Bool := b.eaveMode k ≠ 0 && (b.eave k).hotFlag

/-- The band of a reading, from the band before (table "refresh in SERVICE"). -/
def nextBand (old : Nat) (t : Int) : Nat :=
  if 1520 ≤ t then 2
  else if old = 2 ∧ 1488 ≤ t then 2
  else if 1360 ≤ t then 1
  else if 1 ≤ old ∧ 1328 ≤ t then 1
  else 0

/-- REFRESH (R427, R428): the refreshes owed go out. -/
def execRefresh (k : Nat) (s : State) : Host.Outcome State Fault Refusal :=
  lift s (fun b => b.modEave k (fun e => if e.inService && !e.selfRefresh then { e with owed := 0 } else e))

/-- SELF_REFRESH_ENTRY (R429): 200,000 CK_MESH cycles without a request and without a window. -/
def execSelfRefreshEntry (k : Nat) (s : State) : Host.Outcome State Fault Refusal :=
  lift s (fun b =>
    let e := b.eave k
    let busy := !e.reads.isEmpty || !e.wq.isEmpty || !e.par.isEmpty || e.window.isSome || e.test.isSome
    if e.inService && !e.selfRefresh && decide (b.eaveMode k = 0) && !busy && decide (200000 ≤ b.meshSince e.idleAt) then
      b.modEave k (fun x => { x with selfRefresh := true })
    else b)

/-! ## Retraining events (R432, R434) -/

/-- STACK_TEMPERATURE_READ (R426 to R428, R432): the band, the high-temperature flag, and an event where the reading has moved by 10.0 °C. -/
def execStackTemperatureRead (k : Nat) (temp : BitVec 12) (s : State) : Host.Outcome State Fault Refusal :=
  lift s (fun b =>
    let e := b.eave k
    if !e.resetN || decide (24 ≤ k) || decide (b.now < e.tempAt + 2000) then b
    else
      let t := tempOf temp
      let hot := if 1360 ≤ t then true else if t < 1328 then false else e.hotFlag
      let moved (p : Pc) : Bool := decide (160 ≤ (t - tempOf p.trainedTemp).natAbs)
      let pcs : Kv Nat Pc := e.pcs.map (fun x => (x.1, if b.atWork && e.inService && moved x.2 then x.2.startEvent else x.2))
      let b1 := b.modEave k (fun x => { x with temp := temp, tempAt := b.now, hotFlag := hot, band := nextBand x.band t, pcs := pcs })
      if hot && !e.hotFlag then b1.setErrBit (Map.eavErr k) 7 else b1)

/-! ## The parity granules (R422) -/

/-- PARITY_DIFFERENCE (R422, R424): the oldest difference is applied, once the write queue of its sector has a place. -/
def execParityDifference (k : Nat) (s : State) : Host.Outcome State Fault Refusal :=
  lift s (fun b => if (b.eave k).par.head?.any (fun d => b.queueOpen d.1) then b.applyDiff k else b)

/-- WRITE_QUEUE_DRAIN (R417, R424, R430, R433): the oldest sector that no window holds goes to the stack, and its row is opened (R501). -/
def execWriteQueueDrain (k : Nat) (s : State) : Host.Outcome State Fault Refusal :=
  lift s (fun b => b.drainOne k)

/-- EAVE_STORE (R417): bytes of one sector enter the write queue of an Eave, a part of a sector by a merge, whose read may meet errors. `addr` is pseudo-channel and offset. -/
def execEaveStore (k addr : Nat) (l : List Byte) (errs : List StackErr) (s : State) : Host.Outcome State Fault Refusal :=
  lift s (fun b =>
    let pa := physStack k (bits addr 39 6) (addr % 2 ^ 39)
    if !b.atWork || !b.eaveIn k || l.isEmpty || decide (64 < pa % 64 + l.length) || decide (1024 ≤ (b.eave k).wq.length) then b
    else ((errs.foldl Block.meetStack b).writeSector pa l).1)

/-! ## Zones that move (R435 to R437) -/

/-- The part of poisoned ranges inside a range, moved to another base. -/
def poisonMoved (l : List (Nat × Nat)) (lo n to_ : Nat) : List (Nat × Nat) :=
  l.filterMap (fun r =>
    let a := max r.1 lo
    let z := min r.2 (lo + n)
    if a < z then some (a - lo + to_, z - lo + to_) else none)

def zoneBytes : Nat := 1048576
/-- Physical address of a zone. -/
def Zone.base (z : Zone) : Nat := physStack z.eave z.pc (z.idx * zoneBytes)

/-- The cells of a range, by offset. -/
def Mem.cellsIn (m : Mem) (lo n : Nat) : List (Nat × Byte) :=
  (m.filter (fun c => decide (lo ≤ c.1 ∧ c.1 < lo + n))).map (fun c => (c.1 - lo, c.2))

/-- A zone's bytes and marks move to another zone. -/
def Block.moveZone (b : Block) (z y : Zone) : Block :=
  let cells := b.mem.cellsIn z.base zoneBytes
  let m := (b.mem.clear z.base zoneBytes).clear y.base zoneBytes
  { b with
    mem := cells.foldl (fun (m : Mem) c => m.write (y.base + c.1) c.2) m
    poison := poisonMoved b.poison z.base zoneBytes y.base ++ poisonDel (poisonDel b.poison z.base zoneBytes) y.base zoneBytes }

/-- Free zones of a pseudo-channel. -/
def Block.freeZones (b : Block) (k p : Nat) : Nat := b.zones - (b.vat.zonesUsed k p).length

/-- A pseudo-channel in service and not FAILING. -/
def Block.pcGood (b : Block) (k p : Nat) : Bool :=
  b.pcIn k p && (match ((b.eave k).pc p).health with | .failing => false | _ => true)

/-- Where a replacement zone of a column may lie (R435). -/
def ZRow.mayReplace (r : ZRow) (col k : Nat) : Bool :=
  match r.kind with
  | .near f => decide (k / 3 = f)
  | .spread => true
  | .parity =>
    (List.range 16).all (fun j =>
      let c := col / 16 * 16 + j
      decide (c = col) || !((r.table[c]?).any (fun z => z.eave = k) || r.copies.any (fun x => decide (x.1 = c ∧ x.2.eave = k))))

/-- The replacement zone of a column: most free zones, on a tie the lowest (Eave, pseudo-channel) (R435). -/
def Block.replacement (b : Block) (r : ZRow) (col : Nat) : Option Zone :=
  let cands := (List.range 24).flatMap (fun k => if r.mayReplace col k then
    ((List.range 64).filter (fun p => b.pcGood k p && decide (0 < b.freeZones k p))).map (fun p => (k, p)) else [])
  let best := cands.foldl (fun (m : Option (Nat × Nat)) c => match m with
    | some x => if b.freeZones x.1 x.2 < b.freeZones c.1 c.2 then some c else m
    | none => some c) none
  best.bind (fun c => b.freeZone c.1 c.2)

/-- A sheet may leave stack memory with quotas not applied (section "When no free zone remains"). -/
def Block.mayEmpty (b : Block) (s : Sheet) : Bool :=
  match s.place with
  | .stack r j => !s.spar && s.paging.isNone && s.evict.isNone && !b.sheetBusy r j && (s.farCopy.isSome || b.vat.takeFar.isSome)
  | _ => false

/-- The next victim of R403 goes to the far tier at once, and rows left empty give back their zones. -/
def Block.emptyOne (b : Block) : Option Block :=
  match (sortBy (fun x y => keyLe (b.victimKey x) (b.victimKey y)) (b.vat.sheets.filter b.mayEmpty)).head? with
  | none => none
  | some s =>
    match s.place, (match s.farCopy with | some d => some d | none => b.vat.takeFar) with
    | .stack _ _, some d =>
      let b1 := (b.xlateDrop s.tenant s.num).leaveStack s { dev := d.1, slot := d.2, since := b.now, removed := true, clean := s.farCopy.isSome && !s.dirty }
      some { b1 with vat := b1.vat.dropRows }
    | _, _ => none

/-- A free zone for a column, after emptying rows where none is free; `fuel` is the number of sheets. -/
def Block.findZone (id col : Nat) : Nat → Block → Block × Option Zone
  | fuel, b =>
    match b.vat.row id with
    | none => (b, none)
    | some r =>
      match b.replacement r col with
      | some z => (b, some z)
      | none =>
        match fuel with
        | 0 => (b, none)
        | n + 1 => (match b.emptyOne with | some b1 => Block.findZone id col n b1 | none => (b, none))

/-- Rows and columns with an entry on a pseudo-channel, in ascending zone index (R435). -/
def Vat.entriesOn (v : Vat) (k p : Nat) : List (Nat × Nat × Nat) :=
  sortBy (fun (x y : Nat × Nat × Nat) => decide (x.1 ≤ y.1)) (v.rows.flatMap (fun r =>
    (List.range r.table.length).filterMap (fun c => match r.table[c]? with
      | some z => if z.eave = k ∧ z.pc = p then some (z.idx, r.id, c) else none
      | none => none)))

/-- One zone of a FAILING pseudo-channel begins to be copied (R435). -/
def Block.beginCopy (b : Block) (k id col : Nat) : Block :=
  let r := Block.findZone id col b.vat.sheets.length b
  match r.2 with
  | some z => (({ r.1 with mem := r.1.mem.clear z.base zoneBytes, poison := poisonDel r.1.poison z.base zoneBytes } : Block)).modRow id
      (fun x => { x with copies := x.copies ++ [(col, z)] })
  | none => if (r.1.vat.row id).isSome then r.1.setErrBit (Map.eavErr k) 6 else r.1

/-- The pseudo-channel of an event record: Eave and pseudo-channel (table "event data for stack events"). -/
def pcWord (k p : Nat) : Word := BitVec.ofNat 32 (k + 32 * p)

/-- A CAPACITY event to the admin tenant (R441). -/
def Block.capacityEvent (b : Block) (slots cause k p : Nat) : Block :=
  b.tenantEvent 0 evCapacity [BitVec.ofNat 32 slots, BitVec.ofNat 32 cause, pcWord k p, BitVec.ofNat 32 b.zoneMiB]

/-- A FAILING pseudo-channel with no entry left is mapped out (R435). -/
def Block.mapOut (b : Block) (k p : Nat) : Block :=
  if (b.vat.entriesOn k p).isEmpty && decide (((b.eave k).pc p).health = .failing) then
    (b.modEave k (fun e => e.modPc p (fun x => { x with health := .mappedOut, event := none }))).capacityEvent 0 2 k p
  else b

/-- A pseudo-channel becomes FAILING: its zones begin to move (R434, R435). -/
def Block.failPc (b : Block) (k p : Nat) : Block :=
  let b1 := (b.modEave k (fun e => e.modPc p (fun x => { x with health := .failing, event := none }))).setErrBit (Map.eavErr k) 2
  let b2 := (b1.vat.entriesOn k p).foldl (fun (x : Block) e => x.beginCopy k e.2.1 e.2.2) b1
  b2.mapOut k p

/-- Tenants learn of the sheets of a row that lose granules (R437). -/
def Block.rowLost (b : Block) (id k p : Nat) : Block :=
  (b.vat.sheets.filter (fun s => match s.place with | .stack r _ => decide (r = id) | _ => false)).foldl
    (fun (x : Block) s => x.sheetLost s.tenant s.num 2 (k + 32 * p)) b

/-- The other zones of a column's PARITY group. -/
def ZRow.mates (r : ZRow) (col : Nat) : List Zone :=
  ((List.range 16).filter (fun j => j ≠ col % 16)).filterMap (fun j => r.table[col / 16 * 16 + j]?)

/-- A zone on a dead pseudo-channel. -/
def Block.zoneDead (b : Block) (z : Zone) : Bool := decide (((b.eave z.eave).pc z.pc).health = .dead)

/-- A fresh zone takes a dead zone's place: rebuilt in a PARITY row, else wholly poisoned (R437). -/
def Block.replaceDead (b : Block) (k p id col : Nat) : Block :=
  let found := Block.findZone id col b.vat.sheets.length b
  let b0 := found.1
  match b0.vat.row id with
  | none => b0
  | some r =>
    let mates := r.mates col
    let rebuilds := decide (r.kind = .parity) && decide (mates.length = 15) && mates.all (fun z => !b0.zoneDead z)
    match found.2 with
    | none => (b0.rowLost id k p).setErrBit (Map.eavErr k) 6
    | some y =>
      let old : Nat := match r.table[col]? with | some z => z.base | none => 0
      let b1 : Block := { b0 with mem := (b0.mem.clear old zoneBytes).clear y.base zoneBytes,
                                  poison := poisonDel (poisonDel b0.poison old zoneBytes) y.base zoneBytes }
      let b2 := b1.modRow id (fun x => { x with table := modAt x.table col (fun _ => y), copies := x.copies.filter (fun c => c.1 ≠ col) })
      if rebuilds then
        let cells := mates.flatMap (fun z => b2.mem.cellsIn z.base zoneBytes)
        let bad := mates.flatMap (fun z => poisonMoved b2.poison z.base zoneBytes y.base)
        let b3 : Block := { b2 with mem := cells.foldl (fun (m : Mem) c => m.write (y.base + c.1) (m.read (y.base + c.1) ^^^ c.2)) b2.mem,
                                    poison := bad ++ b2.poison }
        b3.bump (Map.eavParRebuild y.eave) 2048
      else ({ b2 with poison := poisonAdd b2.poison y.base zoneBytes } : Block).rowLost id k p

/-- Columns whose copy goes to a pseudo-channel while their own zone is on another: row, column and the zone's Eave. -/
def Vat.copiesTo (v : Vat) (k p : Nat) : List (Nat × Nat × Nat) :=
  v.rows.flatMap (fun r => r.copies.filterMap (fun c =>
    if c.2.eave = k ∧ c.2.pc = p then (r.table[c.1]?).bind (fun z => if z.eave = k ∧ z.pc = p then none else some (r.id, c.1, z.eave)) else none))

/-- The zones of a pseudo-channel that is DEAD are replaced (R437); copies that went to it begin again elsewhere (R435). -/
def Block.losePc (b : Block) (k p : Nat) : Block :=
  let drop (r : ZRow) : ZRow := { r with copies := r.copies.filter (fun c => !(decide (c.2.eave = k ∧ c.2.pc = p))) }
  let b1 := ((b.drainPar).modEave k (fun e => e.modPc p (fun x => { x with health := .dead, event := none }))).setErrBit (Map.eavErr k) 3
  let b2 : Block := { b1 with vat := { b1.vat with rows := b1.vat.rows.map drop } }
  let b3 := (b2.vat.entriesOn k p).foldl (fun (x : Block) e => x.replaceDead k p e.2.1 e.2.2) b2
  (b1.vat.copiesTo k p).foldl (fun (x : Block) e => x.beginCopy e.2.2 e.1 e.2.1) b3

/-- A pseudo-channel is DEAD (R434, R441). -/
def Block.killPc (b : Block) (k p : Nat) : Block := (b.losePc k p).capacityEvent 0 3 k p

/-- A stack leaves service with data in it: 64 DEAD pseudo-channels (R437, R441). -/
def Block.loseStack (b : Block) (k : Nat) : Block :=
  let mine (p : Nat) : Bool := decide (((b.eave k).pc p).health = .good ∨ ((b.eave k).pc p).health = .failing)
  (((List.range 64).filter mine).foldl (fun (x : Block) p => x.losePc k p) b).capacityEvent 0 4 k 0

/-- The stacks that were in service in another block and are not in this one. -/
def Block.loseStacks (b old : Block) : Block :=
  ((List.range 24).filter (fun k => (old.eave k).inService && !(b.eave k).inService)).foldl (fun (x : Block) k => x.loseStack k) b

/-- One codeword that a scrub or a copy finds in error, or a tag that differs, or errors in the metadata (R415, R416). -/
def Block.scrubHit (k seg : Nat) (b : Block) (h : ScrubHit) : Block :=
  if !b.pcIn k h.pc then b
  else if h.slot = 28 then b.tagLost k h.pc seg
  else if 29 ≤ h.slot then b.decodeMeta k h.pc seg h.errs h.sticks
  else (b.decodeSector k (physStack k h.pc ((28 * seg + h.slot) * 64)) h.errs h.sticks).1

/-- ZONE_COPY_DONE (R415, R416, R433, R435, R436, R439): outside the windows of its pseudo-channel the copy reads codewords and metadata, segment by segment; one that has passed its check takes the entry, in ascending zone index; the pseudo-channel is mapped out with its last zone. -/
def execZoneCopyDone (id col : Nat) (hits : SegHits) (passed : Bool) (s : State) : Host.Outcome State Fault Refusal :=
  lift s (fun b =>
    match b.vat.row id with
    | none => b
    | some r =>
      match r.table[col]?, r.copies.find? (fun c => c.1 = col) with
      | some z, some c =>
        let first (e : Nat × Nat × Nat) : Bool := decide (z.idx ≤ e.1) ||
          !((b.vat.row e.2.1).any (fun x => x.copies.any (fun y => y.1 = e.2.2)))
        let inside (h : Nat × ScrubHit) : Bool := decide (h.1 * 1792 < (z.idx + 1) * zoneBytes ∧ z.idx * zoneBytes < (h.1 + 1) * 1792)
        if !(b.vat.entriesOn z.eave z.pc).all first || (b.eave z.eave).holds z.pc then b
        else if !passed then (hits.filter inside).foldl (fun (x : Block) h => Block.scrubHit z.eave h.1 x { h.2 with pc := z.pc }) b
        else
          let b0 := (hits.filter inside).foldl (fun (x : Block) h => Block.scrubHit z.eave h.1 x { h.2 with pc := z.pc }) b
          let b1 := (b0.drainPar).moveZone z c.2
          let b2 := b1.modRow id (fun x => { x with table := modAt x.table col (fun _ => c.2), copies := x.copies.filter (fun y => y.1 ≠ col) })
          let inZone (x : Nat × Nat) : Bool := decide (x.1 = z.pc ∧ x.2 / 256 = z.idx)
          let moved := ((b2.eave z.eave).retiring.filter inZone).map (fun x => (c.2.pc, x.2 % 256 + 256 * c.2.idx))
          let b3 := (b2.modEave z.eave (fun e => { e with retiring := e.retiring.filter (fun x => !inZone x) })).modEave c.2.eave
            (fun e => { e with retiring := e.retiring ++ moved })
          let b4 := (b3.vat.sheets.filter (fun s => match s.place with | .stack r _ => decide (r = id) | _ => false)).foldl
            (fun (x : Block) s => x.xlateDrop s.tenant s.num) b3
          b4.mapOut z.eave z.pc
      | _, _ => b)

/-! ## Failing rows (R438, R439) -/

/-- ROW_REMAP_DONE (R415, R416, R433, R438): outside the windows of its pseudo-channel the copy reads the row's codewords and metadata, and a failure there joins it; once it has passed its check the row is redirected to its spare and stands in the repair log with its count. -/
def execRowRemapDone (k p seg : Nat) (hits : List ScrubHit) (passed : Bool) (s : State) : Host.Outcome State Fault Refusal :=
  lift s (fun b0 =>
    let mine (m : RowMove) : Bool := decide (m.pc = p ∧ m.seg = seg) && m.copying
    match (b0.eave k).moves.find? mine with
    | none => b0
    | some m =>
      if (b0.eave k).holds p then b0 else
      let b := hits.foldl (fun (x : Block) h => Block.scrubHit k seg x { h with pc := p }) b0
      if !passed then b else
      let log (e : Eave) : List (Nat × Nat × Nat) := e.log.filter (fun x => !(decide (x.1 = p ∧ x.2.1 = seg))) ++ [(p, seg, m.count)]
      let done (x : RowMove) : RowMove := if mine x then { x with copying := false } else x
      let again (r : EaveRead) : EaveRead := if pcOf r.addr = p ∧ segOf r.addr = seg then { r with at_ := b.now } else r
      let b1 := b.modEave k (fun e => { e with moves := e.moves.map done, log := log e, reads := e.reads.map again })
      (b1.bump (Map.eavRemapCnt k) 1).setErrBit (Map.eavErr k) 4)

/-- A sheet moves to a free slot of the same kind of row, with its marks (R436, R439). Where there is none it stays. -/
def Block.migrateSlot (b : Block) (row slot : Nat) : Block :=
  match b.vat.row row with
  | none => b
  | some r =>
    let holder (x : Sheet) : Bool := (match x.place with | .stack i j => decide (i = row ∧ j = slot) | _ => false) ||
      x.paging.any (fun p => decide (p.dst = some (row, slot)))
    match b.vat.sheets.find? holder with
    | none => b
    | some s =>
      match b.takeSlot r.kind with
      | none => b
      | some (b1, i, j) =>
        match b1.vat.row i with
        | none => b
        | some y =>
          let cells := b1.slotCells row slot
          let marks := if b1.poison.isEmpty then [] else
            (List.range 4096).flatMap (fun g => poisonMoved b1.poison (r.phys slot (512 * g)) 512 (y.phys j (512 * g)))
          let b2 := (b1.clearSlot i j).putSlot i j cells
          let b3 : Block := { b2 with poison := marks ++ b2.poison }
          (b3.xlateDrop s.tenant s.num).modSheet s.tenant s.num (fun x => { x with
            place := (match x.place with | .stack _ _ => .stack i j | q => q)
            paging := x.paging.map (fun p => if p.dst = some (row, slot) then { p with dst := some (i, j) } else p) })

/-- PAGE_RETIRE (R415, R433, R439): outside the windows of the pseudo-channel, once the copies have passed their check, the slots that hold a granule of the page are never used again, and their sheets have moved. -/
def execPageRetire (k : Nat) (passed : Bool) (s : State) : Host.Outcome State Fault Refusal :=
  lift s (fun b =>
    match (b.eave k).retiring with
    | [] => b
    | (p, page) :: rest =>
      let pa := physStack k p (page * pageBytes)
      let waits := match b.vat.zoneAt pa with | some (r, c) => r.copies.any (fun x => x.1 = c) | none => false
      if waits || !passed || (b.eave k).holds p then b
      else
        let slots := (((List.range 8).filterMap (fun g => (b.vat.slotOf (pa + 512 * g)).map (fun x => (x.1, x.2.1)))).eraseDups).filter
          (fun x => !(b.vat.row x.1).any (fun r => r.retired.contains x.2))
        let b1 := b.modEave k (fun e => { e with retiring := rest, retired := e.retired ++ [(p, page)] })
        let b2 := slots.foldl (fun (x : Block) y => x.modRow y.1 (fun r => { r with retired := r.retired ++ [y.2] })) b1
        let b3 := slots.foldl (fun (x : Block) y => x.migrateSlot y.1 y.2) b2
        (b3.setErrBit (Map.eavErr k) 5).capacityEvent slots.length 1 k p)

/-! ## Reads (R415, R417, R423 to R425) -/

/-- Changes the READ packet that a read is for. -/
def Block.modJob (b : Block) (r : EaveRead) (f : ReadJob → ReadJob) : Block := { b with reads := b.reads.map (fun j => if j.req = r.req then f j else j) }

/-- The piece of a READ's data that comes from a sector. -/
def Block.jobPiece (b : Block) (j : ReadJob) (sector : Nat) : Option (Nat × Nat) :=
  (pieces j.pkt.addr j.data.length).find? (fun p => match b.vat.translate j.tenant p.1 .load with | .ok pa => decide (sectorOf pa = sector) | _ => false)

/-- A requester's read answers UNCORRECTABLE. -/
def Block.readFails (b : Block) (r : EaveRead) : Block :=
  match r.req with
  | .seat n num => b.modOp n num (fun o => if o.status = stOk then { o with status := stUncorrectable } else o)
  | .lath c _ op => b.modCore c (fun x => { x with ops := x.ops.map (fun o => if o.id = op ∧ o.status = stOk then { o with status := stUncorrectable } else o) })
  | .packet _ _ _ => b.modJob r (fun j =>
      match b.jobPiece j r.addr with
      | some p => { j with data := j.data.take (p.1 - j.pkt.addr), fail := some stUncorrectable }
      | none => j)

/-- Bytes taken from a range of a tenant's space, of which those from a sector change with the sector. -/
def Block.patchBytes (b : Block) (t va sector : Nat) (diff l : List Byte) : List Byte :=
  (pieces va l.length).foldl (fun d p => match b.vat.translate t p.1 .load with
    | .ok pa => if sectorOf pa = sector then
        overlay d (p.1 - va) (xorBytes (sliceBytes d (p.1 - va) p.2) (sliceBytes diff (pa % 64) p.2)) else d
    | _ => d) l

/-- The values that an operation's lanes will receive, changed by their addresses. -/
def LOp.patch (o : LOp) (f : Nat → List Byte → List Byte) : LOp :=
  let fix (v : Nat × Nat × List Byte) : Nat × Nat × List Byte := match o.ranges.find? (fun q => q.1 = v.1) with
    | some q => (v.1, v.2.1, f q.2.1 v.2.2)
    | none => v
  match o.kind with
  | .load l => { o with kind := .load (l.map fix) }
  | _ => o

/-- Data that a LOAD, a READ packet or a Lath core has taken from a sector changes with the sector. -/
def Block.patchLoad (b : Block) (r : EaveRead) (diff : List Byte) : Block :=
  match r.req with
  | .seat n num =>
    (match b.owner n with
    | some t => b.modOp n num (fun o => { o with data := b.patchBytes t o.addr r.addr diff o.data })
    | none => b)
  | .packet _ _ _ => b.modJob r (fun j => { j with data := b.patchBytes j.tenant j.pkt.addr r.addr diff j.data })
  | .lath c _ op => b.modCore c (fun x =>
      match x.launch with
      | none => x
      | some l =>
        let t := l.run.tenant
        { x with ops := x.ops.map (fun o => if o.id = op then o.patch (fun va d => b.patchBytes t va r.addr diff d) else o)
                 lines := x.lines.map (fun y => if y.run = l.run then { y with data := b.patchBytes t y.addr r.addr diff y.data } else y) })

/-- A read can go out now: it is not in its hold queue, and its address is served. -/
def Eave.canIssue (e : Eave) (r : EaveRead) : Bool := !r.held && e.serves r.addr

/-- A read needs another row than the one open in a read's bank. -/
def Eave.misses (e : Eave) (r q : EaveRead) : Bool := !q.held && !e.rowHit q.addr && decide (bankKey q.addr = bankKey r.addr)

/-- It is a read's turn in its bank (R501): a read of the open row passes older ones 16 times each; any other read follows those of the open row, unless it has been passed so often, and the older ones of its bank. -/
def Eave.myTurn (e : Eave) (index : Nat) (r : EaveRead) : Bool :=
  let older := e.reads.take index
  if e.rowHit r.addr then !older.any (fun q => e.misses r q && decide (16 ≤ q.passed))
  else (decide (16 ≤ r.passed) || !e.hitWaits r.addr) && !older.any (fun q => e.misses r q)

/-- The reads left when one has gone out: older ones of its bank that need another row have been passed once more. -/
def Eave.readsAfter (e : Eave) (index : Nat) (r : EaveRead) : List EaveRead :=
  ((e.reads.take index).map (fun q => if e.rowHit r.addr && e.misses r q then { q with passed := q.passed + 1 } else q)) ++ e.reads.drop (index + 1)

/-- A read answers UNCORRECTABLE, unless its sector is rebuilt from its PARITY group (R422). -/
def Block.rebuildOrFail (b : Block) (r : EaveRead) : Block :=
  match b.rebuild r.addr with
  | some b1 => b1
  | none => b.readFails r

/-- EAVE_READ (R415, R417, R422, R423, R501): a read whose turn it is goes out, its codeword is decoded, and it is answered; a sector in the write queue is served from it, and a poisoned one is UNCORRECTABLE. `mates` are errors that the reads of a rebuild meet. -/
def execEaveRead (k index : Nat) (errs : SymErrs) (sticks : Bool) (mates : List StackErr) (s : State) : Host.Outcome State Fault Refusal :=
  lift s (fun b =>
    match (b.eave k).reads[index]? with
    | none => b
    | some r =>
      if !(b.eave k).canIssue r || !(b.eave k).myTurn index r then b
      else
        let b1 := (b.modEave k (fun e => (({ e with reads := e.readsAfter index r, idleAt := b.now } : Eave)).modPc (pcOf r.addr) (fun p => { p with timeouts := 0 }))).openRowOf k r.addr
        if b1.sectorBad r.addr then (mates.foldl Block.meetStack b1).rebuildOrFail r
        else if (b1.eave k).wq.contains (sectorOf r.addr) then b1
        else
          let d := b1.decodeSector k r.addr errs sticks
          if d.2.2 then (mates.foldl Block.meetStack d.1).rebuildOrFail r
          else if d.2.1.all (fun y => y = 0#8) then d.1 else d.1.patchLoad r d.2.1)

/-- STACK_RESPONSE_TIMEOUT (R422, R425, R434, R10): the read is held and an event starts; at the second expiry it is answered or rebuilt, and a FAILING pseudo-channel is DEAD. `mates` are errors that the reads of a rebuild meet. -/
def execStackResponseTimeout (k index : Nat) (mates : List StackErr) (s : State) : Host.Outcome State Fault Refusal :=
  lift s (fun b =>
    match (b.eave k).reads[index]?, b.start.img with
    | some r, some g =>
      if !(b.eave k).canIssue r || decide (b.meshSince r.at_ < g.stackTo) then b
      else
        let p := pcOf r.addr
        let b1 := b.setErrBit (Map.eavErr k) 1
        if r.tries = 0 then
          b1.modEave k (fun e => (({ e with reads := modAt e.reads index (fun x => { x with tries := 1, held := true }) } : Eave)).modPc p
            (fun x => ({ x with timeouts := x.timeouts + 1 } : Pc).startEvent))
        else
          let b2 := (b1.modEave k (fun e => (({ e with reads := e.reads.eraseIdx index } : Eave)).modPc p (fun x => { x with timeouts := x.timeouts + 1 }))).bump (Map.eavTimeoutCnt k) 1
          let b3 := (mates.foldl Block.meetStack b2).rebuildOrFail r
          if ((b3.eave k).pc p).health = .failing then b3.killPc k p else b3
    | _, _ => b)

/-! ## Retraining windows (R433, R434) -/

/-- RETRAINING_WINDOW_OPEN (R433, R434): one pseudo-channel of the stack, windows of an event 400,000 CK_MESH cycles apart; refreshes owed go out first. -/
def execRetrainingWindowOpen (k p : Nat) (s : State) : Host.Outcome State Fault Refusal :=
  lift s (fun b =>
    let e := b.eave k
    match (e.pc p).event with
    | none => b
    | some (n, last) =>
      if !b.atWork || !b.eaveIn k || e.window.isSome || e.test.isSome || (decide (n ≠ 0) && decide (b.meshSince last < 400000)) then b
      else
        b.modEave k (fun x => { x with window := some (p, b.now), owed := 0, selfRefresh := false, idleAt := b.now,
                                       reads := x.reads.map (fun r => if pcOf r.addr = p then { r with held := true } else r) }))

/-- RETRAINING_WINDOW_END (R433, R434): held requests go out in order, refreshes owed follow, and the fourth window that fails makes the pseudo-channel FAILING. -/
def execRetrainingWindowEnd (k : Nat) (passed : Bool) (s : State) : Host.Outcome State Fault Refusal :=
  lift s (fun b =>
    match (b.eave k).window with
    | none => b
    | some (p, _) =>
      let mine (r : EaveRead) : Bool := decide (pcOf r.addr = p)
      let hold := ((b.eave k).reads.filter mine).foldl (fun m r => max m (b.meshSince r.at_)) 0
      let n := match ((b.eave k).pc p).event with | some (n, _) => n + 1 | none => 1
      let after (x : Pc) : Pc := if passed then { x with event := none, corr := [], trainedTemp := (b.eave k).temp, timeouts := 0 }
                                 else { x with event := some (n, b.now) }
      let free (e : Eave) : Eave := { e with window := none, owed := 0, idleAt := b.now,
                                             reads := e.reads.map (fun r => if mine r then { r with held := false, at_ := b.now } else r) }
      let b1 := b.modEave k (fun e => (free e).modPc p after)
      let b2 := (b1.bump (Map.eavRetrainCnt k) 1).bumpMax (Map.eavHoldMax k) hold
      if !passed && decide (4 ≤ n) then b2.failPc k p else b2)

/-! ## Scrubbing (R431) -/

/-- Logical row segments of a pseudo-channel's zones. -/
def Block.segsOf (b : Block) : Nat := ceilDiv (b.zones * zoneBytes) 1792

/-- SCRUB (R431, R415): one logical row segment of every pseudo-channel, outside self-refresh. -/
def execScrub (k : Nat) (hits : List ScrubHit) (s : State) : Host.Outcome State Fault Refusal :=
  lift s (fun b =>
    let e := b.eave k
    if !b.eaveIn k || e.selfRefresh || decide (b.meshSince e.scrubAt < 200000) then b
    else
      let b1 := hits.foldl (fun (x : Block) h => Block.scrubHit k e.scrubSeg x h) b
      let wrap := decide (b.segsOf ≤ e.scrubSeg + 1)
      b1.modEave k (fun x => { x with scrubAt := b.now, scrubSeg := if wrap then 0 else e.scrubSeg + 1, scrubPass := x.scrubPass + b2n wrap }))

/-! ## Maintenance windows -/

/-- MAINTENANCE_WINDOW (R430, R496): a window on one pseudo-channel ends with its loop-back and the reading of the stack; a loop-back that failed twice starts an event. -/
def execMaintenanceWindow (k : Nat) (passed : Bool) (temp : BitVec 12) (s : State) : Host.Outcome State Fault Refusal :=
  lift s (fun b =>
    match (b.eave k).test with
    | none => b
    | some (p, _) =>
      let b1 := b.modEave k (fun e =>
        (({ e with test := none, testAt := b.now, idleAt := b.now, temp := temp, reads := e.reads.map (fun r => { r with at_ := b.now }) } : Eave)).modPc p (fun x => if passed then x else x.startEvent))
      if (b1.eave k).testTodo.isEmpty && decide (b1.screen.cmd = .eave k) then b1.endCmd else b1)

end Sys2Proof.Machine
end

