-- ==== Sys2Proof/Machine/Lath.lean ====
section
/-! DEFINITION. Lath cores: kernels, items, issue groups, guards, tokens and interlocks, kills, the local window (chapter 12, R326 to R344). -/
namespace Sys2Proof.Machine

/-! ## Kernels (R326 to R328, R332) -/

/-- A kernel header. -/
structure KernelHdr where
  regs : Nat
  ws : Nat
  localBytes : Nat
  code : Nat
  ins : List Nat
  outs : List Nat
  /-- The header keeps its table. -/
  ok : Bool
  deriving DecidableEq, Repr

def parseKernel (l : List Byte) : KernelHdr :=
  let w (i : Nat) : Word := wordAt l i
  let ports (lo : Nat) : List Nat := (List.range 4).filter (fun p => wbit (w 4) (lo + p))
  let regs := wfield (w 1) 0 8
  let ws := wfield (w 1) 8 5
  let loc := wfield (w 2) 0 18
  let code := (w 3).toNat
  { regs := regs, ws := ws, localBytes := loc, code := code, ins := ports 0, outs := ports 4,
    ok := decide (wfield (w 0) 0 16 = 0x4C48 ∧ wfield (w 0) 16 8 = 1 ∧ wfield (w 0) 24 8 = 0 ∧ wfield (w 1) 13 19 = 0 ∧ wfield (w 2) 18 14 = 0 ∧ wfield (w 4) 8 24 = 0) &&
      (List.range 11).all (fun i => w (5 + i) = 0#32) &&
      decide (8 ≤ regs ∧ 1 ≤ ws ∧ ws ≤ 16 ∧ loc ≤ 229376 ∧ code % 8 = 0 ∧ 8 ≤ code ∧ code ≤ 16777152) }

/-- The kernel id of tenant code (R173). -/
def tenantCode : Nat := 0xFFFF

/-- Bytes of a station's kernel: a stock kernel's from the kernel region, or the header in the tenant's object (R120, R326, R178). -/
def Block.kernelBytes (b : Block) (t : Nat) (e : StationEntry) : Option (List Byte) :=
  if e.kernel = tenantCode then some (b.load e.field t e.codeAddr 64 .fetch).2.1
  else (b.start.img.bind (fun g => kernelSpan e.kernel g.kernels 0)).map (fun k => b.kernelRead k.1 k.2)

/-- Cache part and local part of a split, in bytes (table "Lath store split"). -/
def cachePart (split : Nat) : Nat := (match split with | 0 => 32 | 1 => 64 | 2 => 128 | _ => 192) * 1024
def localPart (split : Nat) : Nat := 256 * 1024 - cachePart split

/-- Item slots, and bytes of a slot's window (R332). -/
def lathSlots (sheafs ws : Nat) : Nat := sheafs / ws
def lathWindow (split slots : Nat) : Nat := localPart split / slots / 1024 * 1024

/-- The work items that a station with no input makes (R328). -/
def lathCount (params : List Byte) : Nat := (wordAt params 0).toNat

/-- The stock kernel STEP_CHECK, whose output port 3 no edge joins (R443). -/
def StationEntry.stepCheck (e : StationEntry) : Bool := decide (e.kernel = 0x0110)

/-- Checks of a LATH station at launch (R326 to R328, R332, R443). -/
def Block.lathLaunch (b : Block) (r : Run) (i : Nat) (s : Station) : LaunchCheck :=
  let e := s.entry
  match b.kernelBytes r.ref.tenant e with
  | none => { ins := [], outs := [], cause := some stGraph }
  | some l =>
    let k := parseKernel l
    let stock := if e.kernel = tenantCode then true else decide (64 + k.code ≤ l.length)
    let slots := lathSlots e.sheafs k.ws
    let w (j : Nat) : Word := wordAt s.params j
    let count := lathCount s.params
    let par := decide (64 ≤ s.params.length) && (List.range 15).all (fun j => w (1 + j) = 0#32) &&
      (if k.ins.isEmpty then decide (1 ≤ count ∧ count ≤ 16777216) else decide (count = 0))
    let fits := decide (k.ws ≤ e.sheafs ∧ e.sheafs * k.regs ≤ 1024 ∧ k.localBytes ≤ lathWindow e.split slots)
    let outs := if e.stepCheck then k.outs.filter (fun p => p ≠ 3) else k.outs
    let joined := k.ins.all (fun p => (r.inEdge i p).isSome) && outs.all (fun p => (r.outEdge i p).isSome)
    { ins := k.ins, outs := outs, cause := lowestCause [(!k.ok || !stock || !par || !fits || !joined, stGraph)] }

/-- A station belongs to the splat class (R377). -/
def Run.splatClass (r : Run) (i : Nat) : Bool :=
  let bb (j : Nat) : Bool := (r.stations[j]?).any (fun s => decide (s.entry.type = .bin ∨ s.entry.type = .blend))
  bb i || ((r.stations[i]?).any (fun s => decide (s.entry.type = .lath)) &&
    r.edges.any (fun e => (decide (e.entry.src = i) && bb e.entry.dst) || (decide (e.entry.dst = i) && bb e.entry.src)))

/-! ## Items (R329, R331, R334) -/

/-- A thread at the start of an item (R334, R205, R331). -/
def newThread (seed : DWord) (station itemNo lane : Nat) : Thread :=
  { pc := 0, regs := [], preds := 0#7, toks := List.replicate 7 0, gen := seedLane seed (station % 64 * 2 ^ 26 + itemNo % 2 ^ 21 * 32 + lane), state := .running, busy := [] }

/-- An item of a station in a slot. -/
def newItem (seed : DWord) (station ws ordinal now : Nat) (tiles : List (Nat × Tile)) : LItem :=
  { ordinal := ordinal, tiles := tiles, ovf := false, unf := false, at_ := now,
    sheafs := (List.range ws).map (fun k => { threads := (List.range 32).map (newThread seed station (ordinal * ws + k)), waitAt := none }) }

def LCore.item (c : LCore) (slot : Nat) : Option LItem := c.items.get slot

def LCore.modItem (c : LCore) (slot : Nat) (f : LItem → LItem) : LCore :=
  { c with items := c.items.map (fun e => if e.1 = slot then (e.1, f e.2) else e) }

def Block.modItem (b : Block) (core slot : Nat) (f : LItem → LItem) : Block := b.modCore core (fun c => c.modItem slot f)

def Block.modSheaf (b : Block) (a : LathAt) (f : Sheaf → Sheaf) : Block :=
  b.modItem a.core a.slot (fun it => { it with sheafs := modAt it.sheafs a.sheaf f })

/-- Changes threads of a sheaf by lane. -/
def Block.modLanes (b : Block) (a : LathAt) (f : Nat → Thread → Thread) : Block :=
  b.modSheaf a (fun sh => { sh with threads := sh.threads.mapIdx f })

/-- Sticky flags of an item (R340, R347). -/
def Block.stickItem (b : Block) (core slot : Nat) (ovf unf : Bool) : Block :=
  if ovf || unf then b.modItem core slot (fun it => { it with ovf := it.ovf || ovf, unf := it.unf || unf }) else b

def Thread.reg (t : Thread) (r : Nat) : Word := t.regs.getD r 0#32
def Thread.setReg (t : Thread) (r : Nat) (w : Word) : Thread := { t with regs := t.regs.set r w }
/-- A 48-bit address of a register pair (R348). -/
def Thread.pair (t : Thread) (r : Nat) : Nat := (t.reg r).toNat + 2 ^ 32 * wfield (t.reg (r + 1)) 0 16
/-- Bytes of consecutive registers. -/
def Thread.regBytes (t : Thread) (r n : Nat) : List Byte := ((List.range (ceilDiv n 4)).flatMap (fun i => leBytes 4 (t.reg (r + i)).toNat)).take n
/-- Writes bytes into consecutive registers, the last one zero-extended. -/
def Thread.putBytes (t : Thread) (r : Nat) (l : List Byte) : Thread :=
  (List.range (ceilDiv l.length 4)).foldl (fun (x : Thread) i => x.setReg (r + i) (BitVec.ofNat 32 (leNat (sliceBytes l (4 * i) 4)))) t

/-! ### The instruction words (table "instruction words") -/

def LInstr.cls (i : LInstr) : Nat := wfield i.w0 0 4
/-- The operation within the class. -/
def LInstr.opField (i : LInstr) : Nat := wfield i.w0 4 6
/-- True for a sheaf-wide instruction. -/
def LInstr.scope (i : LInstr) : Bool := wbit i.w0 10
/-- The class modifiers, bits [15:11] of word 0. -/
def LInstr.mods (i : LInstr) : Nat := wfield i.w0 11 5
/-- A modifier by its bit of word 0. -/
def LInstr.modBit (i : LInstr) (k : Nat) : Bool := wbit i.w0 k
def LInstr.dst (i : LInstr) : Nat := wfield i.w0 16 8
def LInstr.a (i : LInstr) : Nat := wfield i.w0 24 8
def LInstr.b (i : LInstr) : Nat := wfield i.w1 0 8
def LInstr.c (i : LInstr) : Nat := wfield i.w1 8 8
def LInstr.pred (i : LInstr) : Nat := wfield i.w1 16 3
def LInstr.predNeg (i : LInstr) : Bool := wbit i.w1 19
def LInstr.setTok (i : LInstr) : Nat := wfield i.w1 20 3
/-- The wait mask: bit k − 1 waits on token k. -/
def LInstr.wait (i : LInstr) : BitVec 7 := BitVec.ofNat 7 (wfield i.w1 23 7)
/-- The issue-order hint, which changes no result (R336). -/
def LInstr.yield (i : LInstr) : Bool := wbit i.w1 30
def LInstr.long (i : LInstr) : Bool := wbit i.w1 31

/-- Bytes of an instruction (R338). -/
def LInstr.bytes (i : LInstr) : Nat := if i.long then 16 else 8

/-- Predicate `p`; p7 is always true. -/
def Thread.pred (t : Thread) (p : Nat) : Bool := if p = 7 then true else t.preds.getLsbD p
/-- A predicate takes a value; p7 stays true. -/
def Thread.setPred (t : Thread) (p : Nat) (v : Bool) : Thread :=
  if p < 7 then
    let m : BitVec 7 := BitVec.ofNat 7 (2 ^ p)
    { t with preds := if v then t.preds ||| m else t.preds &&& ~~~m }
  else t
/-- The guard of an instruction (R339). -/
def Thread.guard (t : Thread) (i : LInstr) : Bool := t.pred i.pred != i.predNeg

/-! ## Issue groups (R336, R337) -/

/-- The fields that an instruction uses: its class, its scope, its mod bits as a mask of [15:11], its registers or immediate, a token, the long immediate (R338, R339). -/
structure LUse where
  cls : Nat
  scope : Bool
  mods : Nat
  dst : Bool
  a : Bool
  b : Bool
  c : Bool
  tok : Bool
  long : Bool
  deriving DecidableEq, Repr

/-- An instruction of a class that uses no field yet. -/
def LUse.of (cls : Nat) : LUse := { cls := cls, scope := false, mods := 0, dst := false, a := false, b := false, c := false, tok := false, long := false }
def LUse.regs (u : LUse) (dst a b c : Bool) : LUse := { u with dst := dst, a := a, b := b, c := c }
def LUse.token (u : LUse) : LUse := { u with tok := true }
/-- Every mod bit is used: how the class codes its forms in them is not stated. -/
def LUse.allMods (u : LUse) : LUse := { u with mods := 31 }

/-- A sheaf's candidate group: its run, station, launch, item and sheaf, the program counter, the lanes of the group, and those whose guard holds. -/
structure LGroup where
  run : Run
  st : Station
  launch : LLaunch
  item : LItem
  sh : Sheaf
  pc : Nat
  lanes : List Nat
  act : List Nat
  deriving DecidableEq, Repr

/-- The station that a core's launch belongs to. -/
def LLaunch.ref (l : LLaunch) : StRef := { tenant := l.run.tenant, handle := l.run.handle, station := l.station }

def LGroup.thread (g : LGroup) (lane : Nat) : Thread := g.sh.threads.getD lane (newThread 0#64 0 0 0)

/-- The lanes of a sheaf in a state, at the lowest program counter among them. -/
def Sheaf.lowest (sh : Sheaf) (st : ThreadState) : Option (Nat × List Nat) :=
  let l := (List.range sh.threads.length).filter (fun i => (sh.threads[i]?).any (fun t => decide (t.state = st)))
  let pcOf (i : Nat) : Nat := ((sh.threads[i]?).map (fun t => t.pc)).getD 0
  match l with
  | [] => none
  | x :: xs =>
    let pc := xs.foldl (fun m i => min m (pcOf i)) (pcOf x)
    some (pc, l.filter (fun i => pcOf i = pc))

/-- What stands at a Lath sheaf: its launch, live station, item and sheaf. -/
def Block.sheafAt (b : Block) (a : LathAt) : Option (Run × Station × LLaunch × LItem × Sheaf) :=
  match (b.core a.core).launch with
  | none => none
  | some l =>
    match b.live l.ref, (b.core a.core).item a.slot with
    | some (r, st), some it => (it.sheafs[a.sheaf]?).map (fun sh => (r, st, l, it, sh))
    | _, _ => none

/-- The candidate group of a sheaf for an instruction. -/
def Block.lathGroup (b : Block) (a : LathAt) (i : LInstr) : Option LGroup :=
  match b.sheafAt a with
  | none => none
  | some (r, st, l, it, sh) =>
    (sh.lowest .running).map (fun x =>
      { run := r, st := st, launch := l, item := it, sh := sh, pc := x.1, lanes := x.2,
        act := x.2.filter (fun k => (sh.threads[k]?).any (fun t => t.guard i)) })

/-- The threads of a sheaf when every one that has not exited waits at one sheaf-wide instruction (R342). -/
def Block.gathered (b : Block) (a : LathAt) (i : LInstr) : Option LGroup :=
  match b.sheafAt a with
  | none => none
  | some (r, st, l, it, sh) =>
    match sh.lowest .atSheaf with
    | none => none
    | some x =>
      if sh.threads.countP (fun t => decide (t.state ≠ .exited)) = x.2.length then
        some { run := r, st := st, launch := l, item := it, sh := sh, pc := x.1, lanes := x.2,
               act := x.2.filter (fun k => (sh.threads[k]?).any (fun t => t.guard i)) }
      else none

/-- Detail form A (section "Faults and kills"). -/
def formA (pc sheaf : Nat) : Word := BitVec.ofNat 32 (pc / 8 % 2 ^ 24 + 2 ^ 24 * (sheaf % 16))

/-- The LTH_ERR bit of a cause. -/
def lathErrBit (cause : Nat) : Nat :=
  if cause = stDiverged then 0 else if cause = stIllegal then 1 else if cause = stAlign then 2 else if cause = stBounds then 3
  else if cause = stTrap then 4 else if cause = stEmit then 5 else if cause = stInputCount then 6 else if cause = stWatchdog then 8 else 7

/-- A kill that the item of an ordinal raises on a core (R362, tables "LTH_ERR fields", "Lath registers"). -/
def Block.killLath (b : Block) (core : Nat) (ref : StRef) (ord cause : Nat) (detail : Word) : Block :=
  let f := core / 72
  ((b.setErrBit (Map.lthErr f) (lathErrBit cause)).setLast (Map.lthLastErr f) (BitVec.ofNat 32 (cause + 256 * (core % 72)))).killOrd (stRun ref) cause ref.station ord detail

/-- A kill of form A at a group. -/
def Block.killGroup (b : Block) (a : LathAt) (g : LGroup) (cause : Nat) : Block := b.killLath a.core g.launch.ref g.item.ordinal cause (formA g.pc a.sheaf)

/-- The group waits: a token of its wait mask is outstanding, a register it uses has still to be written, or a token it sets holds 63 operations (R337). -/
def LGroup.blocked (g : LGroup) (i : LInstr) (regs : List Nat) : Bool :=
  let tok (t : Thread) (k : Nat) : Nat := t.toks.getD (k - 1) 0
  g.lanes.any (fun l => (List.range 7).any (fun k => i.wait.getLsbD k && decide (tok (g.thread l) (k + 1) ≠ 0))) ||
  g.act.any (fun l => regs.any (fun r => (g.thread l).busy.contains r) || (decide (i.setTok ≠ 0) && decide (63 ≤ tok (g.thread l) i.setTok)))

/-- The words are of the class and scope, and every field that the instruction does not use is zero (R338, R339). -/
def LInstr.ok (i : LInstr) (u : LUse) : Bool :=
  decide (i.cls = u.cls) && decide (i.scope = u.scope) && decide (i.mods - (i.mods &&& u.mods) = 0) &&
  (u.dst || decide (i.dst = 0)) && (u.a || decide (i.a = 0)) && (u.b || decide (i.b = 0)) && (u.c || decide (i.c = 0)) &&
  (u.tok || decide (i.setTok = 0)) && (u.long || decide (i.long = false ∧ i.imm = 0#64))

/-- A group issues an instruction that uses the fields `u` and the registers `regs`: it is refused as ILLEGAL, waits, or acts. -/
def Block.issue (b : Block) (a : LathAt) (i : LInstr) (u : LUse) (regs : List Nat) (legal : Bool) (act : Block → LGroup → Block) : Block :=
  match b.lathGroup a i with
  | none => b
  | some g =>
    if g.launch.codeLen < g.pc + i.bytes ∨ g.pc % 8 ≠ 0 then b.killGroup a g stIllegal
    else if g.blocked i regs then b
    else if !g.act.isEmpty && !(legal && i.ok u && regs.all (fun r => decide (r < g.launch.regs))) then b.killGroup a g stIllegal
    else
      let f := a.core / 72
      act ((b.bump (Map.lthIssueCnt f) 1).bump (Map.lthLaneCnt f) g.lanes.length) g

/-- The lanes of a group go on behind the instruction. -/
def Block.advance (b : Block) (a : LathAt) (g : LGroup) (i : LInstr) : Block :=
  b.modLanes a (fun k t => if g.lanes.contains k then { t with pc := g.pc + i.bytes } else t)

/-- A result for each acting lane, then the group goes on. -/
def Block.each (b : Block) (a : LathAt) (g : LGroup) (i : LInstr) (f : Nat → Thread → Thread) : Block :=
  (b.modLanes a (fun k t => if g.act.contains k then f k t else t)).advance a g i

/-- Acting lanes count an operation that sets the instruction's token (R337). -/
def Thread.addTok (t : Thread) (k : Nat) : Thread := if k = 0 then t else { t with toks := modAt t.toks (k - 1) (fun n => n + 1) }
def Thread.subTok (t : Thread) (k : Nat) : Thread := if k = 0 then t else { t with toks := modAt t.toks (k - 1) (fun n => n - 1) }

/-! ## Convergence (R342 to R344) -/

/-- A group arrives at a sheaf-wide instruction: its threads wait, whatever their guard. -/
def Block.arrive (b : Block) (a : LathAt) (g : LGroup) : Block :=
  b.modSheaf a (fun sh =>
    { threads := sh.threads.mapIdx (fun k t => if g.lanes.contains k then { t with state := .atSheaf } else t),
      waitAt := match sh.waitAt with | some t0 => some t0 | none => some b.now })

/-- A sheaf-wide instruction has executed: its threads go on, and the count of R343 ends. -/
def Block.depart (b : Block) (a : LathAt) (g : LGroup) (i : LInstr) : Block :=
  b.modSheaf a (fun sh =>
    { threads := sh.threads.mapIdx (fun k t => if g.lanes.contains k then { t with state := .running, pc := g.pc + i.bytes } else t), waitAt := none })

/-- A sheaf-wide instruction: the group that can issue arrives, and once every thread has arrived it executes (R342). -/
def Block.sheafWide (b : Block) (a : LathAt) (i : LInstr) (u : LUse) (regs : List Nat) (legal : Bool) (run : Block → LGroup → Block) : Block :=
  let b1 := b.issue a i u regs legal (fun x g => x.arrive a g)
  match b1.gathered a i with
  | none => b1
  | some g => if g.blocked i regs then b1 else run b1 g

/-- The threads of an item at BAR.ITEM go on once every thread that has not exited waits there (R344). -/
def Block.releaseBar (b : Block) (core slot : Nat) : Block :=
  match (b.core core).item slot with
  | none => b
  | some it =>
    let ts := it.sheafs.flatMap (fun sh => sh.threads)
    if ts.all (fun t => decide (t.state = .exited ∨ t.state = .atBar)) then
      b.modItem core slot (fun x => { x with sheafs := x.sheafs.map (fun sh => { sh with threads := sh.threads.map (fun t =>
        if t.state = .atBar then { t with state := .running } else t) }) })
    else b

/-! ## The local window (R332, R334, R349) -/

/-- A byte of a window. -/
def Window.byte (w : Window) (addr : Nat) : Byte :=
  w.bytes.getD addr (match w.base with | none => 0#8 | some n => BitVec.ofNat 8 (Config.freeWord (n + addr)).toNat)

/-- A local byte of a slot. -/
def LCore.localByte (c : LCore) (slot addr : Nat) : Byte := ((c.windows.get slot).map (fun w => w.byte addr)).getD 0#8

/-- Local bytes C of queued MMA.T operations, whose reads give bytes that are not defined (R345). -/
def LCore.matC (c : LCore) (slot : Nat) : List (Nat × Nat) :=
  c.mat.filterMap (fun m => match m.kind with
    | .tile _ _ _ ca mm nn _ _ _ _ => if m.slot = slot then some (ca, 256 * (mm * nn)) else none
    | .sheaf _ _ _ _ _ _ => none)

/-- Bytes of local store; bytes of a C that an MMA.T has still to write are free values. -/
def Block.localRead (b : Block) (core slot addr n : Nat) : List Byte :=
  let c := b.core core
  let open_ := c.matC slot
  (List.range n).map (fun i =>
    if open_.any (fun r => decide (r.1 ≤ addr + i ∧ addr + i < r.1 + r.2)) then BitVec.ofNat 8 (Config.freeWord (b.free + addr + i)).toNat
    else c.localByte slot (addr + i))

/-- Bytes of local store as the matrix unit and EMIT read them. -/
def LCore.localBytes (c : LCore) (slot addr n : Nat) : List Byte := (List.range n).map (fun i => c.localByte slot (addr + i))

/-- Writes local bytes of a slot. -/
def Block.localWrite (b : Block) (core slot addr : Nat) (l : List Byte) : Block :=
  b.modCore core (fun c => { c with windows := c.windows.map (fun e =>
    if e.1 = slot then (e.1, { e.2 with bytes := (List.range l.length).foldl (fun (m : Kv Nat Byte) i => m.set (addr + i) (l.getD i 0#8)) e.2.bytes }) else e) })

/-- A slot's window at the start of an item of a run, by the run's place in the order of opening: zero when the slot's previous item belonged to another run, as the previous item left it when that was of the same station, and free values when it was of another station of the run (R334, log entry 122). -/
def LCore.openWindow (c : LCore) (slot run station free : Nat) : LCore :=
  let fresh (base : Option Nat) : LCore := { c with windows := c.windows.set slot { run := run, station := station, base := base, bytes := [] } }
  match c.windows.get slot with
  | some w => if w.run ≠ run then fresh none else if w.station = station then c else fresh (some free)
  | none => fresh none

/-- What is wrong with an access of a size at an address of a window (R349). -/
def localFault (window addr size : Nat) : Option Nat :=
  if addr % size ≠ 0 then some stAlign else if window < addr + size then some stBounds else none

/-- The lowest of the causes that lanes raise (R362). -/
def lowest (l : List (Option Nat)) : Option Nat :=
  l.foldl (fun m x => match m, x with | some a, some c => some (min a c) | some a, none => some a | none, y => y) none

end Sys2Proof.Machine
end

