-- ==== Sys2Proof/Machine/LathAlu.lean ====
section
/-! DEFINITION. Lath arithmetic, conversion and control: INT, FVEC, CVT, CTRL, SPEC and the sheaf-wide MX convert (chapter 12, R339 to R344). -/
namespace Sys2Proof.Machine

/-! ## INT -/

/-- Registers that an INT operation reads and writes. -/
def IntOp.regs (o : IntOp) (i : LInstr) : List Nat :=
  match o with
  | .not => [i.dst, i.a]
  | .unpackB => [i.dst, i.a]
  | .unpackH => [i.dst, i.a]
  | .cmp _ _ => [i.a, i.b]
  | .sel => [i.dst, i.a, i.b, i.c]
  | .undef => []
  | _ => [i.dst, i.a, i.b]

/-- The fields that an INT operation uses; a comparison names its predicate in dst. -/
def IntOp.use (o : IntOp) : LUse :=
  let u := (LUse.of 0).allMods
  match o with
  | .not => u.regs true true false false
  | .unpackB => u.regs true true false false
  | .unpackH => u.regs true true false false
  | .sel => u.regs true true true true
  | _ => u.regs true true true false

/-- A comparison of two integers. -/
def CmpOp.int (o : CmpOp) (x y : Int) : Bool :=
  match o with
  | .eq => x = y | .ne => x ≠ y | .lt => x < y | .le => x ≤ y | .gt => y < x | .ge => y ≤ x

/-- A shift by fewer than 32 places; a further one gives a value that the spec does not state (log entry 6). -/
def shiftWord (n : Nat) (f : Word → Nat → Word) (x y : Word) : Word :=
  if y.toNat < 32 then f x y.toNat else Config.shiftOver n x y

/-- The result of an INT operation that writes a register (table "instruction classes"). -/
def IntOp.eval (o : IntOp) (x y z : Word) : Word :=
  match o with
  | .add => x + y
  | .sub => x - y
  | .mulLo => x * y
  | .mulHiS => BitVec.ofInt 32 (x.toInt * y.toInt / 4294967296)
  | .mulHiU => BitVec.ofNat 32 (x.toNat * y.toNat / 4294967296)
  | .shl => shiftWord 0 (fun a n => a <<< n) x y
  | .shrL => shiftWord 1 (fun a n => a >>> n) x y
  | .shrA => shiftWord 2 (fun a n => a.sshiftRight n) x y
  | .and => x &&& y
  | .or => x ||| y
  | .xor => x ^^^ y
  | .not => ~~~x
  | .sel => if z = 0#32 then y else x
  | .packB => Config.packWord 0 x y z
  | .packH => Config.packWord 1 x y z
  | .unpackB => Config.packWord 2 x 0#32 0#32
  | .unpackH => Config.packWord 3 x 0#32 0#32
  | .cmp _ _ => 0#32
  | .undef => 0#32

/-- The operation is one that the table defines, and a comparison names a predicate. -/
def IntOp.ok (o : IntOp) (i : LInstr) : Bool :=
  match o with
  | .undef => false
  | .cmp _ _ => decide (i.dst ≤ 7)
  | _ => true

/-- One thread's INT operation. -/
def IntOp.thread (o : IntOp) (i : LInstr) (t : Thread) : Thread :=
  match o with
  | .cmp c signed =>
    let v (r : Nat) : Int := if signed then (t.reg r).toInt else ((t.reg r).toNat : Int)
    t.setPred i.dst (c.int (v i.a) (v i.b))
  | _ => t.setReg i.dst (o.eval (t.reg i.a) (t.reg i.b) (t.reg i.c))

/-- INT (R339). -/
def execInt (a : LathAt) (i : LInstr) (op : IntOp) (s : State) : Host.Outcome State Fault Refusal :=
  lift s (fun b => b.issue a i op.use (op.regs i) (op.ok i) (fun x g => x.each a g i (fun _ t => op.thread i t)))

/-! ## FVEC (R224, R340) -/

def FvecFmt.fmt : FvecFmt → Fmt
  | .fp32 => .fp32 | .bf16 => .bf16 | .fp16 => .fp16

def FvecOp.regs (o : FvecOp) (i : LInstr) : List Nat :=
  match o with
  | .fma => [i.dst, i.a, i.b, i.c]
  | .cmp _ => [i.a, i.b]
  | .rcp => [i.dst, i.a]
  | .sqrt => [i.dst, i.a]
  | .exp2 => [i.dst, i.a]
  | .log2 => [i.dst, i.a]
  | .undef => []
  | _ => [i.dst, i.a, i.b]

/-- The fields that an FVEC operation uses; a comparison names its predicate in dst. -/
def FvecOp.use (o : FvecOp) : LUse :=
  let u := (LUse.of 1).allMods
  match o with
  | .fma => u.regs true true true true
  | .rcp => u.regs true true false false
  | .sqrt => u.regs true true false false
  | .exp2 => u.regs true true false false
  | .log2 => u.regs true true false false
  | _ => u.regs true true true false

/-- A comparison of two numbers: every one but "not equal" is false with a NaN (R201). -/
def CmpOp.num (o : CmpOp) (x y : Num) : Bool :=
  match o with
  | .eq => x.eq y | .ne => !x.eq y | .lt => x.lt y | .le => x.le y | .gt => y.lt x | .ge => y.le x

/-- The result of an FVEC operation, exact or exact enough for one rounding (R340). -/
def FvecOp.eval (o : FvecOp) (x y z : Num) : Num :=
  match o with
  | .add => x.add y
  | .mul => x.mul y
  | .fma => (x.mul y).add z
  | .min => x.min y
  | .max => x.max y
  | .rcp => Num.divAt 40 (Num.ofNat 1) x
  | .div => Num.divAt 40 x y
  | .sqrt => x.sqrtAt 40
  | .exp2 => x.exp2
  | .log2 => x.log2v
  | .cmp _ => Num.zero
  | .undef => Num.zero

def FvecOp.ok (o : FvecOp) (i : LInstr) : Bool :=
  match o with
  | .undef => false
  | .cmp _ => decide (i.dst ≤ 7)
  | _ => true

/-- The value that the low bits of a register hold in a format. -/
def Thread.num (t : Thread) (f : Fmt) (r : Nat) : Num := f.decode ((t.reg r).toNat % 2 ^ (8 * f.bytes))

/-- The encoding that a thread's FVEC operation writes. -/
def FvecOp.enc (o : FvecOp) (f : Fmt) (i : LInstr) (t : Thread) : Enc :=
  f.encode false .rne (o.eval (t.num f i.a) (t.num f i.b) (t.num f i.c))

/-- Results with flags: each acting lane's change, and the sticky flags of all of them into the item (R340). -/
def Block.eachEnc (b : Block) (a : LathAt) (g : LGroup) (i : LInstr) (enc : Thread → Enc) (put : Thread → Nat → Thread) : Block :=
  let es := g.act.map (fun k => enc (g.thread k))
  ((b.each a g i (fun _ t => put t (enc t).code)).stickItem a.core a.slot (es.any (fun e => e.ovf)) (es.any (fun e => e.unf)))

/-- FVEC (R224, R340). -/
def execFvec (a : LathAt) (i : LInstr) (op : FvecOp) (fmt : FvecFmt) (s : State) : Host.Outcome State Fault Refusal :=
  lift s (fun b => b.issue a i op.use (op.regs i) (op.ok i) (fun x g =>
    match op with
    | .cmp c => x.each a g i (fun _ t => t.setPred i.dst (c.num (t.num fmt.fmt i.a) (t.num fmt.fmt i.b)))
    | _ => x.eachEnc a g i (op.enc fmt.fmt i) (fun t c => t.setReg i.dst (BitVec.ofNat 32 c))))

/-! ## CVT (R222, R223, R341) -/

/-- The value that a thread converts: an FP8 source takes its scale (R211, R222). -/
def cvtSource (fa : Fmt) (code scale : Nat) : Num := if fa.isMx then mxValue fa code scale else fa.decode code

/-- A value divided by an E8M0 scale; a scale of 0xFF makes it NaN (R222, R211). -/
def cvtScaled (v : Num) (scale : Nat) : Num := if scale = 0xFF then .nan v.neg else v.scale (127 - (scale : Int))

/-- The value that a thread's convert rounds. -/
def cvtValue (fa fz : Fmt) (i : LInstr) (t : Thread) : Num :=
  let scale := (t.reg i.b).toNat % 256
  let v := cvtSource fa ((t.reg i.a).toNat % 2 ^ (8 * fa.bytes)) scale
  if fz.isMx then cvtScaled v scale else v

/-- What a thread's convert writes, and its generator after it (R206, R222). -/
def cvtThread (fa fz : Fmt) (i : LInstr) (stochastic saturate : Bool) (t : Thread) : Enc × Word :=
  let draws := stochastic && pairNarrow fa fz
  let gen := if draws then xorshift32 t.gen else t.gen
  (fz.encode saturate (if draws then .sr (srBits gen) else .rne) (cvtValue fa fz i t), gen)

/-- A scale of 0xFF makes an element NaN that was none (R211, R221). -/
def cvtMadeNan (fa fz : Fmt) (i : LInstr) (t : Thread) : Bool :=
  (fa.isMx || fz.isMx) && decide ((t.reg i.b).toNat % 256 = 0xFF) && !(fa.decode ((t.reg i.a).toNat % 2 ^ (8 * fa.bytes))).isNan

/-- What a thread's convert counts (R221). -/
def cvtTally (fa fz : Fmt) (i : LInstr) (stochastic saturate : Bool) (t : Thread) : Tally :=
  let e := (cvtThread fa fz i stochastic saturate t).1
  { ovf := b2n e.ovf, unf := b2n e.unf, nan := b2n (e.nanw || cvtMadeNan fa fz i t), clamp := 0, sr := b2n (stochastic && pairNarrow fa fz && (cvtValue fa fz i t).isFin && !(cvtValue fa fz i t).isZero) }

/-- The fields that a convert uses: two mod bits, and both kinds in c (R341). -/
def cvtUse (scope : Bool) : LUse := { (LUse.of 2).regs true true true true with scope := scope, mods := 3 }

/-- mod [11] of a convert: stochastic rounding; mod [12]: saturation (R341). -/
def LInstr.stochastic (i : LInstr) : Bool := i.modBit 11
def LInstr.saturate (i : LInstr) : Bool := i.modBit 12

/-- CVT (R221, R222, R341). -/
def execCvt (a : LathAt) (i : LInstr) (s : State) : Host.Outcome State Fault Refusal :=
  lift s (fun b =>
    match fmtOf (i.c % 16), fmtOf (i.c / 16 % 16) with
    | some fa, some fz =>
      let mx := fa.isMx || fz.isMx
      let regs := [i.dst, i.a] ++ (if mx then [i.b] else [])
      b.issue a i (cvtUse false) regs (mx || decide (i.b = 0)) (fun x g =>
        let y := g.act.foldl (fun (y : Tally) k => y.add (cvtTally fa fz i i.stochastic i.saturate (g.thread k))) Tally.zero
        ((x.each a g i (fun _ t =>
          let r := cvtThread fa fz i i.stochastic i.saturate t
          ({ t with gen := r.2 }).setReg i.dst (BitVec.ofNat 32 r.1.code))).stickItem a.core a.slot (decide (0 < y.ovf)) (decide (0 < y.unf))).countElems (a.core / 72) y)
    | _, _ => b.issue a i (cvtUse false) [] false (fun x _ => x))

/-- MX_CONVERT_SHEAF (R212, R223, R342): the lanes' values become one MX block; a lane's element goes to dst and the scale to dst + 1, and its clamps and flushes count. -/
def execMxConvertSheaf (a : LathAt) (i : LInstr) (s : State) : Host.Outcome State Fault Refusal :=
  lift s (fun b =>
    match fmtOf (i.c % 16), fmtOf (i.c / 16 % 16) with
    | some fa, some fz =>
      let regs := [i.dst, i.dst + 1, i.a] ++ (if fa.isMx then [i.b] else [])
      b.sheafWide a i (cvtUse true) regs (fz.isMx && (fa.isMx || decide (i.b = 0))) (fun x g =>
        let value (k : Nat) : Num :=
          if g.act.contains k then
            let t := g.thread k
            cvtSource fa ((t.reg i.a).toNat % 2 ^ (8 * fa.bytes)) ((t.reg i.b).toNat % 256)
          else Num.zero
        let sc := mxScale fz ((List.range 32).map value)
        let draws := i.stochastic && pairNarrow fa fz
        let one (k : Nat) : (Nat × Tally) × Word :=
          let gen := if draws then xorshift32 (g.thread k).gen else (g.thread k).gen
          (mxElem fz sc (value k) (if draws then .sr (srBits gen) else .rne), gen)
        let made : Tally := { Tally.zero with nan := if fa.isMx then g.act.countP (fun k => cvtMadeNan fa fz i (g.thread k)) else 0 }
        let y := g.act.foldl (fun (y : Tally) k => y.add (one k).1.2) made
        let x1 := x.modLanes a (fun k t =>
          if g.act.contains k then
            let r := one k
            (({ t with gen := r.2 }).setReg i.dst (BitVec.ofNat 32 r.1.1)).setReg (i.dst + 1) (BitVec.ofNat 32 sc)
          else t)
        ((x1.depart a g i).stickItem a.core a.slot false (decide (0 < y.unf))).countElems (a.core / 72) y)
    | _, _ => b.sheafWide a i (cvtUse true) [] false (fun x _ => x))

/-! ## CTRL -/

/-- A CTRL instruction that uses no register. -/
def ctrlUse : LUse := LUse.of 3

/-- BRA (table "instruction classes"): a long instruction whose immediate is a signed byte offset from the branch itself. -/
def execBra (a : LathAt) (i : LInstr) (s : State) : Host.Outcome State Fault Refusal :=
  lift s (fun b => b.issue a i { ctrlUse with long := true } [] i.long (fun x g =>
    x.modLanes a (fun k t =>
      if g.act.contains k then { t with pc := (g.pc + i.imm.toNat) % 2 ^ 64 }
      else if g.lanes.contains k then { t with pc := g.pc + i.bytes } else t)))

/-- JMPR: the target is a byte offset after the header in register a. -/
def execJmpr (a : LathAt) (i : LInstr) (s : State) : Host.Outcome State Fault Refusal :=
  lift s (fun b => b.issue a i (ctrlUse.regs false true false false) [i.a] true (fun x g =>
    x.modLanes a (fun k t =>
      if g.act.contains k then { t with pc := (t.reg i.a).toNat }
      else if g.lanes.contains k then { t with pc := g.pc + i.bytes } else t)))

/-- EXIT (R335): a thread that exits may release those that wait (R342, R344). -/
def execExit (a : LathAt) (i : LInstr) (s : State) : Host.Outcome State Fault Refusal :=
  lift s (fun b => b.issue a i ctrlUse [] true (fun x g =>
    (x.each a g i (fun _ t => { t with state := .exited })).releaseBar a.core a.slot))

/-- BAR.ITEM (R344). -/
def execBarItem (a : LathAt) (i : LInstr) (s : State) : Host.Outcome State Fault Refusal :=
  lift s (fun b => b.issue a i ctrlUse [] true (fun x g =>
    (x.each a g i (fun _ t => { t with state := .atBar })).releaseBar a.core a.slot))

/-- TRAP (table "kill causes laid down in this chapter"). -/
def execTrap (a : LathAt) (i : LInstr) (s : State) : Host.Outcome State Fault Refusal :=
  lift s (fun b => b.issue a i (ctrlUse.regs false false false true) [] true (fun x g =>
    if g.act.isEmpty then x.advance a g i
    else x.killLath a.core g.launch.ref g.item.ordinal stTrap (BitVec.ofNat 32 (i.c % 256 + 256 * (a.sheaf % 16)))))

/-- NOP. -/
def execLathNop (a : LathAt) (i : LInstr) (s : State) : Host.Outcome State Fault Refusal :=
  lift s (fun b => b.issue a i ctrlUse [] true (fun x g => x.advance a g i))

/-! ## SPEC -/

/-- The value of a special register (table "instruction classes", R331, R340, SR_PLACE). -/
def SpecReg.value (r : SpecReg) (core sheaf lane : Nat) (it : LItem) (ws : Nat) : Nat :=
  match r with
  | .lane => lane
  | .sheaf => sheaf
  | .item => it.ordinal
  | .ws => ws
  | .flags => b2n it.ovf + 2 * b2n it.unf
  | .place => core / 72 + 8 * (core % 72 / 8) + 128 * (core % 8)
  | .undef => 0

/-- RDSR: the operation field names the special register. -/
def specUse : LUse := (LUse.of 0xA).regs true false false false

/-- RDSR. -/
def execRdsr (a : LathAt) (i : LInstr) (sr : SpecReg) (s : State) : Host.Outcome State Fault Refusal :=
  lift s (fun b => b.issue a i specUse [i.dst] (decide (sr ≠ .undef)) (fun x g =>
    x.each a g i (fun k t => t.setReg i.dst (BitVec.ofNat 32 (sr.value a.core a.sheaf k g.item g.launch.ws)))))

/-- DIVERGED_MATRIX (R343): a sheaf-wide instruction has waited 2^20 CK_CORE cycles. -/
def execDivergedMatrix (a : LathAt) (s : State) : Host.Outcome State Fault Refusal :=
  lift s (fun b =>
    match b.sheafAt a with
    | none => b
    | some (_, _, l, it, sh) =>
      match sh.waitAt, sh.lowest .atSheaf with
      | some t0, some x => if b.coreSince t0 < 2 ^ 20 then b else b.killLath a.core l.ref it.ordinal stDiverged (formA x.1 a.sheaf)
      | _, _ => b)

end Sys2Proof.Machine
end

