-- ==== Sys2Proof/Machine/LathMem.lean ====
section
/-! DEFINITION. Lath memory: global and local loads and stores, parameters, atomics, tiles in and out, fences (chapter 12, R348 to R360). -/
namespace Sys2Proof.Machine

/-- The access sizes of GLOBAL and LOCAL. -/
def lathSize (n : Nat) : Bool := n = 1 || n = 2 || n = 4 || n = 8 || n = 16

/-- Registers that a value of `n` bytes takes. -/
def regSpan (r n : Nat) : List Nat := (List.range (ceilDiv n 4)).map (fun k => r + k)

/-! ## The cache part (R348) -/

/-- Index of the set of a line: a set is 8 lines of 128 bytes (R348). Which set is not stated. -/
def LLaunch.set (l : LLaunch) (line : Nat) : Nat := Config.lathSet (l.cacheBytes / 1024) line % (l.cacheBytes / 1024)

def LCore.line (c : LCore) (r : RunRef) (line : Nat) : Option CacheLine := c.lines.find? (fun x => decide (x.run = r ∧ x.addr = line))

/-- A line becomes the most recently used of its set; the eighth other line of the set is replaced. -/
def LCore.touchLine (c : LCore) (l : LLaunch) (x : CacheLine) : LCore :=
  let rest := c.lines.filter (fun y => !decide (y.run = x.run ∧ y.addr = x.addr))
  let same := rest.filter (fun y => decide (l.set y.addr = l.set x.addr))
  let rest' := if same.length < 8 then rest else (match same.getLast? with | some v => rest.erase v | none => rest)
  { c with lines := x :: rest' }

/-- The cache part of a launch that begins takes over the lines that its sets can hold, the most recently used first (R25). -/
def LCore.fitLines (c : LCore) (l : LLaunch) : LCore :=
  { c with lines := c.lines.foldl (fun acc x => if acc.countP (fun y => decide (l.set y.addr = l.set x.addr)) < 8 then acc ++ [x] else acc) [] }

/-- A line loses its entry. -/
def LCore.dropLine (c : LCore) (r : RunRef) (line : Nat) : LCore := { c with lines := c.lines.filter (fun y => !decide (y.run = r ∧ y.addr = line)) }

/-- Stores update a present line. -/
def LCore.storeLine (c : LCore) (r : RunRef) (addr : Nat) (l : List Byte) : LCore :=
  { c with lines := c.lines.map (fun y => if y.run = r ∧ y.addr = addr / 128 * 128 then { y with data := overlay y.data (addr % 128) l } else y) }

/-- A line is fetched: the sector of the access first, then the line's other sector. The line is kept when both come. -/
def Block.fetchLine (b : Block) (core : Nat) (l : LLaunch) (addr : Nat) : Block × Nat :=
  let f := core / 72
  let sec := addr / 64 * 64
  let line := addr / 128 * 128
  let r := b.load f l.run.tenant sec 64 .load
  if r.2.2 ≠ stOk then (r.1, r.2.2)
  else
    let other := if sec = line then line + 64 else line
    let q := r.1.load f l.run.tenant other 64 .load
    if q.2.2 ≠ stOk then (q.1, stOk)
    else
      let data := if sec = line then r.2.1 ++ q.2.1 else q.2.1 ++ r.2.1
      (q.1.modCore core (fun c => c.touchLine l { run := l.run, addr := line, data := data }), stOk)

/-- One lane's load through the cache part: the bytes and the status. `seen` are the lines this instruction has looked up. -/
def Block.cachedLoad (b : Block) (core : Nat) (l : LLaunch) (addr n : Nat) (seen : List Nat) : Block × List Byte × Nat :=
  let line := addr / 128 * 128
  let count (x : Block) (a : Nat) : Block := if seen.contains line then x else x.bump a 1
  match (b.core core).line l.run line with
  | some x => ((count b (Map.lthCacheHit (core / 72))).modCore core (fun c => c.touchLine l x), sliceBytes x.data (addr % 128) n, stOk)
  | none =>
    let r := (count b (Map.lthCacheMiss (core / 72))).fetchLine core l addr
    match (r.1.core core).line l.run line with
    | some x => (r.1, sliceBytes x.data (addr % 128) n, r.2)
    | none => if r.2 = stOk then r.1.load (core / 72) l.run.tenant addr n .load else (r.1, List.replicate n 0#8, r.2)

/-- Lanes' loads in order: what each lane receives, and the lowest status that is not OK. -/
def Block.laneLoads (core : Nat) (l : LLaunch) (cached : Bool) (n reg : Nat) : List (Nat × Nat) → List Nat → Block → List (Nat × Nat × List Byte) → Nat →
    Block × List (Nat × Nat × List Byte) × Nat
  | [], _, b, acc, st => (b, acc, st)
  | p :: ps, seen, b, acc, st =>
    let r := if cached then b.cachedLoad core l p.2 n seen else b.load (core / 72) l.run.tenant p.2 n .load
    let st1 := if r.2.2 = stOk then st else if st = stOk then r.2.2 else min st r.2.2
    Block.laneLoads core l cached n reg ps (p.2 / 128 * 128 :: seen) r.1 (acc ++ [(p.1, reg, r.2.1)]) st1

/-! ## Operations in flight (R335, R337, R351) -/

/-- Numbers and records an operation of a group. -/
def Block.addOp (b : Block) (a : LathAt) (pc : Nat) (lanes : List Nat) (tok : Nat) (kind : LOpKind) (ranges : List (Nat × Nat × Nat)) (status : Nat) (global : Bool) : Block :=
  b.modCore a.core (fun c =>
    { c with nextOp := c.nextOp + 1
             ops := c.ops ++ [{ id := c.nextOp, slot := a.slot, sheaf := a.sheaf, lanes := lanes, tok := tok, kind := kind, ranges := ranges, status := status, pc := pc, global := global }] })

/-- The group has issued an operation: its acting lanes count the token and wait for the registers it will write, and the group goes on. -/
def Block.launchOp (b : Block) (a : LathAt) (g : LGroup) (i : LInstr) (writes : List Nat) : Block :=
  b.each a g i (fun _ t => { t.addTok i.setTok with busy := t.busy ++ writes })

/-- The requester of a core's next operation. -/
def Block.nextReq (b : Block) (a : LathAt) : Requester := .lath a.core a.slot (b.core a.core).nextOp

/-- The lanes of a group with their global addresses. -/
def LGroup.addrs (g : LGroup) (r : Nat) : List (Nat × Nat) := g.act.map (fun k => (k, (g.thread k).pair r))

/-- Single and double errors of Felt met by an instruction; their offsets count from the lowest address of the group (R388). -/
def Block.lathUpsets (b : Block) (t : Nat) (as_ : List (Nat × Nat)) (ups : List Upset) : Block :=
  match as_ with
  | [] => b
  | p :: ps => b.applyUpsets t (ps.foldl (fun m q => min m q.2) p.2) ups

/-- The stack sectors that a load of a group reads; a line that the core holds is not read (R348). -/
def Block.loadSectors (b : Block) (a : LathAt) (g : LGroup) (cached : Bool) (r size : Nat) : List Nat :=
  let miss := (g.addrs r).filter (fun p => !cached || ((b.core a.core).line g.launch.run (p.2 / 128 * 128)).isNone)
  (miss.flatMap (fun p => b.stackSectors g.launch.run.tenant p.2 size .load)).eraseDups

/-- The fields of a load into dst and of a store of b at the address in a; the size is in the mod bits. -/
def globalLoad : LUse := (LUse.of 4).allMods.regs true true false false
def globalStore : LUse := ((LUse.of 4).allMods.regs false true true false).token
def localLoad : LUse := (LUse.of 5).allMods.regs true true false false
def localStore : LUse := ((LUse.of 5).allMods.regs false true true false).token

/-- LD.G and LD.G.NC. -/
def Block.loadGlobal (cached : Bool) (a : LathAt) (i : LInstr) (size : Nat) (ups : List Upset) (b : Block) : Block :=
  b.issue a i globalLoad ([i.a, i.a + 1] ++ regSpan i.dst size) (lathSize size) (fun x g =>
    let t := g.launch.run.tenant
    let as_ := g.addrs i.a
    if as_.any (fun p => decide (p.2 % size ≠ 0)) then x.killGroup a g stAlign
    else if !as_.all (fun p => b.rangeReady t p.2 size .load) then b
    else if !b.readRoom (b.loadSectors a g cached i.a size) (b.loadSectors a g cached i.a size) then b
    else
      let x1 := x.lathUpsets t as_ ups
      let secs := b.loadSectors a g cached i.a size
      let r := Block.laneLoads a.core g.launch cached size i.dst as_ [] x1 [] stOk
      let x2 := r.1.issueReads (r.1.nextReq a) secs
      (x2.addOp a g.pc g.act 0 (.load r.2.1) (as_.map (fun p => (p.1, p.2, size))) r.2.2 true).launchOp a g i (regSpan i.dst size))

/-- LD_G (R348): through the cache part. -/
def execLdG (a : LathAt) (i : LInstr) (size : Nat) (upsets : List Upset) (s : State) : Host.Outcome State Fault Refusal :=
  lift s (Block.loadGlobal true a i size upsets)

/-- LD_G_NC (R348): memory itself, the cache unchanged. -/
def execLdGNc (a : LathAt) (i : LInstr) (size : Nat) (upsets : List Upset) (s : State) : Host.Outcome State Fault Refusal :=
  lift s (Block.loadGlobal false a i size upsets)

/-- Lanes' stores in order, with the core's present lines (R348, R352). -/
def Block.laneStores (core : Nat) (l : LLaunch) : List (Nat × List Byte) → Block → Nat → Block × Nat
  | [], b, st => (b, st)
  | p :: ps, b, st =>
    let r := b.store (core / 72) l.run.tenant p.1 p.2
    if r.2.1 = stOk then Block.laneStores core l ps (r.1.modCore core (fun c => c.storeLine l.run p.1 p.2)) st
    else Block.laneStores core l ps r.1 (if st = stOk then r.2.1 else min st r.2.1)

/-- Window stores of an instruction go to their BLEND stations in lane order (R468, R469). -/
def Block.sendFrags (b : Block) (r : RunRef) (l : List (Nat × Frag)) : Block :=
  l.foldl (fun (x : Block) p => x.modSt { tenant := r.tenant, handle := r.handle, station := p.1 } (fun (s : Station) =>
    match s.body with
    | .blend y => { s with body := .blend { y with inbound := y.inbound ++ [p.2] } }
    | _ => s)) b

/-- The fragments that a 16-byte store of a group delivers (R468). -/
def LGroup.frags (g : LGroup) (a : LathAt) (op : Nat) (i : LInstr) (as_ : List (Nat × Nat)) : List (Nat × Frag) :=
  as_.filterMap (fun p => (g.run.windowAt g.launch.station p.2).map (fun w =>
    (w.1, { core := a.core, op := op, slot := a.slot, sheaf := a.sheaf, lane := p.1, item := g.item.ordinal, x := w.2.1, q := w.2.2,
            words := (List.range 4).map (fun k => (g.thread p.1).reg (i.b + k)) })))

/-- ST_G (R348, R352, R468): written through, in lane order; stores to a BLEND window become fragments. -/
def execStG (a : LathAt) (i : LInstr) (size : Nat) (upsets : List Upset) (s : State) : Host.Outcome State Fault Refusal :=
  lift s (fun b => b.issue a i globalStore ([i.a, i.a + 1] ++ regSpan i.b size) (lathSize size) (fun x g =>
    let t := g.launch.run.tenant
    let as_ := g.addrs i.a
    if as_.any (fun p => decide (p.2 % size ≠ 0)) then x.killGroup a g stAlign
    else if !as_.all (fun p => b.rangeReady t p.2 size .store) then b
    else
      let isWin (p : Nat × Nat) : Bool := decide (size = 16) && (g.run.windowAt g.launch.station p.2).isSome
      let frags := g.frags a (x.core a.core).nextOp i (as_.filter isWin)
      let x1 := (x.lathUpsets t as_ upsets).sendFrags g.launch.run frags
      let r := Block.laneStores a.core g.launch ((as_.filter (fun p => !isWin p)).map (fun p => (p.2, (g.thread p.1).regBytes i.b size))) x1 stOk
      (r.1.addOp a g.pc g.act i.setTok .store ((as_.filter (fun p => !isWin p)).map (fun p => (p.1, p.2, size))) r.2 true).launchOp a g i []))

/-- Bytes of a parameter block as LDP reads them; bytes beyond it are free values (R353, R328, log entry 48). -/
def Block.paramBytes (b : Block) (params : List Byte) (off n : Nat) : List Byte :=
  (List.range n).map (fun k => match params[off + k]? with | some x => x | none => BitVec.ofNat 8 (Config.freeWord (b.free + off + k)).toNat)

/-- LDP (R353): the launch's copy of the parameter block, at the byte offset in register a. -/
def execLdp (a : LathAt) (i : LInstr) (size : Nat) (s : State) : Host.Outcome State Fault Refusal :=
  lift s (fun b => b.issue a i globalLoad (i.a :: regSpan i.dst size) (lathSize size) (fun x g =>
    let off (t : Thread) : Nat := (t.reg i.a).toNat
    if g.act.any (fun k => decide (off (g.thread k) % size ≠ 0)) then x.killGroup a g stAlign
    else
      let x1 := x.each a g i (fun _ t => t.putBytes i.dst (x.paramBytes g.st.params (off t) size))
      { x1 with free := x1.free + 2 ^ 33 }))

/-- What is wrong with the acting lanes' accesses to the local window (R349, R362). -/
def LGroup.localBad (g : LGroup) (r size : Nat) : Option Nat :=
  lowest (g.act.map (fun k => localFault g.launch.window ((g.thread k).reg r).toNat size))

/-- LD_L (R349). -/
def execLdL (a : LathAt) (i : LInstr) (size : Nat) (s : State) : Host.Outcome State Fault Refusal :=
  lift s (fun b => b.issue a i localLoad (i.a :: regSpan i.dst size) (lathSize size) (fun x g =>
    match g.localBad i.a size with
    | some c => x.killGroup a g c
    | none =>
      let x1 := x.each a g i (fun _ t => t.putBytes i.dst (x.localRead a.core a.slot (t.reg i.a).toNat size))
      { x1 with free := x1.free + 2 ^ 18 }))

/-- ST_L (R349, R352): in lane order; it completes at once, and with it its token. -/
def execStL (a : LathAt) (i : LInstr) (size : Nat) (s : State) : Host.Outcome State Fault Refusal :=
  lift s (fun b => b.issue a i localStore (i.a :: regSpan i.b size) (lathSize size) (fun x g =>
    match g.localBad i.a size with
    | some c => x.killGroup a g c
    | none => (g.act.foldl (fun (y : Block) k => y.localWrite a.core a.slot ((g.thread k).reg i.a).toNat ((g.thread k).regBytes i.b size)) x).advance a g i))

/-! ## Atomics (R354 to R357) -/

/-- A contribution: the group it comes from, by index, its lane, its operand and compare value. -/
structure AtomPart where
  part : Nat
  lane : Nat
  val : Word
  cmp : Word
  deriving DecidableEq, Repr

def addF (x y : Word) : Word := BitVec.ofNat 32 (f32code ((wordF x).add (wordF y)))

/-- The node of level `k` that covers positions of a list: pairs are added level by level (R356). -/
def f32Level : List Word → List Word
  | x :: y :: l => addF x y :: f32Level l
  | l => l

def f32Tree : Nat → List Word → Option Word
  | 0, l => l.head?
  | n + 1, l => match l with
    | [] => none
    | [x] => some x
    | _ => f32Tree n (f32Level l)

/-- The blocks that the set bits of a count select, from the highest down: each block's node (R356). -/
def f32Blocks : Nat → List Word → List Word
  | 0, _ => []
  | k + 1, l =>
    if 2 ^ k ≤ l.length then
      (match f32Tree (k + 1) (l.take (2 ^ k)) with | some w => [w] | none => []) ++ f32Blocks k (l.drop (2 ^ k))
    else f32Blocks k l

/-- P_j: the nodes' sum, left to right. -/
def f32Prefix (l : List Word) : Option Word :=
  match f32Blocks 12 l with
  | [] => none
  | x :: xs => some (xs.foldl addF x)

/-- One step of an operation that is not a floating sum. -/
def AtomOp.step (o : AtomOp) (ty : AtomTy) (old val cmp : Word) : Word :=
  let f (n : Num) : Word := BitVec.ofNat 32 (f32code n)
  match o, ty with
  | .add, .f32 => addF old val
  | .add, _ => old + val
  | .min, .u32 => if val.toNat < old.toNat then val else old
  | .min, .i32 => if val.toInt < old.toInt then val else old
  | .min, .f32 => f ((wordF old).min (wordF val))
  | .max, .u32 => if old.toNat < val.toNat then val else old
  | .max, .i32 => if old.toInt < val.toInt then val else old
  | .max, .f32 => f ((wordF old).max (wordF val))
  | .and, _ => old &&& val
  | .or, _ => old ||| val
  | .xor, _ => old ^^^ val
  | .exch, _ => val
  | .cas, _ => if old = cmp then val else old
  | .undef, _ => old

/-- Applies a list in order: what each entry finds, and the value left. -/
def AtomOp.chain (o : AtomOp) (ty : AtomTy) : List AtomPart → Word → List Word → List Word × Word
  | [], w, acc => (acc, w)
  | p :: ps, w, acc => o.chain ty ps (o.step ty w p.val p.cmp) (acc ++ [w])

/-- A merged list: what each entry receives, and what memory ends with (table "merged atomic lists"). -/
def AtomOp.merge (o : AtomOp) (ty : AtomTy) (l : List AtomPart) (old : Word) : List Word × Word :=
  match o, ty with
  | .add, .f32 =>
    let vs := l.map (fun p => p.val)
    let after (p : Option Word) : Word := match p with | some w => addF old w | none => old
    ((List.range l.length).map (fun j => after (f32Prefix (vs.take j))), after (f32Tree 12 vs))
  | _, _ => o.chain ty l old []

/-- The op and the type are defined together (R354). -/
def AtomOp.ok (o : AtomOp) (ty : AtomTy) : Bool :=
  match o with
  | .undef => false
  | .and => ty = .u32
  | .or => ty = .u32
  | .xor => ty = .u32
  | _ => true

/-- The element type that mod [12:11] names, none for a code the rule does not give (R354). -/
def LInstr.atomTy (i : LInstr) : Option AtomTy :=
  match wfield i.w0 11 2 with | 0 => some .u32 | 1 => some .i32 | 2 => some .f32 | _ => none

/-- The operation and the type of an instruction are defined. -/
def AtomOp.legal (o : AtomOp) (i : LInstr) : Bool := i.atomTy.any o.ok

/-- The fields of an atomic. -/
def AtomOp.use (o : AtomOp) : LUse := ((LUse.of 6).allMods.regs true true true (decide (o = .cas))).token

def AtomOp.regs (o : AtomOp) (i : LInstr) (global : Bool) : List Nat :=
  [i.dst, i.a, i.b] ++ (if global then [i.a + 1] else []) ++ (if o = .cas then [i.c] else [])

/-- The group that issues now, if its instruction is legal and nothing holds it. -/
def Block.willIssue (b : Block) (a : LathAt) (i : LInstr) (u : LUse) (regs : List Nat) (legal : Bool) : Option LGroup :=
  match b.lathGroup a i with
  | none => none
  | some g =>
    if g.launch.codeLen < g.pc + i.bytes ∨ g.pc % 8 ≠ 0 then none
    else if g.blocked i regs then none
    else if !g.act.isEmpty && !(legal && i.ok u && regs.all (fun r => decide (r < g.launch.regs))) then none
    else some g

/-- One merged list performed on memory: the block, what each entry receives, and the status. An atomic needs the object's wr alone (R401). -/
def Block.atomGlobal (b : Block) (f t va : Nat) (o : AtomOp) (ty : AtomTy) (l : List AtomPart) : Block × List Word × Nat :=
  let r := b.load f t va 4 .store
  let zero := l.map (fun _ => 0#32)
  if r.2.2 ≠ stOk then (r.1, zero, r.2.2)
  else
    let m := o.merge ty l (wordAt r.2.1 0)
    let w := r.1.store f t va (leBytes 4 m.2.toNat)
    if w.2.1 ≠ stOk then (w.1, zero, w.2.1) else (w.1, m.1, stOk)

/-- What the contributions of one merged list share: the tenant's address, the operation and the type (R355). -/
structure AtomKey where
  tenant : Nat
  addr : Nat
  op : AtomOp
  ty : AtomTy
  deriving DecidableEq, Repr

/-- Merged lists, in order of first appearance. -/
def groupParts : List (AtomKey × AtomPart) → Kv AtomKey (List AtomPart) → Kv AtomKey (List AtomPart)
  | [], m => m
  | p :: ps, m => groupParts ps (m.set p.1 (m.getD p.1 [] ++ [p.2]))

/-- Performs lists one after another: results by group, and statuses by group. -/
def Block.atomLists (f : Nat) : List (AtomKey × List AtomPart) → Block → List (Nat × Nat × Word) → List (Nat × Nat) →
    Block × List (Nat × Nat × Word) × List (Nat × Nat)
  | [], b, vals, sts => (b, vals, sts)
  | e :: es, b, vals, sts =>
    let r := b.atomGlobal f e.1.tenant e.1.addr e.1.op e.1.ty e.2
    Block.atomLists f es r.1 (vals ++ List.zipWith (fun p w => (p.part, p.lane, w)) e.2 r.2.1)
      (if r.2.2 = stOk then sts else sts ++ e.2.map (fun p => (p.part, r.2.2)))

/-- The group that issues an atomic now. -/
def Block.atomGroup (b : Block) (q : AtomGroup) (global : Bool) : Option LGroup := b.willIssue q.at_ q.i q.op.use (q.op.regs q.i global) (q.op.legal q.i)

/-- What its lanes contribute, at their addresses; `n` numbers the group. -/
def AtomGroup.parts (q : AtomGroup) (g : LGroup) (n tenant : Nat) (addr : Thread → Nat) : List (AtomKey × AtomPart) :=
  g.act.map (fun k => let t := g.thread k
    ({ tenant := tenant, addr := addr t, op := q.op, ty := q.i.atomTy.getD .u32 }, { part := n, lane := k, val := t.reg q.i.b, cmp := t.reg q.i.c }))

/-- Global atomics that cores of one cluster issue in one cycle, each with its own instruction (R355). -/
def Block.atomicGlobal (b : Block) (groups : List AtomGroup) : Block :=
  let addr (q : AtomGroup) (g : LGroup) (k : Nat) : Nat := (g.thread k).pair q.i.a
  let pass (x : Block) (q : AtomGroup) : Block := x.issue q.at_ q.i q.op.use (q.op.regs q.i true) (q.op.legal q.i) (fun y _ => y)
  -- groups whose instruction is refused, or whose addresses are not aligned
  let b0 := groups.foldl (fun (x : Block) q => match b.atomGroup q true with
    | some g => if g.act.any (fun k => decide (addr q g k % 4 ≠ 0)) then x.killGroup q.at_ g stAlign else x
    | none => pass x q) b
  let all := sortBy (fun (x y : AtomGroup × LGroup) => decide (x.1.at_.core ≤ y.1.at_.core)) (groups.filterMap (fun q => (b0.atomGroup q true).map (fun g => (q, g))))
  let secs (x : AtomGroup × LGroup) : List Nat := (x.2.act.flatMap (fun k => b0.stackSectors x.2.launch.run.tenant (addr x.1 x.2 k) 4 .store)).eraseDups
  let go := all.filter (fun x => b0.readRoom (secs x) (all.flatMap secs) && x.2.act.all (fun k => b0.rangeReady x.2.launch.run.tenant (addr x.1 x.2 k) 4 .store))
  match go with
  | [] => b0
  | x0 :: _ =>
    let f := x0.1.at_.core / 72
    let parts := (List.range go.length).flatMap (fun n => match go[n]? with
      | some x => x.1.parts x.2 n x.2.launch.run.tenant (fun t => t.pair x.1.i.a)
      | none => [])
    let lists := groupParts parts []
    let b1 := go.foldl (fun (x : Block) p => pass x p.1) b0
    let b2 := (b1.bump (Map.lthAtomCnt f) parts.length).bump (Map.lthAtomOps f) lists.length
    let reads (x : Block) (n : Nat) (a : LathAt) : Block :=
      x.issueReads (x.nextReq a) ((lists.filter (fun e => e.2.any (fun p => p.part = n))).flatMap (fun e => b2.stackSectors e.1.tenant e.1.addr 4 .store)).eraseDups
    let r := Block.atomLists f lists b2 [] []
    (List.range go.length).foldl (fun (x : Block) n => match go[n]? with
      | some p =>
        let vals := (r.2.1.filter (fun v => v.1 = n)).map (fun v => (v.2.1, p.1.i.dst, leBytes 4 v.2.2.toNat))
        let st := (r.2.2.filter (fun v => v.1 = n)).foldl (fun m v => if m = stOk then v.2 else min m v.2) stOk
        let x1 := reads x n p.1.at_
        let x2 := p.2.act.foldl (fun (y : Block) k => y.modCore p.1.at_.core (fun c => c.dropLine p.2.launch.run (addr p.1 p.2 k / 128 * 128))) x1
        (x2.addOp p.1.at_ p.2.pc p.2.act p.1.i.setTok (.atomic vals) (p.2.act.map (fun k => (k, addr p.1 p.2 k, 4))) st true).launchOp p.1.at_ p.2 p.1.i [p.1.i.dst]
      | none => x) r.1

/-- Local atomics of one group: one list an address, lanes ascending, at once (R357). -/
def Block.atomicLocal (b : Block) (q : AtomGroup) : Block :=
  let a := q.at_
  b.issue a q.i q.op.use (q.op.regs q.i false) (q.op.legal q.i) (fun x g =>
    match g.localBad q.i.a 4 with
    | some c => x.killGroup a g c
    | none =>
      let parts := q.parts g 0 0 (fun t => (t.reg q.i.a).toNat)
      let r := (groupParts parts []).foldl (fun (acc : Block × List (Nat × Word)) e =>
        let m := e.1.op.merge e.1.ty e.2 (wordAt (acc.1.localRead a.core a.slot e.1.addr 4) 0)
        (acc.1.localWrite a.core a.slot e.1.addr (leBytes 4 m.2.toNat), acc.2 ++ List.zipWith (fun p w => (p.lane, w)) e.2 m.1)) (x, [])
      let got (k : Nat) : Word := match r.2.find? (fun v => v.1 = k) with | some v => v.2 | none => 0#32
      let x1 := (r.1.bump (Map.lthAtomCnt (a.core / 72)) parts.length).each a g q.i (fun k t => t.setReg q.i.dst (got k))
      { x1 with free := x1.free + 2 ^ 18 })

/-- ATOM (R354 to R357): global contributions of groups that cores of one cluster issue in one cycle merge; local ones do not. -/
def execAtom (groups : List AtomGroup) (global : Bool) (upsets : List Upset) (s : State) : Host.Outcome State Fault Refusal :=
  lift s (fun b => b.meeting ((groups.head?.bind (fun q => (b.core q.at_.core).launch)).elim 0 (fun l => l.run.tenant)) upsets (fun b =>
    let cores := groups.map (fun q => q.at_.core)
    let oneCluster := cores.all (fun c => decide (c / 8 = (cores.headD 0) / 8))
    if cores.eraseDups.length ≠ groups.length ∨ oneCluster = false then b
    else if global then b.atomicGlobal groups
    else groups.foldl (fun (x : Block) q => x.atomicLocal q) b))

/-! ## Tiles (R358 to R360) -/

/-- A TILE instruction, and a FENCE. -/
def tileUse : LUse := (LUse.of 8).token
def fenceUse : LUse := (LUse.of 9).token

/-- What is wrong with a TIN of a thread. -/
def tinFault (window dbytes off len loc : Nat) : Option Nat :=
  if off % 16 ≠ 0 ∨ len % 16 ≠ 0 ∨ loc % 16 ≠ 0 then some stAlign
  else if len < 16 ∨ 262176 < len ∨ 32 + dbytes < off + len ∨ window < loc + len then some stBounds
  else none

/-- TIN (R358): bytes of the item's tile go into its local window. -/
def execTin (a : LathAt) (i : LInstr) (s : State) : Host.Outcome State Fault Refusal :=
  lift s (fun b => b.issue a i ((tileUse.regs true true true true)) [i.a, i.b, i.dst] (decide (i.c < 4)) (fun x g =>
    let tile := (g.item.tiles.find? (fun p => p.1 = i.c)).map (fun p => p.2)
    let bytes := match tile with | some t => t.header ++ t.data | none => []
    let off (t : Thread) : Nat := (t.reg i.a).toNat
    let len (t : Thread) : Nat := (t.reg i.b).toNat
    let loc (t : Thread) : Nat := (t.reg i.dst).toNat
    -- a port without a tile has no byte in range
    let bad (t : Thread) : Option Nat := match tile with
      | some y => tinFault g.launch.window y.dbytes (off t) (len t) (loc t)
      | none => some stBounds
    match lowest (g.act.map (fun k => bad (g.thread k))) with
    | some c => x.killGroup a g c
    | none => (g.act.foldl (fun (y : Block) k => let t := g.thread k; y.localWrite a.core a.slot (loc t) (sliceBytes bytes (off t) (len t))) x).advance a g i))

/-- A tile keeps the limits of an edge (R181, R196, R359); the closing tile of R186 does. -/
def tileFits (e : EdgeEntry) (t : Tile) : Bool :=
  t.closing && decide (t.fmt = e.fmt) ||
  (decide (t.fmt = e.fmt ∧ 1 ≤ t.rows ∧ t.rows ≤ e.rows ∧ 1 ≤ t.cols ∧ t.cols ≤ e.cols ∧ t.dbytes ≤ 262144) && decide (dataBytes t.fmt t.rows t.cols = some t.dbytes))

/-- What is wrong with an EMIT of a thread (R349, R359). -/
def Block.emitFault (b : Block) (core slot window addr : Nat) (edge : Option EdgeEntry) : Option Nat :=
  if window < addr + 32 then some stBounds
  else
    let h := b.localRead core slot addr 32
    let t := parseTile h
    if !tileRsvdOk h || !(edge.any (fun e => tileFits e t)) then some stEmit
    else if window < addr + 32 + t.dbytes then some stBounds
    else none

/-- What the tiles of skew notices keep to: rows of 32 bytes (R443). -/
def noticeEdge : EdgeEntry := { src := 0, sport := 3, dst := 0, dport := 0, fmt := rawCode, depth := 2, rows := 4096, cols := 32 }

/-- EMIT (R359): checked at issue; each thread's tile is one operation, whose bytes are those of now unless they change or belong to a C that an MMA.T has still to write (R345). -/
def execEmit (a : LathAt) (i : LInstr) (s : State) : Host.Outcome State Fault Refusal :=
  lift s (fun b => b.issue a i (tileUse.regs false true false true) [i.a] (decide (i.c < 4)) (fun x g =>
    let addr (t : Thread) : Nat := (t.reg i.a).toNat
    let edge := if g.st.entry.stepCheck && decide (i.c = 3) then some noticeEdge else g.run.outShape g.launch.station i.c
    match lowest (g.act.map (fun k => x.emitFault a.core a.slot g.launch.window (addr (g.thread k)) edge)) with
    | some c => x.killGroup a g c
    | none =>
      let x1 := g.act.foldl (fun (y : Block) k =>
        let at_ := addr (g.thread k)
        let n := (parseTile (y.localRead a.core a.slot at_ 32)).dbytes
        y.addOp a g.pc [k] i.setTok (.emit i.c at_ (y.localRead a.core a.slot at_ (32 + n))) [] stOk false) x
      { x1 with free := x1.free + 2 ^ 18 }.launchOp a g i []))

/-! ## Fences (R350, R351) -/

/-- FENCE_C (R351): it waits for every earlier global store and atomic of its threads. -/
def execFenceC (a : LathAt) (i : LInstr) (s : State) : Host.Outcome State Fault Refusal :=
  lift s (fun b => b.issue a i fenceUse [] true (fun x g =>
    let mine (o : LOp) : Bool := o.global && decide (o.slot = a.slot ∧ o.sheaf = a.sheaf) && o.lanes.any (fun l => g.act.contains l) &&
      (match o.kind with | .store => true | .atomic _ => true | _ => false)
    let before := ((x.core a.core).ops.filter mine).map (fun o => (a.core, o.id))
    (x.addOp a g.pc g.act i.setTok (.fence before []) [] stOk false).launchOp a g i []))

/-- Accesses that a field's cores have issued and that are not complete, by core and number. An EMIT issues its access when it writes, and is complete then. -/
def Block.fieldOps (b : Block) (f : Nat) : List (Nat × Nat) :=
  b.cores.flatMap (fun e => if e.1 / 72 = f then (e.2.ops.filter (fun o => o.global)).map (fun o => (e.1, o.id)) else [])

/-- LOADs and STOREs of the field's seat that are not complete, by seat and number. -/
def Block.seatOps (b : Block) (f : Nat) : List (Nat × Nat) := (b.seat f).ops.map (fun o => (f, o.num))

/-- FENCE_F (R27, R351): it waits for every access issued from the field before it, by its cores and by its seat. -/
def execFenceF (a : LathAt) (i : LInstr) (s : State) : Host.Outcome State Fault Refusal :=
  lift s (fun b => b.issue a i fenceUse [] true (fun x g =>
    let f := a.core / 72
    (x.addOp a g.pc g.act i.setTok (.fence (x.fieldOps f) (x.seatOps f)) [] stOk false).launchOp a g i []))

/-- CINV (R348): every line of the item's run on the core is cleared; it completes at once. -/
def execCinv (a : LathAt) (i : LInstr) (s : State) : Host.Outcome State Fault Refusal :=
  lift s (fun b => b.issue a i fenceUse [] true (fun x g =>
    (if g.act.isEmpty then x else x.modCore a.core (fun c => { c with lines := c.lines.filter (fun y => y.run ≠ g.launch.run) })).advance a g i))

/-! ## Completion -/

/-- Every item of a station below an ordinal has completed. -/
def Station.doneBelow (s : Station) (ordinal : Nat) : Bool := s.active.all (fun x => decide (ordinal ≤ x.ordinal))

/-- A tile that an EMIT writes: local bytes that have changed since the issue, the header's too, are free values (R345, R359); as many bytes go out as the checked header says, and the item's flags join (R359). -/
def Block.emitTile (b : Block) (core slot addr : Nat) (snap : List Byte) (it : LItem) : Tile :=
  let cur := b.localRead core slot addr snap.length
  let bytes := (List.range snap.length).map (fun k =>
    let x := snap.getD k 0#8
    if cur.getD k 0#8 = x then x else BitVec.ofNat 8 (Config.freeWord (b.free + 2 ^ 18 + k)).toNat)
  let t := { parseTile bytes with dbytes := (parseTile snap).dbytes }
  { t with ovf := it.ovf || t.ovf, unf := it.unf || t.unf, last := t.closing, data := bytes.drop 32 }

/-- Each row of a notice tile becomes a STEP_SKEW event with the row's first four words (R443, log entry 53). -/
def Block.skewEvents (b : Block) (r : RunRef) (t : Tile) : Block :=
  match b.findRun r with
  | none => b
  | some run => (chunk 32 t.data.length t.data).foldl (fun (x : Block) l => x.sendEvent run.src evStepSkew 0 r.handle ((List.range 4).map (fun i => wordAt l i))) b

/-- A port's latest tile is held until the next one (R360). -/
def Block.holdTile (b : Block) (a : StRef) (port : Nat) (t : Tile) : Block :=
  match b.live a with
  | some (_, s) =>
    (match s.body with
    | .lath l =>
      let b1 := match l.held.get port with | some old => b.emit a port old | none => b
      b1.modSt a (fun (y : Station) => { y with body := .lath { l with held := l.held.set port t } })
    | _ => b)
  | none => b

/-- A window store of an operation that its owner has not accepted (R469). -/
def Run.fragOut (r : Run) (core op : Nat) : Bool :=
  r.stations.any (fun s => match s.body with | .blend y => y.inbound.any (fun f => decide (f.core = core ∧ f.op = op)) | _ => false)

/-- A store or an atomic has a parity write that is not yet in its queue (R422). -/
def Block.opParWaits (b : Block) (t : Nat) (o : LOp) : Bool := o.status = stOk && o.ranges.any (fun q => b.parWaits t q.2.1 q.2.2)

/-- An operation has done what it waits for: reads have come back, parity writes are queued, earlier operations of a fence are gone, lower-ordinal items have completed (R351, R360, R422). -/
def Block.opReady (b : Block) (core : Nat) (l : LLaunch) (o : LOp) : Bool :=
  !b.readsOut (.lath core o.slot o.id) &&
  (match o.kind with
  | .fence before seats => before.all (fun p => !(b.core p.1).ops.any (fun x => x.id = p.2)) && seats.all (fun p => !(b.seat p.1).ops.any (fun x => x.num = p.2))
  | .emit _ _ _ =>
    (match b.live l.ref, (b.core core).item o.slot with
    | some (_, st), some it => st.doneBelow it.ordinal && st.ready &&
        (b.core core).ops.all (fun x => x.slot ≠ o.slot || decide (o.id ≤ x.id) || (match x.kind with | .emit _ _ _ => false | _ => true))
    | _, _ => false)
  | .store => !((b.findRun l.run).any (fun r => r.fragOut core o.id)) && !b.opParWaits l.run.tenant o
  | .atomic _ => !b.opParWaits l.run.tenant o
  | .load _ => true)

/-- Values reach their registers, the token falls (R337). -/
def LCore.finishOp (c : LCore) (o : LOp) : LCore :=
  let vals := match o.kind with | .load l => l | .atomic l => l | _ => []
  let one (k : Nat) (t : Thread) : Thread :=
    if o.lanes.contains k then
      let t1 := (vals.filter (fun v => v.1 = k)).foldl (fun (x : Thread) v =>
        let y := x.putBytes v.2.1 v.2.2
        { y with busy := y.busy.filter (fun r => !(regSpan v.2.1 v.2.2.length).contains r) }) t
      t1.subTok o.tok
    else t
  { c.modItem o.slot (fun it => { it with sheafs := modAt it.sheafs o.sheaf (fun sh => { sh with threads := sh.threads.mapIdx one }) }) with
    ops := c.ops.filter (fun x => x.id ≠ o.id) }

/-- MEMORY_ACCESS_DONE (R335, R337, R351, R360, R361): an outstanding operation of a core completes. -/
def execMemoryAccessDone (core id : Nat) (s : State) : Host.Outcome State Fault Refusal :=
  lift s (fun b =>
    match (b.core core).launch, (b.core core).ops.find? (fun o => o.id = id) with
    | some l, some o =>
      if (b.live l.ref).isNone || !b.opReady core l o then b
      else if o.status ≠ stOk then b.killLath core l.ref (((b.core core).item o.slot).elim 0 (fun it => it.ordinal)) o.status (formA o.pc o.sheaf)
      else
        let b1 := match o.kind, (b.core core).item o.slot with
          | .emit port addr snap, some it =>
            let t := b.emitTile core o.slot addr snap it
            let x := if (b.live l.ref).any (fun (q : Run × Station) => q.2.entry.stepCheck) && decide (port = 3) then b.skewEvents l.run t else b.holdTile l.ref port t
            { x with free := x.free + 2 ^ 19 }
          | _, _ => b
        b1.modCore core (fun c => c.finishOp o)
    | _, _ => b)

end Sys2Proof.Machine
end

