-- ==== Sys2Proof/Machine/Pack.lean ====
section
/-! DEFINITION. PACK stations: lossless coding of blocks of image tiles, and its reverse (chapter 17, R479, R480). -/
namespace Sys2Proof.Machine

/-- UNPACK mode of a PACK station's parameter block (R480). -/
def packReverse (p : List Byte) : Bool := wbit (wordAt p 0) 0

/-- Checks of a PACK station at launch (R457, R480). -/
def Run.packLaunch (r : Run) (i : Nat) (s : Station) : LaunchCheck :=
  let un := packReverse s.params
  let bad := decide (s.params.length ≠ 64) || decide (wfield (wordAt s.params 0) 1 31 ≠ 0) || !(List.range 15).all (fun k => wordAt s.params (1 + k) = 0#32)
  let image (e : EdgeEntry) : Bool := decide (e.fmt = fp32Code ∧ e.cols = 64 ∧ 16 ≤ e.rows)
  let blocks (e : EdgeEntry) : Bool := decide (e.fmt = rawCode ∧ e.cols = 1028)
  let edges := if un then (r.inShape i 0).any blocks && (r.outShape i 0).any image else (r.inShape i 0).any image && (r.outShape i 0).any blocks
  { ins := [0], outs := [0], cause := lowestCause [(bad || !edges, stGraph)] }

/-- Number of bits of a word. -/
def bitLen (n : Nat) : Nat := if n = 0 then 0 else n.log2 + 1

/-- A difference folded so that small ones of either sign stay small (R479). -/
def fold32 (d : Word) : Word := (d <<< 1) ^^^ (d.sshiftRight 31)
def unfold32 (z : Word) : Word := (z >>> 1) ^^^ (0#32 - (z &&& 1#32))

/-- The folded differences of neighbours. -/
def deltas : List Word → List Word
  | x :: y :: l => fold32 (y - x) :: deltas (y :: l)
  | _ => []

/-- Numbers of `w` bits packed least significant bit first, as one number. -/
def packNat (w : Nat) : List Word → Nat
  | [] => 0
  | z :: l => z.toNat + 2 ^ w * packNat w l

/-- The coding of one channel (R479). -/
def codeChannel (v : List Word) : List Byte :=
  let z := deltas v
  let w := bitLen (z.foldl (fun m x => max m x.toNat) 0)
  leBytes 1 w ++ leBytes 4 (v.headD 0#32).toNat ++ leBytes (ceilDiv (63 * w) 8) (packNat w z)

/-- The words of a block of an image tile: pixels in raster order, four channels a pixel (R479). -/
def blockWords (data : List Byte) (k : Nat) : List (List Word) :=
  (List.range 64).map (fun p =>
    let row := 8 * (k / 2) + p / 8
    let col := 8 * (k % 2) + p % 8
    (List.range 4).map (fun c => wordAt data (64 * row + 4 * col + c)))

/-- A block with its header, padded (R479); and whether it is raw. -/
def codeBlock (px : List (List Word)) : List Byte × Bool :=
  let chan (c : Nat) : List Word := px.map (fun p => p.getD c 0#32)
  let body := (List.range 4).flatMap (fun c => codeChannel (chan c))
  let len := ceilDiv (4 + body.length) 4 * 4
  if 1024 < len then (leBytes 4 (1028 + 2048) ++ wordsBytes (px.flatMap (fun p => p)), true)
  else (leBytes 4 len ++ padTo 4 body, false)

/-- Words back from folded differences. -/
def undelta : Word → List Word → List Word
  | v, [] => [v]
  | v, z :: l => v :: undelta (v + unfold32 z) l

/-- One channel decoded: its words and the bytes it took. -/
def decodeChannel (l : List Byte) : Option (List Word × Nat) :=
  let w := (l.headD 0#8).toNat
  let n := ceilDiv (63 * w) 8
  if 32 < w ∨ l.length < 5 + n then none
  else
    let x := leNat ((l.drop 5).take n)
    some (undelta (wordAt (l.drop 1) 0) ((List.range 63).map (fun i => BitVec.ofNat 32 (x / 2 ^ (w * i) % 2 ^ w))), 5 + n)

/-- Channels decoded in order, and the bytes left. -/
def decodeChannels : Nat → List Byte → Option (List (List Word) × List Byte)
  | 0, l => some ([], l)
  | n + 1, l =>
    match decodeChannel l with
    | none => none
    | some (v, k) => (decodeChannels n (l.drop k)).map (fun r => (v :: r.1, r.2))

/-- The pixels of a block; none where its length disagrees with its tile or its contents are not 256 words (R480). -/
def decodeBlock (t : Tile) : Option (List (List Word) × Bool) :=
  let l := t.data
  let h := wordAt l 0
  let len := wfield h 0 11
  if l.length ≠ len ∨ t.rows ≠ 1 ∨ t.cols ≠ len ∨ len < 4 ∨ wfield h 12 20 ≠ 0 then none
  else if wbit h 11 then
    (if len = 1028 then some ((List.range 64).map (fun p => (List.range 4).map (fun c => wordAt l (1 + 4 * p + c))), true) else none)
  else
    match decodeChannels 4 (l.drop 4) with
    | none => none
    | some (chs, rest) =>
      if rest.length < 4 ∧ rest.all (fun x => x = 0#8) = true then
        some ((List.range 64).map (fun p => chs.map (fun v => v.getD p 0#32)), false)
      else none

/-- PACK (R479, R480): the next block of an image tile goes out as a tile. -/
def execPack (a : StRef) (ordinal : Nat) (s : State) : Host.Outcome State Fault Refusal :=
  lift s (fun b =>
    match b.working a ordinal with
    | none => b
    | some (_, st, x) =>
      match st.body, x.tile 0 with
      | .pack m, some t =>
        let k := m.getD ordinal 0
        if packReverse st.params = true ∨ st.turn ordinal = false ∨ st.ready = false then b
        else if t.rows ≠ 16 ∨ t.cols ≠ 64 then b.killSplat x.field a stSplatShape t.no
        else
          let c := codeBlock (blockWords t.data k)
          let o : Tile := { rowsTile c.1.length t.seq 0 [c.1] with ovf := t.ovf, unf := t.unf, last := t.last && decide (k = 3) }
          let b1 := ((b.bump (Map.splPackCnt x.field) 1).bump (Map.splPackRaw x.field) (b2n c.2)).emit a 0 o
          if k = 3 then (b1.modSt a (fun z => { z with body := .pack (m.del ordinal) })).itemDone a ordinal
          else b1.modSt a (fun z => { z with body := .pack (m.set ordinal (k + 1)) })
      | _, _ => b)

/-- The data of an image tile of four blocks. -/
def imageOf (bl : List (List (List Word))) : List Byte :=
  wordsBytes ((List.range 16).flatMap (fun r => (List.range 16).flatMap (fun c =>
    ((bl.getD (2 * (r / 8) + c / 8) []).getD (8 * (r % 8) + c % 8) []))))

/-- UNPACK (R480): four block tiles become one image tile. -/
def execUnpack (a : StRef) (ordinal : Nat) (s : State) : Host.Outcome State Fault Refusal :=
  lift s (fun b =>
    match b.working a ordinal with
    | none => b
    | some (_, st, x) =>
      match st.body with
      | .pack _ =>
        let ts := (List.range 4).filterMap (fun k => x.tile k)
        if packReverse st.params = false ∨ st.turn ordinal = false ∨ st.ready = false ∨ ts.length ≠ 4 then b
        else
          (match ts.find? (fun t => (decodeBlock t).isNone) with
          | some t => b.killSplat x.field a stSplatShape t.no
          | none =>
            let bl := ts.filterMap decodeBlock
            let data := imageOf (bl.map (fun z => z.1))
            let o : Tile := { fmt := fp32Code, ovf := ts.any (fun t => t.ovf), unf := ts.any (fun t => t.unf), last := ts.any (fun t => t.last), flags := 0,
                              rows := 16, cols := 64, no := 0, dbytes := data.length, seq := ((ts.head?).map (fun t => t.seq)).getD 0, data := data }
            (((b.bump (Map.splPackCnt x.field) 4).bump (Map.splPackRaw x.field) (bl.countP (fun z => z.2))).emit a 0 o).itemDone a ordinal)
      | _ => b)

end Sys2Proof.Machine
end

