-- ==== Sys2Proof/Machine/Update.lean ====
section
/-! DEFINITION. STEP_CHECK, the stock kernel that lets an update run take a step of a layer or refuses it (R442, R443, R445, R446, R449). -/
namespace Sys2Proof.Machine

/-- A layer record (table "layer record"). -/
structure LayerRec where
  ok : Bool
  skew : Bool
  step : Word
  torn : Word
  id : Word
  deriving DecidableEq, Repr

def parseLayer (l : List Byte) : LayerRec :=
  let w (i : Nat) : Word := wordAt l i
  let ortho := wbit (w 0) 16
  let iter := wfield (w 9) 0 4
  { ok := decide (wfield (w 0) 0 16 = 0x5550 ∧ wfield (w 0) 18 14 = 0 ∧ wfield (w 9) 4 28 = 0) &&
      (if ortho then decide (1 ≤ iter ∧ iter ≤ 8) else decide (iter = 0)) && (List.range 5).all (fun j => w (11 + j) = 0#32)
    skew := wbit (w 0) 17, step := w 1, torn := w 2, id := w 3 }

/-- A shard record, of which a check reads these fields (table "shard record"). -/
structure ShardRec where
  ok : Bool
  home : Bool
  layer : Nat
  deriving DecidableEq, Repr

def parseShard (l : List Byte) : ShardRec :=
  let w (i : Nat) : Word := wordAt l i
  let kind (k : Nat) : Bool := decide (k = 1 ∨ k = 2)
  { ok := decide (wfield (w 0) 0 16 = 0x5553 ∧ wfield (w 0) 25 7 = 0) && kind (wfield (w 0) 16 4) && kind (wfield (w 0) 20 4) &&
      [2, 4, 6, 8].all (fun i => wfield (w i) 16 16 = 0) && decide (1 ≤ (w 9).toNat ∧ (w 9).toNat ≤ 16777216) &&
      decide (1 ≤ (w 10).toNat ∧ (w 10).toNat ≤ 65536) && [13, 14, 15].all (fun i => w i = 0#32)
    home := wbit (w 0) 24, layer := (w 1).toNat + 2 ^ 32 * wfield (w 2) 0 16 }

/-- The layer takes step `s`: nothing is skewed or torn, and `s` follows its last completed step (R446). -/
def LayerRec.goes (y : LayerRec) (s : Word) : Bool := !y.skew && decide (y.torn = 0#32 ∧ y.step = s - 1#32)

/-- Why a layer does not take a step: 3 torn, 2 skewed already, 1 another step (R446; the order where several hold is log entry 124). -/
def LayerRec.cause (y : LayerRec) : Nat := if y.torn ≠ 0#32 then 3 else if y.skew then 2 else 1

/-- What the check of a shard writes, in words of the shard's and the layer's record: go; and at a home shard that does not go, skew and skew_step, which stays where skew was set (R446, R449). -/
def LayerRec.writes (y : LayerRec) (s : Word) (shard : Nat) (h : ShardRec) (w0 : Word) : List (Nat × List Byte) :=
  let go := if y.goes s then s else 0#32
  (shard + 48, leBytes 4 go.toNat) ::
    (if h.home && !y.goes s then
      (h.layer, leBytes 4 (w0 ||| 0x20000#32).toNat) :: (if y.skew then [] else [(h.layer + 40, leBytes 4 s.toNat)])
    else [])

/-- The argument checks of a stock update kernel: the step, and the number of shards (R442). -/
def updateArgs (st : Station) : Bool :=
  decide (st.pw 16 ≠ 0#32 ∧ st.pw 16 ≠ 0xFFFFFFFF#32 ∧ 1 ≤ (st.pw 17).toNat ∧ (st.pw 17).toNat ≤ 65536)

/-- An item of STEP_CHECK as a whole (R446): its shard's decision, and the notice of a home shard that does not go. The second part says that the item is done. -/
def Block.stepCheck (b : Block) (a : StRef) (r : Run) (st : Station) (core ordinal : Nat) : Block × Bool :=
  let f := core / 72
  let t := r.ref.tenant
  let s := st.pw 16
  let at_ := st.pAddr 18 + 8 * ordinal
  let stop (status : Nat) (detail : Word) : Block × Bool := (b.killLath core a ordinal status detail, false)
  if !updateArgs st || !b.canRead t at_ 8 then (b, false)
  else
    let e := b.peek f t at_ 8
    let shard := leNat (e.1.take 6)
    if e.2 ≠ stOk then stop e.2 (formA 0 0)
    else if !b.canRead t shard 64 || !b.canWrite t shard 64 then (b, false)
    else
      let q := b.peek f t shard 64
      let h := parseShard q.1
      if q.2 ≠ stOk then stop q.2 (formA 0 0)
      else if !h.ok then stop stTrap 0x51#32
      else if !b.canRead t h.layer 64 || !b.canWrite t h.layer 64 then (b, false)
      else
        let l := b.peek f t h.layer 64
        let y := parseLayer l.1
        if l.2 ≠ stOk then stop l.2 (formA 0 0)
        else if !y.ok then stop stTrap 0x51#32
        else
          let b1 := b.readAll f t [(at_, 8), (shard, 64), (h.layer, 64)]
          let w := Block.storeAll f t (y.writes s shard h (wordAt l.1 0)) b1
          if w.2 ≠ stOk then (w.1.killLath core a ordinal w.2 (formA 0 0), false)
          else
            (if h.home && !y.goes s then w.1.sendEvent r.src evStepSkew 0 r.ref.handle [y.id, s, y.step, BitVec.ofNat 32 y.cause] else w.1, true)

/-- No sheaf of the item has begun: its threads stand where they start, and it has nothing outstanding. -/
def LCore.itemFresh (c : LCore) (slot : Nat) (it : LItem) : Bool :=
  it.sheafs.all (fun sh => sh.threads.all (fun th => decide (th.state = .running ∧ th.pc = 0))) && c.ops.all (fun o => o.slot ≠ slot)

end Sys2Proof.Machine
end

