-- ==== Sys2Proof/Machine/VatStation.lean ====
section
/-! DEFINITION. VAT stations: loading, storing and hints (chapter 14, R409 to R411). -/
namespace Sys2Proof.Machine

structure VatPar where
  mode : Nat
  tiled : Bool
  mfmt : Nat
  base : Nat
  pitch : Nat
  count : Nat
  rows : Nat
  cols : Nat
  ord : Nat
  deriving DecidableEq, Repr

def vatPar (p : List Byte) : VatPar :=
  let w (i : Nat) : Word := wordAt p i
  { mode := wfield (w 0) 0 2, tiled := wbit (w 0) 2, mfmt := wfield (w 0) 8 8, base := (w 1).toNat + 2 ^ 32 * wfield (w 2) 0 16,
    pitch := (w 3).toNat, count := (w 4).toNat, rows := wfield (w 5) 0 16, cols := wfield (w 5) 16 16, ord := (w 6).toNat + 2 ^ 32 * wfield (w 7) 0 16 }

/-- Modes (table "VAT parameter block"). -/
def vatLoad : Nat := 0
def vatStore : Nat := 1
def vatHint : Nat := 2

/-- The parameter block breaks its table, apart from what an edge decides (R409, R410). -/
def vatBad (p : List Byte) : Bool :=
  let w (i : Nat) : Word := wordAt p i
  let v := vatPar p
  let rsvd := decide (wfield (w 0) 3 5 = 0 ∧ wfield (w 0) 16 16 = 0 ∧ wfield (w 2) 16 16 = 0 ∧ wfield (w 7) 16 16 = 0) && (List.range 8).all (fun i => w (8 + i) = 0#32)
  let range (lo hi x : Nat) : Bool := decide (lo ≤ x ∧ x ≤ hi)
  let mx := (fmtOf v.mfmt).any Fmt.isMx
  decide (p.length ≠ 64) || !rsvd || decide (v.mode = 3) ||
  (if v.mode = vatHint then decide (wfield (w 0) 2 14 ≠ 0) || !(List.range 7).all (fun i => w (1 + i) = 0#32)
   else
    !codeOk v.mfmt || !range 1 4096 v.rows || !range 1 4096 v.cols || (mx && !v.tiled) ||
    (if v.mode = vatLoad then decide (v.count = 0) else decide (v.count ≠ 0 ∨ v.ord ≠ 0)) ||
    (match dataBytes v.mfmt v.rows v.cols with
    | none => true
    | some d => if v.tiled then decide (v.pitch % 64 ≠ 0 ∨ v.pitch < d) else decide (v.pitch < v.cols * elemBytes v.mfmt)))

/-- Checks of a VAT station at launch (R409, R410). -/
def Run.vatLaunch (r : Run) (i : Nat) (s : Station) : LaunchCheck :=
  let v := vatPar s.params
  let edge : Bool :=
    if v.mode = vatLoad then (r.outShape i 0).any (fun (e : EdgeEntry) => pairOk v.mfmt e.fmt && decide (v.rows ≤ e.rows ∧ v.cols ≤ e.cols))
    else if v.mode = vatStore then (r.inShape i 0).any (fun (e : EdgeEntry) => pairOk e.fmt v.mfmt)
    else (r.inShape i 0).any (fun (e : EdgeEntry) => decide (e.fmt = rawCode ∧ e.cols = 32))
  { ins := if v.mode = vatLoad then [] else [0], outs := if v.mode = vatLoad then [0] else [],
    cause := lowestCause [(vatBad s.params || !edge, stGraph)] }

/-- The ranges of a tile slot for `rows` × `cols` of it (R410). -/
def VatPar.slot (v : VatPar) (i rows cols : Nat) : List (Nat × Nat) :=
  if v.tiled then [(v.base + i * v.pitch, (dataBytes v.mfmt rows cols).getD 0)]
  else (List.range rows).map (fun r => (v.base + (i * v.rows + r) * v.pitch, cols * elemBytes v.mfmt))

/-- Loads ranges in order: the bytes, and the first status that fails. -/
def Block.loadAll (f t : Nat) : List (Nat × Nat) → Block → List Byte → Block × List Byte × Nat
  | [], b, acc => (b, acc, stOk)
  | p :: l, b, acc =>
    let r := b.load f t p.1 p.2 .load
    if r.2.2 = stOk then Block.loadAll f t l r.1 (acc ++ r.2.1) else (r.1, acc, r.2.2)

/-- Cuts bytes along ranges. -/
def cutRanges : List (Nat × Nat) → List Byte → List (Nat × List Byte)
  | [], _ => []
  | p :: l, d => (p.1, d.take p.2) :: cutRanges l (d.drop p.2)

/-- VAT_LOAD_TILE (R410, R411): a slot is loaded, converted and emitted. -/
def execVatLoadTile (a : StRef) (ordinal : Nat) (upsets : List Upset) (s : State) : Host.Outcome State Fault Refusal :=
  lift s (fun b => b.meeting a.tenant upsets (fun b =>
    match b.working a ordinal with
    | none => b
    | some (r, st, x) =>
      match st.entry.type, r.outShape a.station 0 with
      | .vat, some e =>
        let v := vatPar st.params
        let slot := v.slot ordinal v.rows v.cols
        if v.mode ≠ vatLoad ∨ st.ready = false ∨ st.turn ordinal = false then b
        else if !slot.all (fun p => b.canRead r.ref.tenant p.1 p.2) then b
        else
          let l := Block.loadAll x.field r.ref.tenant slot b []
          if l.2.2 ≠ stOk then l.1.killAt a l.2.2 (BitVec.ofNat 32 ordinal)
          else
            let t : Tile := { fmt := v.mfmt, ovf := false, unf := false, last := decide (ordinal + 1 = v.count), flags := 0, rows := v.rows, cols := v.cols,
                              no := ordinal, dbytes := l.2.1.length, seq := (v.ord + ordinal) % 2 ^ 48, data := l.2.1 }
            let c := convertTile r.seed a.station e.fmt t
            ((l.1.countSizing x.field c.2).emit a 0 c.1).itemDone a ordinal
      | _, _ => b))

/-- VAT_STORE_TILE (R410, R411): a tile is converted and stored into the slot of its tile_no. -/
def execVatStoreTile (a : StRef) (ordinal : Nat) (upsets : List Upset) (s : State) : Host.Outcome State Fault Refusal :=
  lift s (fun b => b.meeting a.tenant upsets (fun b =>
    match b.working a ordinal with
    | none => b
    | some (r, st, x) =>
      match st.entry.type, x.tile 0 with
      | .vat, some t =>
        let v := vatPar st.params
        let slot := v.slot t.no t.rows t.cols
        if v.mode ≠ vatStore then b
        else if v.rows < t.rows ∨ v.cols < t.cols then b.killAt a stVatShape (BitVec.ofNat 32 t.no)
        else if !b.canWriteAll r.ref.tenant slot then b
        else
          let c := convertTile r.seed a.station v.mfmt t
          let b1 := (b.countSizing x.field c.2).modRun r.ref (fun z => { z with ovf := z.ovf || c.1.ovf, unf := z.unf || c.1.unf })
          let w := Block.storeAll x.field r.ref.tenant (cutRanges slot c.1.data) b1
          if w.2 ≠ stOk then w.1.killAt a w.2 (BitVec.ofNat 32 t.no) else w.1.itemDone a ordinal
      | _, _ => b))

/-- VAT_HINT_RECORD (R407, R409): the next record of a tile goes to the Vatman. -/
def execVatHintRecord (a : StRef) (ordinal : Nat) (s : State) : Host.Outcome State Fault Refusal :=
  lift s (fun b =>
    match b.working a ordinal with
    | none => b
    | some (r, st, x) =>
      match st.entry.type, x.tile 0 with
      | .vat, some t =>
        let done : Kv Nat Nat := match st.body with | .vat h => h | _ => []
        let k := done.getD ordinal 0
        if (vatPar st.params).mode ≠ vatHint ∨ st.turn ordinal = false then b
        else
          let b1 := (b.hintRecord r.ref.tenant (t.row 32 k)).1
          if t.rows ≤ k + 1 then (b1.modSt a (fun z => { z with body := .vat (done.del ordinal) })).itemDone a ordinal
          else b1.modSt a (fun z => { z with body := .vat (done.set ordinal (k + 1)) })
      | _, _ => b)

end Sys2Proof.Machine
end

