-- ==== Sys2Proof/Machine/Items.lean ====
section
/-! DEFINITION. The Ridge: work items from their first operand to their completion, dispatch, splat withdrawal, tokens, the watchdog, and the end of a station (chapters 06, 12 and 13). -/
namespace Sys2Proof.Machine

/-! ## The end of a station (R186) -/

/-- A station has no input port. -/
def Run.noInput (r : Run) (i : Nat) : Bool := r.edges.all (fun e => decide (e.entry.dst ≠ i))

/-- Items that a station with no input makes in all (R328, R410): one covers every ray of a camera, and every batch of a course (log entry 123). -/
def Station.inputless (s : Station) : Nat :=
  match s.entry.type with
  | .yealm => if (yealmPar s.params).src = 3 then 1 else 0
  | .couch => if (couchPar s.params).replay then 1 else 0
  | .lath => lathCount s.params
  | .vat => (vatPar s.params).count
  | _ => 0

/-- The station's work is done (R186). -/
def Run.over (r : Run) (i : Nat) (s : Station) : Bool :=
  match s.entry.type with
  | .yealm => s.yealmOver && s.allDone
  | .couch => r.couchEnd i s
  | .bin => s.binOver
  | .blend => s.blendOver
  | .gate => if s.entry.gout then r.drained i && s.allDone else (match s.body with | .gate g => g.closed | _ => false)
  | .mould => r.drained i && s.allDone && s.mould.jobs.isEmpty
  | .lath => s.allDone && (if r.noInput i then decide (s.inputless ≤ s.completed) else r.drained i)
  | .vat => s.allDone && (if r.noInput i then decide (s.inputless ≤ s.completed) else r.drained i)
  | _ => r.drained i && s.allDone

def Station.lath (s : Station) : LathSt :=
  match s.body with
  | .lath l => l
  | _ => { regs := 8, ws := 1, code := 0, ins := [], held := [], ovf := false, unf := false }

def Block.modLath (b : Block) (a : StRef) (f : LathSt → LathSt) : Block := b.modSt a (fun s => { s with body := .lath (f s.lath) })

/-- A LATH station finishes: its held tiles go out with last set and the flags of its items; a port that holds none gets a closing tile with them; without an output port they join the run's (R360). -/
def Block.finishLath (b : Block) (a : StRef) (r : Run) (s : Station) : Block :=
  let l := s.lath
  let ports := (r.edges.filter (fun e => decide (e.entry.src = a.station))).map (fun e => e.entry.sport)
  let lastOf (p : Nat) : Tile :=
    let t := (l.held.get p).getD (closingTile rawCode)
    { t with last := true, ovf := t.ovf || l.ovf, unf := t.unf || l.unf }
  let b1 := ports.foldl (fun (x : Block) p => x.emit a p (lastOf p)) b
  let b2 := if ports.isEmpty then b1.modRun r.ref (fun x => { x with ovf := x.ovf || l.ovf, unf := x.unf || l.unf }) else b1
  b2.modSt a (fun z => { z with finished := true })

/-- TILE packets of a GATE output's run still wait to leave for its source (R63, R185). -/
def Block.gateSending (b : Block) (r : Run) (s : Station) : Bool :=
  let mine (x : Option (Nat × Word)) : Bool := decide (x = some (r.ref.tenant, r.ref.handle))
  let src := s.entry.gsource
  decide (s.entry.type = .gate) && s.entry.gout &&
  (if src < 8 then (b.seat src).outq.any (fun p => mine p.run) else (b.gable (src - 8)).held.any (fun e => mine e.run))

/-- A station whose work is done finishes; a GATE output once its last packet has left. -/
def Block.settle (b : Block) (a : StRef) : Block :=
  match b.live a with
  | none => b
  | some (r, s) =>
    if !r.over a.station s || b.gateSending r s then b
    else (match s.entry.type with
      | .lath => b.finishLath a r s
      | _ => b.finish a)

/-! ## The matching store (R364 to R369) -/

/-- Entries of the matching store, and those in use (R365). -/
def Block.matchSize (b : Block) : Nat := (b.start.img.map (fun g => g.matchStore * 65536)).getD 0
def Block.matchUsed (b : Block) : Nat := b.ridge.items.countP (fun x => !x.spilled)

/-- A run's priority under its tenant's ceiling (R141, R374). -/
def Block.capPrio (b : Block) (r : Run) : Nat := min r.prio (b.tenant r.ref.tenant).prioMax

def Item.at_ (x : Item) : StRef := { tenant := x.run.tenant, handle := x.run.handle, station := x.station }

def Item.is (x : Item) (r : RunRef) (i n : Nat) : Bool := decide (x.run = r ∧ x.station = i ∧ x.ordinal = n)

def Block.setItem (b : Block) (x : Item) : Block :=
  { b with ridge := { b.ridge with items := b.ridge.items.map (fun y => if y.is x.run x.station x.ordinal then x else y) } }

/-- Fired items in a station's queue. -/
def Block.firedOf (b : Block) (r : RunRef) (i : Nat) : Nat := b.ridge.items.countP (fun x => decide (x.run = r ∧ x.station = i) && x.fired)

/-- An item whose slots are all filled fires: it enters its station's queue at its run's priority, capped now (R364, R370, R374); without Gutter room the queue is HELD (R381). -/
def Block.fireItem (b : Block) (x : Item) : Block :=
  match b.findRun x.run with
  | none => b
  | some r =>
    let q := HeldQueue.items x.run x.station
    let n := b.firedOf x.run x.station
    if x.fired || x.spilled || decide (x.slots.length < x.need) || b.isHeld x.run.tenant q then b
    else if b.gutterFree x.run.tenant < needsPage n (n + 1) then b.hold x.run.tenant q
    else (b.setItem { x with fired := true, prio := b.capPrio r }).bump (Map.rdgQc (b.queueNo x.run.tenant q)) 1

/-- Every item that can fire fires. -/
def Block.fireAll (b : Block) : Block := b.ridge.items.foldl (fun (x : Block) i => x.fireItem i) b

/-- Spilled items return to entries that are free, the one that spilled first of all tenants first (R369); `fuel` bounds their number. -/
def Block.returnSpilled : Nat → Block → Block
  | 0, b => b
  | n + 1, b =>
    match b.ridge.items.find? (fun x => x.spilled) with
    | none => b
    | some x => if b.matchUsed < b.matchSize then Block.returnSpilled n (b.setItem { x with spilled := false }) else b

/-- The store as it stands once freed entries and Gutter pages have been used. -/
def Block.matchFlow (b : Block) : Block := (Block.returnSpilled b.ridge.items.length b).fireAll

/-- An item is created with its first operand: in the store, or spilled to the Gutter; without Gutter room the queue that delivered it is HELD (R364, R369, R381). -/
def Block.createItem (b : Block) (a : StRef) (q : HeldQueue) (slots : List (Nat × Operand)) (need : Nat) : Option Block :=
  match (b.findRun (stRun a)).bind (fun r => r.stations[a.station]?) with
  | none => none
  | some s =>
    let spill := decide (b.matchSize ≤ b.matchUsed)
    let n := b.ridge.items.countP (fun x => decide (x.run.tenant = a.tenant) && x.spilled)
    let pages := if spill then ceilDiv (n + 1) 64 - ceilDiv n 64 else 0
    if pages ≠ 0 ∧ (b.isHeld a.tenant q = true ∨ b.gutterFree a.tenant < pages) then none
    else
      let x : Item := { run := stRun a, station := a.station, ordinal := s.made, slots := slots, need := need, fired := false, spilled := spill, prio := 0 }
      let b1 := { b with ridge := { b.ridge with items := b.ridge.items ++ [x] } }.modSt a (fun (z : Station) => { z with made := z.made + 1 })
      some ((if spill then b1.setErrBit Map.rdgErr 1 else b1).fireItem x)

/-- A created item, or the delivering queue HELD. -/
def Block.newItemOr (b : Block) (a : StRef) (q : HeldQueue) (slots : List (Nat × Operand)) (need : Nat) (go : Block → Block) : Block :=
  match b.createItem a q slots need with
  | some b1 => go b1
  | none => b.hold a.tenant q

/-- A tile joins an item that exists. -/
def Block.fillSlot (b : Block) (a : StRef) (n slot : Nat) (t : Tile) : Block :=
  match b.ridge.items.find? (fun x => x.is (stRun a) a.station n) with
  | none => b
  | some x =>
    let y : Item := { x with slots := x.slots ++ [(slot, .tile t)] }
    (b.setItem y).fireItem y

/-! ## OPERAND_ARRIVAL -/

/-- Tiles that the input ports of a LATH station have delivered disagree once a port has closed (R330): the port that closed first. -/
def Station.countsDiffer (s : Station) (ports : List Nat) : Option Nat :=
  match s.closedIn with
  | [] => none
  | p :: _ =>
    let n := s.takenAt.getD p 0
    if ports.any (fun q => decide (n < s.takenAt.getD q 0) || (s.closedIn.contains q && decide (s.takenAt.getD q 0 ≠ n))) then some p else none

/-- An INPUT_COUNT kill (R330); the core that LTH_LAST_ERR names is not stated (log entry 54). -/
def Block.checkCounts (b : Block) (a : StRef) : Block :=
  match b.live a with
  | none => b
  | some (_, s) =>
    match s.countsDiffer s.lath.ins with
    | none => b
    | some p =>
      let core := 72 * s.homeField + (Config.freeWord b.free).toNat % 72
      ({ b with free := b.free + 1 } : Block).killLath core a 0 stInputCount (BitVec.ofNat 32 p)

/-- A closing tile leaves its ring and makes no item (R186, R329). -/
def Block.takeClosing (b : Block) (a : StRef) (port : Nat) : Block :=
  ((b.take a port).modSt a (fun s => { s with takenAt := s.takenAt.set port (s.takenAt.getD port 0 - 1) })).release a port 1

/-- A tile at a LATH port: item i takes tile i of every port (R329). -/
def Block.lathOperand (b : Block) (a : StRef) (s : Station) (q : HeldQueue) (port : Nat) (t : Tile) : Block :=
  if t.closing then (b.takeClosing a port).checkCounts a
  else
    let k := s.takenAt.getD port 0
    if k < s.made then ((b.take a port).fillSlot a k port t).checkCounts a
    else b.newItemOr a q [(port, .tile t)] s.lath.ins.length (fun x => (x.take a port).checkCounts a)

/-- A tile at an UNPACK station: four tiles make an item (R480); a frame that ends within four is of the wrong shape. -/
def Block.unpackOperand (b : Block) (a : StRef) (s : Station) (q : HeldQueue) (t : Tile) : Block :=
  let part := b.ridge.items.find? (fun x => decide (x.run = stRun a ∧ x.station = a.station) && decide (x.slots.length < x.need))
  let short (n : Nat) : Bool := t.last && decide (n ≠ 0 ∧ n ≠ 4)
  match part with
  | some x =>
    let n := x.slots.length
    if t.closing then (b.takeClosing a 0).killSplat s.homeField a stSplatShape t.no
    else
      let b1 := (b.take a 0).fillSlot a x.ordinal n t
      if short (n + 1) then b1.killSplat s.homeField a stSplatShape t.no else b1
  | none =>
    if t.closing then b.takeClosing a 0
    else b.newItemOr a q [(0, .tile t)] 4 (fun x =>
      if short 1 then (x.take a 0).killSplat s.homeField a stSplatShape t.no else x.take a 0)

/-- A Mould's tile: one item a row (R256); the row leaves the tile, and the last one frees its place. -/
def Block.mouldOperand (b : Block) (a : StRef) (q : HeldQueue) (j : Nat) (t : Tile) : Block :=
  if t.closing then b.takeClosing a 0
  else
    let row : Tile := { t with rows := 1, dbytes := t.cols, data := t.data.take t.cols }
    let rest : Tile := { t with rows := t.rows - 1, data := t.data.drop t.cols, dbytes := t.dbytes - t.cols }
    b.newItemOr a q [(0, .tile row)] 1 (fun x =>
      if t.rows ≤ 1 then x.consume a 0
      else x.modEdge (stRun a) j (fun e => { e with tiles := rest :: e.tiles.drop 1 }))

/-- A GATE output may send: its seat link is open with nothing queued, or its host's ring holds nothing back (R185, R63). -/
def Block.gateClear (b : Block) (src : Nat) : Bool :=
  if src < 8 then decide ((b.seat src).state = .opened) && (b.seat src).outq.isEmpty
  else b.hostOpen (src - 8) && !(b.gable (src - 8)).ringFull

/-- The TILE packets of one tile (R185). -/
def gatePackets (a : StRef) (stream seq : Nat) (t : Tile) : List (List Byte) :=
  let bytes := t.header ++ t.data
  let parts := chunk 4032 bytes.length bytes
  let args : List Word := [a.handle, BitVec.ofNat 32 a.station, BitVec.ofNat 32 t.no, BitVec.ofNat 32 bytes.length]
  (List.range parts.length).map (fun k =>
    mkPacket 0x06 (decide (k + 1 < parts.length)) false ((seq + k) % 2 ^ 48) stream 0#32 0 args (parts.getD k []))

/-- A GATE output converts the tile of an item to gfmt and sends it (R185, R219). -/
def Block.gateOut (b : Block) (a : StRef) (r : Run) (s : Station) (t : Tile) : Block :=
    let c := if t.closing then ({ t with fmt := s.entry.gfmt }, Tally.zero) else convertTile r.seed a.station s.entry.gfmt t
    let seq := match s.body with | .gate g => g.seq | _ => 0
    let ps := gatePackets a s.entry.gstream seq c.1
    let b1 := if t.closing then b else b.countSizing s.homeField c.2
    let b2 := b1.modRun r.ref (fun x => { x with ovf := x.ovf || c.1.ovf, unf := x.unf || c.1.unf })
    let b3 := b2.modSt a (fun z => { z with body := .gate { seq := (seq + ps.length) % 2 ^ 48, taken := 0, closed := t.last } })
    ps.foldl (fun (x : Block) p => x.sendPacket s.entry.gsource p (some (a.tenant, a.handle))) b3

/-- A station with no input makes its next item, at most 64 of them undispatched (R364). -/
def Block.makeItem (b : Block) (a : StRef) (s : Station) : Block :=
  if s.made < s.inputless ∧ s.made - s.dispatched < 64 then b.newItemOr a (.items (stRun a) a.station) [] 0 (fun x => x) else b

/-- The tile at the head of an input port reaches its station. -/
def Block.arrive1 (b : Block) (a : StRef) (r : Run) (s : Station) (port j : Nat) (t : Tile) : Block :=
  let q := HeldQueue.edge r.ref j
  match s.entry.type with
  | .yealm =>
    if t.closing then (b.takeClosing a 0).yealmClose a
    else if r.wrongCols a.station t then b.killAt a stRayShape (BitVec.ofNat 32 t.no)
    else b.newItemOr a q [(0, .tile t)] 1 (fun x => x.take a 0)
  | .gate => b.newItemOr a q [(0, .tile t)] 1 (fun x => x.take a 0)
  | .mould => b.mouldOperand a q j t
  | .lath => b.lathOperand a s q port t
  | .rafter =>
    if port ≠ 0 then b
    else if t.closing then b.takeClosing a 0
    else b.newItemOr a q [(0, .tile t)] 1 (fun x => ((x.take a 0).nameTree a s t).1)
  | .pack =>
    if packReverse s.params then b.unpackOperand a s q t
    else if t.closing then b.takeClosing a port else b.newItemOr a q [(port, .tile t)] 1 (fun x => x.take a port)
  | _ => if t.closing then b.takeClosing a port else b.newItemOr a q [(port, .tile t)] 1 (fun x => x.take a port)

/-- The next operand of a port reaches its station, or a station with no input makes an item. -/
def Block.operandIn (b : Block) (a : StRef) (port : Nat) : Block :=
  match b.live a with
  | none => b
  | some (r, st) =>
    match r.inEdge a.station port with
    | none => if r.noInput a.station then (b.makeItem a st).settle a else b
    | some (j, e) =>
      match e.tiles with
      | [] => b.settle a
      | t :: _ => (b.arrive1 a r st port j t).settle a

/-- OPERAND_ARRIVAL (R364 to R369, R141): a tile reference fills a slot, creating or firing its item; a station with no input makes an item. -/
def execOperandArrival (a : StRef) (port : Nat) (upsets : List Upset) (s : State) : Host.Outcome State Fault Refusal := lift s (fun b => b.meeting a.tenant upsets (fun b => b.matchFlow.operandIn a port))

/-! ## ITEM_DISPATCH (R367, R375 to R379) -/

/-- A unit is being drained or tested by Screen (R493). -/
def Block.underTest (b : Block) (id : Nat) : Bool :=
  match b.screen.rot with
  | .idle => false
  | .waiting u _ => decide (u = id)
  | .running u _ => decide (u = id)

/-- A unit of a station's type takes work: in service and not under test. BIN, BLEND and PACK have no unit class of their own. -/
def Block.unitWorks (b : Block) (ty : StType) (f u : Nat) : Bool :=
  match unitClass ty with
  | some (c, _) => b.unitIn f c u && !b.underTest (unitId f c u)
  | none => b.fieldIn f

/-- Items that a unit of a type holds, of any station (R361). -/
def Block.unitLoad (b : Block) (ty : StType) (f u : Nat) : Nat :=
  sumNat (b.runs.map (fun r => sumNat (r.stations.map (fun s =>
    if s.entry.type = ty then s.active.countP (fun x => decide (x.field = f ∧ x.unit = u) && !x.freed) else 0))))

/-- Items that a unit of a type takes at once (R255). -/
def unitRoom (ty : StType) (load : Nat) : Bool :=
  match ty with
  | .rafter => decide (load < 16)
  | .blend => true
  | _ => decide (load = 0)

/-- The launch of a LATH station on a core. -/
def Run.launchOf (r : Run) (i : Nat) (s : Station) : LLaunch :=
  let l := s.lath
  let slots := lathSlots s.entry.sheafs l.ws
  { run := r.ref, station := i, slots := slots, window := lathWindow s.entry.split slots, ws := l.ws, regs := l.regs,
    cacheBytes := cachePart s.entry.split, codeLen := l.code, splat := r.splatClass i }

/-- The lowest free slot that a core gives a launch: of its own slots, or of a core that runs no item (R332, R333). -/
def LCore.freeSlot (c : LCore) (l : LLaunch) : Option Nat :=
  let mine := match c.launch with | some x => decide (x.run = l.run ∧ x.station = l.station) && !c.withdraw | none => false
  if mine then (List.range l.slots).find? (fun k => (c.items.get k).isNone)
  else if c.items.isEmpty && decide (0 < l.slots) then some 0 else none

/-- The cores of a station in a field that can work, lowest first. -/
def Block.coresOf (b : Block) (s : Station) (f : Nat) : List Nat :=
  (sortBy (fun (x y : Nat) => decide (x ≤ y)) ((s.units.filter (fun u => decide (u.1 = f) && b.unitWorks .lath u.1 u.2)).map (fun u => 72 * f + u.2)))

/-- Where an item of a station can go in a field: unit and slot. -/
def Block.placeFor (b : Block) (r : Run) (i : Nat) (s : Station) (f : Nat) : Option (Nat × Nat) :=
  match s.entry.type with
  | .gate => if b.gateClear s.entry.gsource then (s.units.find? (fun u => decide (u.1 = f) && b.unitWorks .gate f u.2)).map (fun u => (u.2, 0)) else none
  | .lath => (b.coresOf s f).findSome? (fun c => ((b.core c).freeSlot (r.launchOf i s)).map (fun k => (c % 72, k)))
  | ty => (s.units.find? (fun u => decide (u.1 = f) && b.unitWorks ty f u.2 && unitRoom ty (b.unitLoad ty f u.2))).map (fun u => (u.2, 0))

/-- The Calender withholds work of a priority (R92). -/
def Block.withheldPrio (b : Block) (f p : Nat) : Bool :=
  decide (2 ≤ b.cal.withheld ∧ p < b.cal.withheld - 2) || (decide (p + 2 = b.cal.withheld) && b.cal.withheldAt.contains f)

/-- An item that has fired and that R367 allows, with its run and station. -/
def Block.allowed (b : Block) (x : Item) : Option (Run × Station) :=
  match b.live x.at_ with
  | some (r, s) => if x.fired && !x.spilled && decide (x.ordinal = s.dispatched) then some (r, s) else none
  | none => none

/-- The candidates of a field's port: item, run, station, unit and slot. -/
def Block.candidates (b : Block) (f : Nat) : List (Item × Run × Station × Nat × Nat) :=
  b.ridge.items.filterMap (fun x =>
    match b.allowed x with
    | some (r, s) => if b.withheldPrio f x.prio then none else (b.placeFor r x.station s f).map (fun p => (x, r, s, p.1, p.2))
    | none => none)

/-- The candidate that a port serves: the highest priority, then the queue that follows the one last served at it (R375). -/
def Block.choose (b : Block) (f : Nat) : Option (Item × Run × Station × Nat × Nat) :=
  let l := b.candidates f
  let best := l.foldl (fun m x => max m x.1.prio) 0
  let last := b.ridge.served.getD (f, best) 65535
  let dist (x : Item × Run × Station × Nat × Nat) : Nat := (x.2.2.1.queue + 65536 - last - 1) % 65536
  (sortBy (fun (x y : Item × Run × Station × Nat × Nat) => decide (dist x ≤ dist y)) (l.filter (fun x => x.1.prio = best))).head?

/-- Tiles of an item's slots. -/
def slotTiles (l : List (Nat × Operand)) : List (Nat × Tile) :=
  l.map (fun y => match y.2 with | .tile t => (y.1, t))

/-- An item of a LATH station begins in a slot of a core (R333, R334). -/
def Block.hostItem (b : Block) (r : Run) (i : Nat) (s : Station) (core slot : Nat) (x : Item) : Block :=
  b.modCore core (fun c =>
    let same := match c.launch with | some l => decide (l.run = r.ref ∧ l.station = i) | none => false
    let c0 := if same then c else c.fitLines (r.launchOf i s)
    let c1 := c0.openWindow slot r.order i b.free
    { c1 with launch := some (r.launchOf i s), withdraw := if same then c.withdraw else false,
              items := c1.items.set slot (newItem r.seed i s.lath.ws x.ordinal b.now (slotTiles x.slots)) })

/-- An item leaves the store and begins on its unit: a core hosts it, the former takes its rows, a GATE sends its tile. -/
def Block.dispatch (b : Block) (f : Nat) (x : Item) (r : Run) (s : Station) (unit slot : Nat) : Block :=
  let act : Active := { ordinal := x.ordinal, field := f, unit := unit, slots := x.slots, at_ := b.now, done := false, freed := false }
  let b1 : Block := { b with ridge := { b.ridge with items := b.ridge.items.filter (fun y => !y.is x.run x.station x.ordinal), served := b.ridge.served.set (f, x.prio) s.queue } }
  let b2 := b1.modSt x.at_ (fun z => { z with dispatched := z.dispatched + 1, active := z.active ++ [act] })
  let b3 := (b2.bump Map.rdgDispCnt 1).bump (Map.rdgPrioDisp x.prio) 1
  match s.entry.type with
  | .lath => let b4 := b3.hostItem r x.station s (72 * f + unit) slot x; { b4 with free := b4.free + 2 ^ 18 }
  | .yealm => b3.yealmStart x.at_ x.slots
  | .gate => (slotTiles x.slots).foldl (fun (y : Block) t => (y.gateOut x.at_ r s t.2).itemDone x.at_ x.ordinal) b3
  | _ => b3

/-- A launch may be withdrawn for a compute item of a priority: it is of the splat class and its priority lies below (R379). -/
def Block.yields (b : Block) (c p : Nat) : Option Nat :=
  match (b.core c).launch with
  | some l => (match b.findRun l.run with
      | some r => if l.splat && decide (b.capPrio r < p) then some (b.capPrio r) else none
      | none => none)
  | none => none

/-- The core to mark for a compute item that finds no slot in a field: the lowest-priority splat launch, then the lowest core (R379). -/
def Block.toWithdraw (b : Block) (f : Nat) (x : Item) : Option Nat :=
  match b.allowed x with
  | none => none
  | some (r, s) =>
    let cs := b.coresOf s f
    if s.entry.type ≠ .lath ∨ r.splatClass x.station = true ∨ (b.placeFor r x.station s f).isSome = true ∨ cs.any (fun c => (b.core c).withdraw) = true then none
    else
      let l := cs.filterMap (fun c => (b.yields c x.prio).map (fun p => (p, c)))
      ((sortBy (fun (x y : Nat × Nat) => decide (x.1 < y.1) || (decide (x.1 = y.1) && decide (x.2 ≤ y.2))) l).head?).map (fun y => y.2)

/-- Marks a core for withdrawal where a compute item needs one (R379). -/
def Block.withdrawFor (b : Block) (f : Nat) : Block :=
  match b.ridge.items.findSome? (b.toWithdraw f) with
  | none => b
  | some c => ((b.modCore c (fun x => { x with withdraw := true })).bump Map.rdgPreemptCnt 1).bump (Map.rdgCoreWdr c) 1

/-- ITEM_DISPATCH (R375, R367, R379): a field's port sends one candidate to its unit. -/
def execItemDispatch (f : Nat) (upsets : List Upset) (s : State) : Host.Outcome State Fault Refusal :=
  lift s (fun b0 => b0.meeting 0 upsets (fun b0 =>
    let b := b0.matchFlow
    let b1 := match b.choose f with
      | some (x, r, st, u, k) => (b.dispatch f x r st u k).matchFlow
      | none => b
    b1.withdrawFor f))

/-! ## ITEM_COMPLETE (R335, R360, R379) -/

/-- The slot of a core that runs an item of a station. -/
def LCore.slotOf (c : LCore) (a : StRef) (n : Nat) : Option (Nat × LItem) :=
  match c.launch with
  | some l => if l.ref = a then c.items.find? (fun e => e.2.ordinal = n) else none
  | none => none

/-- Every thread has exited, and no operation of the slot is outstanding. -/
def LCore.itemOver (c : LCore) (slot : Nat) (it : LItem) : Bool :=
  it.sheafs.all (fun sh => sh.threads.all (fun t => t.state = .exited)) && c.ops.all (fun o => o.slot ≠ slot) && c.mat.all (fun m => m.slot ≠ slot)

/-- A core whose launch is withdrawn, or whose run is being tested off it, hosts none once its items have completed. -/
def LCore.leave (c : LCore) : LCore := if c.withdraw && c.items.isEmpty then { c with launch := none, withdraw := false } else c

/-- The tiles of an item are released (R183). A Mould's tile is released row by row as its items are made. -/
def Block.releaseSlots (b : Block) (a : StRef) (s : Station) (slots : List (Nat × Operand)) : Block :=
  match s.entry.type with
  | .mould => b
  | .pack => b.release a 0 (slotTiles slots).length
  | _ => (slotTiles slots).foldl (fun (x : Block) y => x.release a y.1 1) b

/-- An item ends: it leaves its unit, its tiles are released, and its station may be done. -/
def Block.endItem (b : Block) (a : StRef) (s : Station) (x : Active) : Block :=
  let b1 := b.modSt a (fun z => { z with active := z.active.filter (fun y => y.ordinal ≠ x.ordinal), completed := z.completed + 1 })
  ((b1.releaseSlots a s x.slots).matchFlow).settle a

/-- An item of a LATH station leaves its core, and ends. -/
def Block.endLath (b : Block) (a : StRef) (st : Station) (x : Active) (c k : Nat) (it : LItem) : Block :=
  let b1 := b.modCore c (fun y => ({ y with items := y.items.del k } : LCore).leave)
  let b2 := (b1.bump (Map.lthItemCnt x.field) 1).bump (Map.rdgCoreItems c) 1
  (b2.modLath a (fun l => { l with ovf := l.ovf || it.ovf, unf := l.unf || it.unf })).endItem a st x

/-- ITEM_COMPLETE (R335, R186, R360): an item whose work is done completes. An item of STEP_CHECK that has issued nothing may run as a whole here (R446, log entry 124). -/
def execItemComplete (a : StRef) (ordinal : Nat) (s : State) : Host.Outcome State Fault Refusal :=
  lift s (fun b =>
    match b.live a with
    | none => b
    | some (r, st) =>
      match st.item ordinal with
      | none => b
      | some x =>
        if st.entry.type = .lath then
          let c := 72 * x.field + x.unit
          match (b.core c).slotOf a ordinal with
          | none => b
          | some (k, it) =>
            if (b.core c).itemOver k it then b.endLath a st x c k it
            else if st.entry.stepCheck && (b.core c).itemFresh k it then
              let w := b.stepCheck a r st c ordinal
              if w.2 then w.1.endLath a st x c k it else w.1
            else b
        else if x.done then b.endItem a st x else b)

/-! ## Tokens and the watchdog -/

/-- RIDGE_TOKEN (R368, R291, R299): a posted token reaches the station that awaits it. -/
def execRidgeToken (index : Nat) (s : State) : Host.Outcome State Fault Refusal :=
  lift s (fun b =>
    match b.ridge.tokens[index]? with
    | none => b
    | some t =>
      let a : StRef := { tenant := t.run.tenant, handle := t.run.handle, station := t.station }
      let b1 : Block := { b with ridge := { b.ridge with tokens := b.ridge.tokens.eraseIdx index } }
      match b1.live a with
      | none => b1
      | some (_, st) =>
        (match st.entry.type with
        | .yealm => b1.modYealm a (fun y => y.token t)
        | .couch => b1.modCouch a (fun c => c.token st.homeField t)
        | _ => b1))

/-- WATCHDOG_TIMEOUT (R361, R384): an item has run longer than the watchdog allows. -/
def execWatchdogTimeout (a : StRef) (ordinal : Nat) (s : State) : Host.Outcome State Fault Refusal :=
  lift s (fun b =>
    match b.live a, b.start.img with
    | some (_, st), some g =>
      (match st.item ordinal with
      | none => b
      | some x =>
        if b.coreSince x.at_ < g.watchdog then b
        else if st.entry.type = .lath then b.killLath (72 * x.field + x.unit) a ordinal stWatchdog (BitVec.ofNat 32 ordinal)
        else b.killAt a stWatchdog (BitVec.ofNat 32 ordinal))
    | _, _ => b)

/-! ## The end of HELD (R383) -/

/-- The packet at the head of a source of a tenant that waits to be held in a stream. -/
def Block.heldPacket (b : Block) (t strm : Nat) : Option Pkt :=
  (List.range 20).findSome? (fun src => if b.owner src = some t then (b.inq.find? (fun p => p.src = src)).filter (fun p => decide (p.stream = strm)) else none)

/-- The entry that a queue could not place is placed, or the queue enters HELD once more (R381, R383): a packet in its stream's queue, a tile in its edge's ring, a hit tile or an operand with the consumer of its edge, fired items in their station's queue, a fragment at its BLEND. -/
def Block.placeHeld (b : Block) (t : Nat) (q : HeldQueue) : Block :=
  match q with
  | .admission strm => (match b.heldPacket t strm with | some p => b.classify t p | none => b)
  | .edge ref j =>
    (match (b.findRun ref).bind (fun r => (r.edges[j]?).bind (fun e => (r.stations[e.entry.dst]?).map (fun s => (e.entry, s)))) with
    | none => b
    | some (e, s) =>
      let at_ (i : Nat) : StRef := { tenant := ref.tenant, handle := ref.handle, station := i }
      let b1 := b.flushOut (at_ e.src)
      match s.entry.type, s.active.find? (fun x => !x.done) with
      | .couch, some x => b1.ingest (at_ e.dst) x.ordinal
      | .couch, none => b1.operandIn (at_ e.dst) e.dport
      | _, _ => b1.operandIn (at_ e.dst) e.dport)
  | .items ref i => b.ridge.items.foldl (fun (x : Block) y => if y.run = ref ∧ y.station = i then x.fireItem y else x) b
  | .blend ref i => b.takeFragment { tenant := ref.tenant, handle := ref.handle, station := i } 0

/-- QUEUE_HELD_RESUME (R383): a Gutter page is free, and the queue that entered HELD first resumes and takes it; host slots are taken again (R382). -/
def execQueueHeldResume (t : Nat) (s : State) : Host.Outcome State Fault Refusal :=
  lift s (fun b =>
    match b.ridge.held.find? (fun h => h.1 = t) with
    | none => b
    | some h =>
      if b.gutterFree t = 0 then b
      else
        let b1 := match h.2.1 with
          | .blend _ _ => b
          | q => b.bump (Map.rdgQd (b.queueNo t q)) (b.coreSince h.2.2 / 1024)
        let b2 : Block := { b1 with ridge := { b1.ridge with held := b1.ridge.held.erase h } }
        (List.range 12).foldl (fun (x : Block) p => if x.owner (8 + p) = some t ∧ (x.gable p).opened = true then x.takeSlots p else x) (b2.placeHeld t h.2.1))

end Sys2Proof.Machine
end

