-- ==== Sys2Proof/Machine/LathMma.lean ====
section
/-! DEFINITION. The matrix unit of a Lath core: MMA.T, MMA.SHEAF and their completion (chapter 12, R342, R345 to R347; R213 to R217). -/
namespace Sys2Proof.Machine

/-- Entries of a core's matrix queue. -/
def matDepth : Nat := 4

/-- The format that a kind bit names (R345). -/
def mmaFmt (e5 : Bool) : Fmt := if e5 then .e5m2 else .e4m3

/-- Bytes of an operand of `rows` × 8 rows and `k` × 32 elements, scales behind (R197, R345). -/
def mmaBytes (rows k : Nat) : Nat := 8 * rows * (32 * k) + 8 * rows * k

/-- The shape register's fields: M ÷ 8, N ÷ 8 and K ÷ 32 (R345). -/
def mmaShape (w : Word) : Option (Nat × Nat × Nat) :=
  let m := wfield w 0 4 + 1
  let n := wfield w 4 4 + 1
  let k := wfield w 8 4 + 1
  if m ≤ 8 ∧ n ≤ 8 ∧ wfield w 12 20 = 0 then some (m, n, k) else none

/-- What is wrong with an MMA.T of a thread (R345, R349). -/
def mmaFault (window : Nat) (t : Thread) (i : LInstr) : Option Nat :=
  match mmaShape (t.reg i.dst) with
  | none => some stIllegal
  | some (m, n, k) =>
    let one (r len : Nat) : Option Nat :=
      let x := (t.reg r).toNat
      if x % 16 ≠ 0 then some stAlign else if window < x + len then some stBounds else none
    lowest [one i.a (mmaBytes m k), one i.b (mmaBytes n k), one i.c (256 * (m * n))]

/-- The queue entry of a thread's MMA.T, with its operands' bytes as they stand. -/
def LCore.tileOp (c : LCore) (a : LathAt) (lane : Nat) (t : Thread) (i : LInstr) : MatOp :=
  let sh := (mmaShape (t.reg i.dst)).getD (1, 1, 1)
  let pa := (t.reg i.a).toNat
  let pb := (t.reg i.b).toNat
  let pc := (t.reg i.c).toNat
  { slot := a.slot, sheaf := a.sheaf, tok := i.setTok, accumulate := i.modBit 11, aE5 := i.modBit 12, bE5 := i.modBit 13,
    kind := .tile lane pa pb pc sh.1 sh.2.1 sh.2.2 (c.localBytes a.slot pa (mmaBytes sh.1 sh.2.2)) (c.localBytes a.slot pb (mmaBytes sh.2.1 sh.2.2))
      (c.localBytes a.slot pc (256 * (sh.1 * sh.2.1))) }

/-- The fields of a matrix instruction: mod [11] accumulates, mod [12] and [13] are the kinds of A and B (R345, R346). -/
def mmaUse (scope : Bool) : LUse := { (LUse.of 7).regs true true true true with scope := scope, mods := 7, tok := !scope }

/-- MMA_T (R345): acting threads enter the queue in lane order while it has room; the others stall. -/
def execMmaT (a : LathAt) (i : LInstr) (s : State) : Host.Outcome State Fault Refusal :=
  lift s (fun b =>
    let regs := [i.a, i.b, i.c, i.dst]
    match b.willIssue a i (mmaUse false) regs true with
    | none => b.issue a i (mmaUse false) regs true (fun x _ => x)
    | some g0 =>
      let go := g0.act.take (matDepth - (b.core a.core).mat.length)
      let g : LGroup := { g0 with lanes := g0.lanes.filter (fun k => !g0.act.contains k || go.contains k), act := go }
      match lowest (go.map (fun k => mmaFault g.launch.window (g.thread k) i)) with
      | some c => b.killGroup a g c
      | none =>
        if g.lanes.isEmpty then b
        else
          let f := a.core / 72
          let b1 := (b.bump (Map.lthIssueCnt f) 1).bump (Map.lthLaneCnt f) g.lanes.length
          let b2 := go.foldl (fun (x : Block) k => x.modCore a.core (fun c => { c with mat := c.mat ++ [c.tileOp a k (g.thread k) i] })) b1
          b2.each a g i (fun _ t => t.addTok i.setTok))

/-- MMA_SHEAF (R342, R346): executes once every thread has arrived and the queue has room; operand registers are read then. -/
def execMmaSheaf (a : LathAt) (i : LInstr) (s : State) : Host.Outcome State Fault Refusal :=
  lift s (fun b => b.sheafWide a i (mmaUse true) [i.a, i.a + 1, i.b, i.b + 1, i.c, i.dst, i.dst + 1] true (fun x g =>
    if matDepth ≤ (x.core a.core).mat.length then x
    else
      let reg (k r : Nat) : Word := if g.act.contains k then (g.thread k).reg r else 0#32
      let pairs (r : Nat) : List (List Byte) := (List.range 32).map (fun k => leBytes 4 (reg k r).toNat ++ leBytes 4 (reg k (r + 1)).toNat)
      let op : MatOp := { slot := a.slot, sheaf := a.sheaf, tok := 0, accumulate := i.modBit 11, aE5 := i.modBit 12, bE5 := i.modBit 13,
                          kind := .sheaf i.dst g.act (pairs i.a) (pairs i.b) ((List.range 32).map (fun k => reg k i.c))
                            ((List.range 32).flatMap (fun k => [reg k i.dst, reg k (i.dst + 1)])) }
      let x1 := x.modCore a.core (fun c => { c with mat := c.mat ++ [op] })
      (x1.modLanes a (fun k t => if g.act.contains k then { t with busy := t.busy ++ [i.dst, i.dst + 1] } else t)).depart a g i))

/-- One output element: its groups in ascending order along the shared dimension (R216). -/
def mmaElem (fa fb : Fmt) : List (List Nat × Nat × List Nat × Nat) → Enc → Enc
  | [], acc => acc
  | g :: gs, acc =>
    let r := accGroup acc.code (groupResult fa fb g.1 g.2.2.1 g.2.1 g.2.2.2)
    mmaElem fa fb gs { r with ovf := r.ovf || acc.ovf, unf := r.unf || acc.unf }

/-- The 32 elements and the scale of a block of a row of an MX operand of `rows` × 8 rows (R197). -/
def mxBlock (l : List Byte) (rows k row blk : Nat) : List Nat × Nat :=
  ((sliceBytes l (row * (32 * k) + 32 * blk) 32).map (fun x => x.toNat), (l.getD (8 * rows * (32 * k) + row * k + blk) 0#8).toNat)

/-- The product of MMA.T, elements in row-major order. -/
def mmaTile (op : MatOp) (m n k : Nat) (la lb lc : List Byte) : List Enc :=
  (List.range (8 * m)).flatMap (fun r => (List.range (8 * n)).map (fun c =>
    let groups := (List.range k).map (fun j => let x := mxBlock la m k r j; let y := mxBlock lb n k c j; (x.1, x.2, y.1, y.2))
    let acc := if op.accumulate then (wordAt lc (8 * n * r + c)).toNat else 0
    mmaElem (mmaFmt op.aE5) (mmaFmt op.bE5) groups { code := acc, ovf := false, unf := false, nanw := false }))

/-- The product of MMA.SHEAF (R346). -/
def mmaSheafTile (op : MatOp) (la lb : List (List Byte)) (lc acc : List Word) : List Enc :=
  let row (l : List (List Byte)) (r : Nat) : List Nat := ((List.range 4).flatMap (fun q => l.getD (4 * r + q) [])).map (fun x => x.toNat)
  (List.range 8).flatMap (fun r => (List.range 8).map (fun c =>
    let sa := wfield (lc.getD (4 * r) 0#32) 0 8
    let sb := wfield (lc.getD (4 * c) 0#32) 8 8
    let start := if op.accumulate then (acc.getD (8 * r + c) 0#32).toNat else 0
    mmaElem (mmaFmt op.aE5) (mmaFmt op.bE5) [(row la r, sa, row lb c, sb)] { code := start, ovf := false, unf := false, nanw := false }))

/-- Operand bytes as the unit reads them: those that have changed since the issue are free values (R345). -/
def Block.operand (b : Block) (core slot addr : Nat) (snap : List Byte) : List Byte :=
  let cur := (b.core core).localBytes slot addr snap.length
  (List.range snap.length).map (fun k =>
    let x := snap.getD k 0#8
    if cur.getD k 0#8 = x then x else BitVec.ofNat 8 (Config.freeWord (b.free + addr + k)).toNat)

/-- Queued operations see what the unit itself writes: it executes them in issue order (log entry 49). -/
def MatOp.rewrite (slot addr : Nat) (l : List Byte) (o : MatOp) : MatOp :=
  match o.kind with
  | .tile lane pa pb pc m n k la lb lc =>
    let put (p : Nat) (x : List Byte) : List Byte :=
      (List.range x.length).map (fun j => if addr ≤ p + j ∧ p + j < addr + l.length then l.getD (p + j - addr) 0#8 else x.getD j 0#8)
    if o.slot = slot then { o with kind := .tile lane pa pb pc m n k (put pa la) (put pb lb) (put pc lc) } else o
  | .sheaf _ _ _ _ _ _ => o

/-- MMA_COMPLETE (R345 to R347): the operation at the head of a core's matrix queue completes. -/
def execMmaComplete (core : Nat) (s : State) : Host.Outcome State Fault Refusal :=
  lift s (fun b =>
    match (b.core core).launch, (b.core core).mat with
    | some l, op :: rest =>
      if (b.live l.ref).isNone then b
      else
        let b0 := b.modCore core (fun c => { c with mat := rest })
        let a : LathAt := { core := core, slot := op.slot, sheaf := op.sheaf }
        let flags (x : Block) (es : List Enc) : Block := x.stickItem core op.slot (es.any (fun e => e.ovf)) (es.any (fun e => e.unf))
        match op.kind with
        | .tile lane pa pb pc m n k la lb lc =>
          let es := mmaTile op m n k (b.operand core op.slot pa la) (b.operand core op.slot pb lb) (b.operand core op.slot pc lc)
          let out := es.flatMap (fun e => leBytes 4 e.code)
          let b1 := (b0.localWrite core op.slot pc out).modCore core (fun c => { c with mat := c.mat.map (MatOp.rewrite op.slot pc out) })
          let b2 := (flags b1 es).modLanes a (fun j t => if j = lane then t.subTok op.tok else t)
          ({ b2 with free := b2.free + 2 ^ 18 } : Block).bump (Map.lthMmaCnt (core / 72)) (m * n * (8 * k))
        | .sheaf dst lanes la lb lc acc =>
          let es := mmaSheafTile op la lb lc acc
          let code (j : Nat) : Word := BitVec.ofNat 32 (((es[j]?).map (fun e => e.code)).getD 0)
          let put (j : Nat) (t : Thread) : Thread :=
            if lanes.contains j then
              let t1 := (t.setReg dst (code (2 * j))).setReg (dst + 1) (code (2 * j + 1))
              { t1 with busy := t1.busy.filter (fun r => r ≠ dst ∧ r ≠ dst + 1) }
            else t
          ((flags b0 es).modLanes a put).bump (Map.lthMmaCnt (core / 72)) 8
    | _, _ => b)

end Sys2Proof.Machine
end

