-- ==== Sys2Proof/Machine/Runs.lean ====
section
/-! DEFINITION. Runs from their RUN packet to their end: launch, GATE inputs, stage ends and kills (chapter 06). -/
namespace Sys2Proof.Machine

/-! ## The descriptor's own checks (R175, R515 step 1) -/

/-- The header keeps its table, and the payload its length. -/
def descHeaderOk (l : List Byte) : Bool :=
  let w (i : Nat) : Word := wordAt l i
  decide (wfield (w 0) 0 16 = 0x5255 ∧ wfield (w 0) 16 8 = 1 ∧ wfield (w 0) 24 8 = 0 ∧ wfield (w 1) 24 8 = 0 ∧ wfield (w 2) 3 29 = 0) &&
  decide (1 ≤ descStations l ∧ descStations l ≤ 64 ∧ descEdges l ≤ 128 ∧ 1 ≤ descStages l ∧ descStages l ≤ 64) &&
  (List.range 11).all (fun i => w (5 + i) = 0#32) && decide (l.length = 64 + 32 * descStations l + 16 * descEdges l)

/-- Ports that a station's chapter gives its type. -/
def StationEntry.insOf (e : StationEntry) : List Nat :=
  match e.type with
  | .gate => if e.gout then [0] else []
  | .rafter => [0, 1]
  | .lath => [0, 1, 2, 3]
  | .blend => [0, 1]
  | _ => [0]
def StationEntry.outsOf (e : StationEntry) : List Nat :=
  match e.type with
  | .gate => if e.gout then [] else [0]
  | .yealm => [0, 1]
  | .rafter => [0, 1]
  | .lath => [0, 1, 2, 3]
  | _ => [0]

/-- The source of a GATE is the tenant's, and its port or seat is there (R175). -/
def Block.gateSource (b : Block) (t src : Nat) : Bool :=
  decide (src < 20) && decide (b.owner src = some t) && (if src < 8 then b.seatIn src else b.hostOpen (src - 8))

/-- A station entry keeps its table (R173, R184, R219, R256). -/
def Block.entryOk (b : Block) (t : Nat) (l : List Byte) (i : Nat) : Bool :=
  let w (j : Nat) : Word := wordAt l (16 + 8 * i + j)
  let e := stationEntry l i
  let noParams := decide (w 2 = 0#32 ∧ w 3 = 0#32 ∧ w 4 = 0#32)
  let noGate := decide (w 5 = 0#32)
  let noCode := decide (w 6 = 0#32 ∧ w 7 = 0#32)
  let rsvd := decide (wfield (w 0) 4 4 = 0 ∧ wfield (w 0) 18 6 = 0 ∧ wfield (w 1) 23 9 = 0 ∧ wfield (w 3) 16 16 = 0 ∧ wfield (w 5) 22 10 = 0 ∧ wfield (w 7) 16 16 = 0)
  rsvd && decide (e.stage < descStages l ∧ e.paramLen ≤ 65536) &&
  (match stType (wfield (w 0) 0 4) with
  | none => false
  | some .lath => decide (1 ≤ e.sheafs ∧ e.sheafs ≤ 16) && noGate && (decide (e.kernel = tenantCode) || noCode)
  | some .gate => decide (w 1 = 0#32) && noCode && noParams && codeOk e.gfmt && b.gateSource t e.gsource
  | some .size => decide (w 1 = 0#32) && noGate && noCode && noParams
  | some .mould => decide (w 1 = 0#32) && noGate && noCode && noParams
  | some _ => decide (w 1 = 0#32) && noGate && noCode)

/-- Ports are joined once each, and no others are (R175). -/
def portsJoined (es : List EdgeEntry) (i : Nat) (ins outs : List Nat) : Bool :=
  let got := (es.filter (fun e => decide (e.dst = i))).map (fun e => e.dport)
  let gave := (es.filter (fun e => decide (e.src = i))).map (fun e => e.sport)
  ins.all (fun p => decide (got.count p = 1)) && outs.all (fun p => decide (gave.count p = 1)) && got.all ins.contains && gave.all outs.contains

/-- The pair of codes that a SIZE or GATE station converts is one that Sizing converts, and a SIZE station's output edge is as large as its input edge (R218, R219). -/
def StationEntry.sizingOk (s : StationEntry) (es : List EdgeEntry) (i : Nat) : Bool :=
  let into := es.find? (fun e => decide (e.dst = i))
  let outOf := es.find? (fun e => decide (e.src = i))
  match s.type with
  | .gate => if s.gout then into.all (fun e => pairOk e.fmt s.gfmt) else outOf.all (fun e => pairOk s.gfmt e.fmt)
  | .size => (match into, outOf with
      | some x, some y => pairOk x.fmt y.fmt && decide (x.rows ≤ y.rows ∧ x.cols ≤ y.cols)
      | _, _ => true)
  | _ => true

/-- What R175 asks of a station and needs no parameter block: the ports of a type that takes none, the pair of codes, and a stock kernel of the image. -/
def Block.bareOk (b : Block) (s : StationEntry) (es : List EdgeEntry) (i : Nat) : Bool :=
  s.sizingOk es i &&
  (match s.type with
  | .size => portsJoined es i s.insOf s.outsOf
  | .gate => portsJoined es i s.insOf s.outsOf
  | .mould => portsJoined es i s.insOf s.outsOf
  | .lath => decide (s.kernel = tenantCode) || b.start.img.any (fun g => g.kernels.any (fun k => decide (k.id = s.kernel)))
  | _ => true)

/-- An edge entry keeps its table, joins stations of one stage by ports of theirs, and carries tiles within R181. -/
def edgeOk (l : List Byte) (j : Nat) : Bool :=
  let w (i : Nat) : Word := wordAt l (16 + 8 * descStations l + 4 * j + i)
  let e := edgeEntry l j
  let s := stationEntry l e.src
  let d := stationEntry l e.dst
  decide (wfield (w 0) 10 6 = 0 ∧ wfield (w 0) 26 6 = 0 ∧ wfield (w 1) 16 16 = 0 ∧ w 3 = 0#32) &&
  decide (e.src < descStations l ∧ e.dst < descStations l ∧ 2 ≤ e.depth ∧ 1 ≤ e.rows ∧ e.rows ≤ 4096 ∧ 1 ≤ e.cols ∧ e.cols ≤ 4096) && codeOk e.fmt &&
  decide (s.stage = d.stage) && s.outsOf.contains e.sport && d.insOf.contains e.dport &&
  (match dataBytes e.fmt e.rows e.cols with | some n => decide (n ≤ 262144) | none => false)

/-- Stations that an edge from a station not yet set aside leads to stay; the others are set aside round by round. -/
def peel (es : List EdgeEntry) : Nat → List Nat → List Nat
  | 0, l => l
  | n + 1, l => peel es n (l.filter (fun i => es.any (fun e => decide (e.dst = i) && l.contains e.src)))

/-- No edges form a cycle. -/
def acyclic (n : Nat) (es : List EdgeEntry) : Bool := (peel es n (List.range n)).isEmpty

/-- The first fault of the descriptor itself, of its header, its station entries in order, or its edge entries: the station's index, or that of no station (R175, R515). -/
def Block.descFault (b : Block) (t : Nat) (l : List Byte) : Option Nat :=
  let n := descStations l
  if !descHeaderOk l then some noStation
  else
    let es := (List.range n).map (stationEntry l)
    let twin (i : Nat) : Bool := match es[i]? with
      | some e => decide (e.type = .gate) && !e.gout && (es.take i).any (fun x => decide (x.type = .gate ∧ x.gstream = e.gstream) && !x.gout)
      | none => false
    let edges := (List.range (descEdges l)).map (edgeEntry l)
    let bare (i : Nat) : Bool := match es[i]? with | some e => b.bareOk e edges i | none => true
    match (List.range n).find? (fun i => !b.entryOk t l i || twin i || !bare i) with
    | some i => some i
    | none =>
      if (List.range (descStages l)).any (fun k => !es.any (fun e => decide (e.stage = k))) then some noStation
      else if !(List.range (descEdges l)).all (edgeOk l) || !acyclic n edges then some noStation
      else none

/-! ## Parameters and code (R178, R515 step 2) -/

/-- Why a launch does not go on: memory has to answer first, or a cause kills the run. -/
inductive LaunchStop where
  | wait
  | kill (cause station : Nat)
  deriving DecidableEq, Repr

/-- The code range of tenant code is covered and can be read now. -/
def Block.codeCheck (b : Block) (t i : Nat) (e : StationEntry) : Except LaunchStop Unit :=
  if e.type ≠ .lath ∨ e.kernel ≠ tenantCode then .ok ()
  else if !b.covered t e.codeAddr 64 .fetch then .error (.kill stUnmapped i)
  else if !b.rangeReady t e.codeAddr 64 .fetch || !b.readOpen t e.codeAddr 64 .fetch then .error .wait
  else
    let h := b.load e.field t e.codeAddr 64 .fetch
    let k := parseKernel h.2.1
    if h.2.2 ≠ stOk then .error (.kill h.2.2 i)
    else if k.ok && !b.covered t e.codeAddr (64 + k.code) .fetch then .error (.kill stUnmapped i)
    else .ok ()

/-- A station's parameter block is read once. -/
def Block.readParams (b : Block) (t i : Nat) (e : StationEntry) : Except LaunchStop (Block × List Byte) :=
  if e.paramLen = 0 then .ok (b, [])
  else if !b.covered t e.paramAddr e.paramLen .load then .error (.kill stUnmapped i)
  else if !b.canRead t e.paramAddr e.paramLen then .error .wait
  else
    let r := b.load e.field t e.paramAddr e.paramLen .load
    if r.2.2 ≠ stOk then .error (.kill r.2.2 i) else .ok (r.1, r.2.1)

/-- What stations keep before their first tile. -/
def Block.bodyOf (b : Block) (t : Nat) (e : StationEntry) : Body :=
  match e.type with
  | .size => .none
  | .vat => .vat []
  | .gate => .gate { seq := 0, taken := 0, closed := false }
  | .mould => .mould { jobs := [], next := 0 }
  | .yealm => .yealm YealmSt.start
  | .rafter => .rafter { trees := [], got := 0, high := none, done := [] }
  | .couch => .couch CouchSt.start
  | .lath =>
    let k := parseKernel ((b.kernelBytes t e).getD [])
    .lath { regs := k.regs, ws := k.ws, code := k.code, ins := k.ins, held := [], ovf := false, unf := false }
  | .bin => .bin BinSt.start
  | .blend => .blend BlendSt.start
  | .pack => .pack []

/-- A station before its placement. -/
def Block.freshStation (b : Block) (t : Nat) (e : StationEntry) (params : List Byte) : Station :=
  { entry := e, params := params, units := [], outbox := [], takenAt := [], closedIn := [], made := 0, dispatched := 0, completed := 0,
    active := [], finished := false, queue := 0, body := b.bodyOf t e }

/-- Stations in ascending index, each with its code checked and its parameters read. -/
def Block.readStations (t : Nat) (l : List Byte) : List Nat → Block → List Station → Except LaunchStop (Block × List Station)
  | [], b, acc => .ok (b, acc)
  | i :: is, b, acc =>
    let e := stationEntry l i
    match b.readParams t i e with
    | .error x => .error x
    | .ok (b1, p) =>
      match b1.codeCheck t i e with
      | .error x => .error x
      | .ok _ => Block.readStations t l is b1 (acc ++ [b1.freshStation t e p])

/-! ## The stations' checks (R515 step 3) -/

/-- The checks that a station's chapter makes at launch. -/
def Block.stationCheck (b : Block) (r : Run) (i : Nat) (s : Station) : LaunchCheck :=
  match s.entry.type with
  | .size => { ins := s.entry.insOf, outs := s.entry.outsOf, cause := none }
  | .vat => r.vatLaunch i s
  | .gate => { ins := s.entry.insOf, outs := s.entry.outsOf, cause := none }
  | .mould => r.mouldLaunch i s
  | .yealm => b.yealmLaunch r i s
  | .rafter => b.rafterLaunch r i s
  | .couch => r.couchLaunch i s
  | .lath => b.lathLaunch r i s
  | .bin => b.binLaunch r i s
  | .blend => b.blendLaunch r i s
  | .pack => r.packLaunch i s

/-- Each enabled port is joined once, and no other port is (R175). -/
def Run.portsOk (r : Run) (i : Nat) (c : LaunchCheck) : Bool := portsJoined (r.edges.map (fun e => e.entry)) i c.ins c.outs

/-- A RAFTER's named tree has to be read before it can be checked (R228). -/
def Block.treeWaits (b : Block) (t : Nat) (s : Station) : Bool :=
  let p := rafterPar s.params
  decide (s.entry.type = .rafter) && !p.treeSrc && !b.canRead t p.treeAddr 64

/-- The ranges that a station's launch maps (R460, R468). -/
def Block.mapStation (b : Block) (t : Nat) (s : Station) : Block :=
  match s.entry.type with
  | .bin => b.mapRange ((binPar s.params).range t s.entry.field)
  | .blend => b.mapRange ((blendPar s.params).range t)
  | _ => b

/-- Stations in ascending index, each against its ports and its chapter's checks; the lowest status of one station counts. -/
def Block.checkStations (r : Run) : List Nat → Block → Except LaunchStop Block
  | [], b => .ok b
  | i :: is, b =>
    match r.stations[i]? with
    | none => .ok b
    | some s =>
      if b.treeWaits r.ref.tenant s then .error .wait
      else
        let c := b.stationCheck r i s
        match lowestCause [(!r.portsOk i c, stGraph), (c.cause.isSome, c.cause.getD 0)] with
        | some cause => .error (.kill cause i)
        | none => Block.checkStations r is (b.mapStation r.ref.tenant s)

/-! ## Placement (R178, R515 step 4) -/

/-- The units of a class in service in a field, ascending. -/
def Block.unitsIn (b : Block) (f : Nat) (c n : Nat) : List (Nat × Nat) := ((List.range n).filter (fun i => b.unitIn f c i)).map (fun i => (f, i))

/-- The units of a station: a pinned one takes its field's, another goes through the fields in order; with units = 0 the block takes those of the first field that holds one (log entry 55). -/
def Block.placeStation (b : Block) (e : StationEntry) : List (Nat × Nat) :=
  let fields := if e.pin then [e.field] else fieldsFrom e.field
  match e.type with
  | .gate => [(srcField e.gsource, 0)]
  | ty =>
    match unitClass ty with
    | none => ((fields.filter (fun f => b.fieldIn f)).map (fun f => (f, 0))).take 1
    | some (c, n) =>
      let l := fields.map (fun f => b.unitsIn f c n)
      let one := ((l.find? (fun x => !x.isEmpty)).getD [])
      let few := if ty = .yealm then 1 else e.units
      if ty = .rafter ∨ ty = .yealm then (if few = 0 then one else one.take few)
      else if e.units = 0 then one
      else (l.flatMap (fun x => x)).take e.units

/-- The first station that finds no unit. -/
def Block.unplaced (b : Block) (l : List Station) : Option Nat := l.findIdx? (fun s => (b.placeStation s.entry).isEmpty)

/-! ## Rings and buffers (R178, R389, R390, R515 step 5) -/

/-- Pages of an edge's ring (R178). -/
def EdgeEntry.ringPages (e : EdgeEntry) : Nat := ceilDiv (e.depth * (32 + (dataBytes e.fmt e.rows e.cols).getD 0)) pageBytes

/-- Felt pages of a BLEND's buffers by owner field (R472). -/
def Block.blendPages (b : Block) (v : BlendPar) : List (Nat × Nat) :=
  let n := shCount v.w v.h
  let owners := (List.range n).map (fun x => b.ownerField v.w x)
  let upTo (k : Nat) : Nat := ceilDiv (owners.countP (fun f => decide (f < k)) * v.feltBytes) pageBytes
  (List.range 8).map (fun f => (f, upTo (f + 1) - upTo f))

/-- Everything that a run's launch takes of the Felt pool: stage, field, pages. -/
def Block.bufsOf (b : Block) (r : Run) : List (Nat × Nat × Nat) :=
  let stageOf (i : Nat) : Nat := (r.stations[i]?).elim 0 (fun s => s.entry.stage)
  let homeOf (i : Nat) : Nat := (r.stations[i]?).elim 0 (fun s => s.homeField)
  let rings := r.edges.map (fun e => (stageOf e.entry.src, homeOf e.entry.dst, e.entry.ringPages))
  let more := r.stations.flatMap (fun s => match s.entry.type with
    | .couch => [(s.entry.stage, s.homeField, ceilDiv (couchBuffer s.params) pageBytes)]
    | .blend => (b.blendPages (blendPar s.params)).map (fun x => (s.entry.stage, x.1, x.2))
    | _ => [])
  rings ++ more

/-- The field's pool can supply every buffer of a list that lies in it (R389, R390). -/
def Block.poolHas (b : Block) (bufs : List (Nat × Nat × Nat)) : Bool :=
  (List.range 8).all (fun f => decide (sumNat (bufs.map (fun x => if x.2.1 = f then x.2.2 else 0)) ≤ b.poolFree f))

/-! ## Queues of the run pool (R370, R371) -/

/-- Queues that a run holds: those of its stages not yet ended. -/
def Run.queues (r : Run) : List Nat :=
  let now := match r.phase with | .waiting => none | .staging k _ => some k | .active k => some k
  match now with
  | none => []
  | some k =>
    let on (i : Nat) : Bool := (r.stations[i]?).any (fun s => decide (k ≤ s.entry.stage))
    (r.stations.filter (fun s => decide (k ≤ s.entry.stage))).map (fun s => s.queue) ++ (r.edges.filter (fun e => on e.entry.src)).map (fun e => e.queue)

def Block.queuesUsed (b : Block) : List Nat := b.runs.flatMap Run.queues
/-- Free queues of the pool (RDG_Q_FREE). -/
def Block.queuesFree (b : Block) : Nat := 61440 - b.queuesUsed.length

/-- The `n` lowest free queues from number `q` on; `fuel` bounds the search. -/
def freeQueues (used : List Nat) : Nat → Nat → Nat → List Nat
  | 0, _, _ => []
  | fuel + 1, q, n =>
    if n = 0 then []
    else if used.contains q then freeQueues used fuel (q + 1) n
    else q :: freeQueues used fuel (q + 1) (n - 1)

/-- Stations and edges take their queues in order. -/
def giveQueues (r : Run) (qs : List Nat) : Run :=
  { r with stations := r.stations.mapIdx (fun i s => { s with queue := qs.getD i 4096 }),
           edges := r.edges.mapIdx (fun j e => { e with queue := qs.getD (r.stations.length + j) 4096 }) }

/-! ## Stages (R52, R53, R187) -/

/-- Seats that the GATE stations of a run name. -/
def Run.seatsNamed (r : Run) : List Nat :=
  (List.range 8).filter (fun n => r.stations.any (fun s => decide (s.entry.type = .gate ∧ s.entry.gsource = n)))

/-- A stage is about to begin: STAGE goes to each seat named, or the stage begins at once (R52, R187). -/
def Block.startStage (b : Block) (ref : RunRef) (k : Nat) : Block :=
  match b.findRun ref with
  | none => b
  | some r =>
    let seats := r.seatsNamed
    if seats.isEmpty then (b.modRun ref (fun x => { x with phase := .active k })).runBegun ref k
    else seats.foldl (fun (x : Block) n => x.sendStage n ref k) (b.modRun ref (fun x => { x with phase := .staging k seats }))

/-! ## RUN_LAUNCH -/

/-- A run waits to be launched, its RUN has acted, and no other that waits stands before it (R152, R177, R371, R390). -/
def Block.mayLaunch (b : Block) (r : Run) : Bool :=
  let launched (x : Run) : Bool := decide (x.phase ≠ .waiting)
  r.killed.isNone && r.queued && !launched r &&
  decide (b.runs.countP (fun x => decide (x.ref.tenant = r.ref.tenant) && launched x) < 64) &&
  b.runs.all (fun x => x.ref = r.ref || launched x || !x.queued || x.killed.isSome || decide (r.order < x.order) ||
    (decide (x.ref.tenant ≠ r.ref.tenant) && !(r.waitQ && x.waitQ)))

/-- A run waits for queues (R371). -/
def Block.waitQueues (b : Block) (ref : RunRef) : Block := b.modRun ref (fun x => { x with waitQ := true, waitPool := false })

/-- The edges of a descriptor, empty. -/
def freshEdges (l : List Byte) : List Edge :=
  (List.range (descEdges l)).map (fun j => { entry := edgeEntry l j, tiles := [], taken := 0, emitted := 0, closed := false, drained := false, queue := 0 })

/-- Steps 1 to 4 of R515: the block after the reads and mappings, and the run with its stations placed. A run that has passed them and waits for buffers keeps what it has read (R178, R390). -/
def Block.launchChecks (b : Block) (r : Run) : Except LaunchStop (Block × Run) :=
  let t := r.ref.tenant
  let l := r.desc
  if r.read then .ok (b, r)
  else match b.descFault t l with
  | some i => .error (.kill stGraph i)
  | none =>
    match Block.readStations t l (List.range (descStations l)) b [] with
    | .error x => .error x
    | .ok (b1, sts) =>
      let r1 : Run := { r with stations := sts, edges := freshEdges l, read := true }
      match Block.checkStations r1 (List.range sts.length) b1 with
      | .error x => .error x
      | .ok b2 =>
        match b2.unplaced sts with
        | some i => .error (.kill stNoUnit i)
        | none => .ok (b2, { r1 with stations := sts.map (fun s => { s with units := b2.placeStation s.entry }) })

/-- RUN_LAUNCH (R175 to R179, R371, R390, R515). -/
def execRunLaunch (t : Nat) (handle : Word) (upsets : List Upset) (s : State) : Host.Outcome State Fault Refusal :=
  lift s (fun b => b.meeting t upsets (fun b =>
    let ref : RunRef := { tenant := t, handle := handle }
    match b.findRun ref with
    | none => b
    | some r =>
      let n := descStations r.desc + descEdges r.desc
      if !b.mayLaunch r then b
      else if b.queuesFree < n then (if r.waitQ && !r.waitPool then b else (b.waitQueues ref).setErrBit Map.rdgErr 2)
      else
        match b.launchChecks r with
        | .error .wait => b
        | .error (.kill cause i) =>
          let b1 := if cause = stTree then b.setErrBit (Map.rafErr (stationEntry r.desc i).field) 1 else b
          b1.killRun ref cause i 0#32
        | .ok (b1, r1) =>
          let bufs := b1.bufsOf r1
          if (b1.tenant t).quotaFelt * 256 < b1.useFelt t + sumNat (bufs.map (fun x => x.2.2)) then b.killRun ref stQuota noStation 0#32
          else if !b1.poolHas bufs then b1.modRun ref (fun _ => { r1 with waitQ := true, waitPool := true })
          else
            let qs := freeQueues b1.queuesUsed 61440 4096 n
            let r2 := giveQueues { r1 with bufs := bufs, launchedAt := b.now, waitQ := false, waitPool := false } qs
            ((b1.modRun ref (fun _ => r2)).bump Map.runLaunchCnt 1).startStage ref 0))

/-! ## RUN and RUN_KILL -/

/-- RUN (R152, R176, R177): the run that opened with the packet's admission takes its place in the queue for launch. Its number stays live until it completes (R179). -/
def execRun (t strm : Nat) (s : State) : Host.Outcome State Fault Refusal :=
  lift s (fun b =>
    match b.front t strm opRun with
    | none => b
    | some p => (b.popFront t strm).modRun (p.runRef t) (fun r => if r.pkt = p then { r with queued := true } else r))

/-- RUN_KILL (R161, R191): the cause BY_TENANT is offered to the run; result0 is 1 when it is the run's cause by that. -/
def execRunKill (t strm : Nat) (s : State) : Host.Outcome State Fault Refusal :=
  lift s (fun b0 =>
    match b0.front t strm opRunKill with
    | none => b0
    | some p =>
      let b := b0.popFront t strm
      let b1 := b.killRun (p.runRef t) stByTenant noStation 0#32
      let kills := decide (b1.findRun (p.runRef t) ≠ b.findRun (p.runRef t))
      b1.complete t p stOk (bitWord kills 0) 0#32 0)

/-! ## TILE (R176, R184) -/

/-- A tile that keeps R181 and R184 at a GATE input: its bytes, its declared length and number, against its edge and the count of tiles taken. -/
def gateTileOk (gfmt : Nat) (e : EdgeEntry) (l : List Byte) (no total taken : Nat) : Bool :=
  let t := parseTile l
  let shape := t.closing || (decide (1 ≤ t.rows ∧ t.rows ≤ e.rows ∧ 1 ≤ t.cols ∧ t.cols ≤ e.cols ∧ t.dbytes ≤ 262144) && decide (dataBytes t.fmt t.rows t.cols = some t.dbytes))
  decide (t.fmt = gfmt) && shape && tileRsvdOk l && decide (32 + t.dbytes = total ∧ l.length = total ∧ t.no = no ∧ no = taken)

/-- A GATE input takes a tile: it is converted, emitted, and the input closes at a tile with last set. -/
def Block.gateIn (b : Block) (a : StRef) (r : Run) (s : Station) (e : EdgeEntry) (t : Tile) (taken : Nat) : Block :=
  let c := if t.closing then (closingTile e.fmt, Tally.zero) else convertTile r.seed a.station e.fmt t
  let b1 := if t.closing then b else b.countSizing s.homeField c.2
  let b2 := b1.modSt a (fun z => { z with body := .gate { seq := 0, taken := taken + 1, closed := t.last } })
  (b2.emit a 0 c.1).settle a

/-- TILE (R161, R176, R184): a tile for a GATE input of its run. The run of a TILE that was admitted was open; one that has ended meanwhile leaves the packet KILLED. -/
def execTile (t strm : Nat) (s : State) : Host.Outcome State Fault Refusal :=
  lift s (fun b0 =>
    match b0.front t strm opTile with
    | none => b0
    | some p =>
      let b := b0.popFront t strm
      let ref := p.runRef t
      let i := wfield (p.arg 1) 0 8
      let a : StRef := { tenant := t, handle := p.arg 0, station := i }
      let range := b.complete t p stRange 0#32 0#32 hdrDetail
      match b.findRun ref with
      | none => b.complete t p stKilled 0#32 0#32 0
      | some r =>
        if r.killed.isSome then b.complete t p stKilled 0#32 0#32 0
        else
          let at_ := match r.phase with | .waiting => none | .staging k _ => some (k, false) | .active k => some (k, true)
          match at_ with
          | none => b0
          | some (k, on) =>
            match r.stations[i]?, r.outShape i 0 with
            | some st, some e =>
              if st.entry.type ≠ .gate ∨ st.entry.gout = true ∨ st.entry.gstream ≠ strm ∨ 256 ≤ (p.arg 1).toNat then range
              else if k < st.entry.stage ∨ (k = st.entry.stage ∧ on = false) then b0
              else
                match b.live a, st.body with
                | some _, .gate g =>
                  if g.closed then range
                  else if !st.ready then b0
                  else if !gateTileOk st.entry.gfmt e p.payload (p.arg 2).toNat (p.arg 3).toNat g.taken then
                    (b.killAt a stTileFmt 0#32).complete t p stKilled 0#32 0#32 0
                  else (b.gateIn a r st e (parseTile p.payload) g.taken).complete t p stOk 0#32 0#32 0
                | _, _ => range
            | _, _ => range)

/-! ## STAGE_END (R187, R188) -/

/-- Stage `k` of a run has ended: its stations have finished and every tile they emitted is in its ring. -/
def Run.stageOver (r : Run) (k : Nat) : Bool := r.stations.all (fun s => decide (s.entry.stage ≠ k) || (s.finished && s.outbox.isEmpty))

/-- Cache entries tagged with a run are cleared, in Lath stores and node caches (R187). -/
def Block.clearCaches (b : Block) (ref : RunRef) : Block :=
  { b with cores := b.cores.map (fun e => (e.1, { e.2 with lines := e.2.lines.filter (fun x => x.run ≠ ref) })),
           nodeCaches := b.nodeCaches.map (fun e => (e.1, e.2.filter (fun x => x.run ≠ ref))) }

/-- A core that hosts a run stops it: its items, matrix operations and accesses are gone, and the launch ends (R333, R363). -/
def LCore.dropRun (c : LCore) (ref : RunRef) : LCore :=
  if c.launch.any (fun l => decide (l.run = ref)) then { c with launch := none, withdraw := false, items := [], mat := [], ops := [] } else c

/-- Every core stops a run, and reads that its threads await come back to no one. -/
def Block.dropCores (b : Block) (ref : RunRef) : Block :=
  let mine (q : Requester) : Bool := match q with
    | .lath c _ _ => (b.core c).launch.any (fun l => decide (l.run = ref))
    | .seat _ _ => false
    | .packet _ _ _ => false
  { b with cores := b.cores.map (fun e => (e.1, e.2.dropRun ref)),
           eaves := b.eaves.map (fun e => { e with reads := e.reads.filter (fun x => !mine x.req) }) }

/-- A run is over: it is no longer open, and nothing of it is HELD. -/
def Block.closeRun (b : Block) (ref : RunRef) : Block :=
  let other (h : Nat × HeldQueue × Nat) : Bool := match h.2.1 with
    | .admission _ => true
    | .edge x _ => decide (x ≠ ref)
    | .blend x _ => decide (x ≠ ref)
    | .items x _ => decide (x ≠ ref)
  { b with runs := b.runs.filter (fun x => x.ref ≠ ref), ended := b.ended ++ [ref], ridge := { b.ridge with held := b.ridge.held.filter other } }

/-- The last stage has ended: RUN_END (R188). -/
def Block.endRun (b : Block) (r : Run) : Block :=
  let data : List Word := [BitVec.ofNat 32 r.nstage, BitVec.ofNat 32 (b2n r.ovf + 2 * b2n r.unf), BitVec.ofNat 32 (b.ctlSince r.launchedAt / 1024), 0#32]
  ((b.closeRun r.ref).bump Map.runEndCnt 1).sendEvent r.src evRunEnd 0 r.ref.handle data

/-- STAGE_END (R187, R188): caches are cleared, the stage's rings and buffers are freed, and the next stage is started or the run ends. -/
def execStageEnd (t : Nat) (handle : Word) (s : State) : Host.Outcome State Fault Refusal :=
  lift s (fun b =>
    let ref : RunRef := { tenant := t, handle := handle }
    match b.findRun ref with
    | none => b
    | some r =>
      match r.phase with
      | .active k =>
        if r.killed.isSome || !r.stageOver k then b
        else
          let b1 := ((b.clearCaches ref).dropCores ref).freeSplat r (some k)
          let b2 := b1.modRun ref (fun x => { x with bufs := x.bufs.filter (fun y => y.1 ≠ k) })
          if k + 1 < r.nstage then b2.startStage ref (k + 1)
          else match b2.findRun ref with
            | some r1 => b2.endRun r1
            | none => b2
      | _ => b)

/-! ## RUN_KILL_DONE (R189, R190, R179) -/

/-- No packet of a run that has not begun to leave leaves any more (R189); a link with no cell left to send awaits no credit (R47). -/
def Block.dropPackets (b : Block) (ref : RunRef) : Block :=
  let mine (x : Option (Nat × Word)) : Bool := decide (x = some (ref.tenant, ref.handle))
  let cut (s : Seat) : Seat :=
    let q := s.outq.filter (fun p => !(mine p.run && decide (p.sent = 0)))
    { s with outq := q, creditAt := if q.isEmpty then none else s.creditAt }
  { b with seats := b.seats.map cut,
           gables := b.gables.map (fun g => { g with held := g.held.filter (fun e => !mine e.run) }) }

/-- RUN_KILL_DONE (R189, R190): everything of a killed run is freed, and RUN_KILLED is sent; a RUN that had not begun completes with the cause. -/
def execRunKillDone (t : Nat) (handle : Word) (s : State) : Host.Outcome State Fault Refusal :=
  lift s (fun b =>
    let ref : RunRef := { tenant := t, handle := handle }
    match b.findRun ref with
    | none => b
    | some r =>
      match r.killed with
      | none => b
      | some k =>
        let b1 := ((((b.clearCaches ref).dropCores ref).freeSplat r none).dropPackets ref).closeRun ref
        let begun := match r.phase with | .waiting => false | .staging j _ => decide (j ≠ 0) | .active _ => true
        let b2 := if begun then b1 else (b1.modStrm t r.pkt.stream (fun x => { x with adm := x.adm.erase r.pkt })).complete t r.pkt k.cause handle 0#32 0
        let last := BitVec.ofNat 32 (k.cause + 256 * (t % 16) + 4096 * (k.station % 256))
        let b3 := (b2.bump Map.runKillCnt 1).setLast Map.runLastKill last
        (b3.sendEvent r.src evRunKilled k.cause handle [k.stage, BitVec.ofNat 32 k.station, k.detail, 0#32]).matchFlow)

end Sys2Proof.Machine
end

