-- ==== Sys2Proof/Machine/Crypto.lean ====
section
/-! DEFINITION. SHA-384, ECDSA over P-384 and the Watermark's CRC-16 (R129, R509). The two algorithms are those of FIPS 180-4 and FIPS 186, which the spec names and does not print (PRESUMED, log entry 9). -/
namespace Sys2Proof.Machine

/-! ## SHA-384 -/

/-- The largest number of at most `k` bits above `lo` whose power `n` does not pass `x`, found from the top bit down. -/
def rootUpTo (n x : Nat) : Nat → Nat → Nat
  | 0, lo => lo
  | k + 1, lo => rootUpTo n x k (if (lo + 2 ^ k) ^ n ≤ x then lo + 2 ^ k else lo)

/-- The first 64 bits of the fraction of the `n`-th root of a small number. -/
def rootFrac (n p : Nat) : Nat := rootUpTo n (p * 2 ^ (64 * n)) 72 0 % 2 ^ 64

/-- Primes below 410: the first 80. -/
def smallPrimes : List Nat := (List.range 410).filter (fun p => decide (2 ≤ p) && (List.range 19).all (fun d => decide (p % (d + 2) ≠ 0 ∨ p = d + 2)))

/-- Constant of each round: from the cube roots of the primes. -/
def cubeWords : List DWord := smallPrimes.map (fun p => BitVec.ofNat 64 (rootFrac 3 p))

/-- A word rotated by each of some counts, combined by exclusive or. -/
def spun (x : DWord) (counts : List Nat) : DWord := counts.foldl (fun acc k => acc ^^^ x.rotateRight k) 0#64

/-- The hash in progress: the last four values of each of its two running sequences, newest first, and the 16 message words to come. -/
structure ShaRun where
  p0 : DWord
  p1 : DWord
  p2 : DWord
  p3 : DWord
  q0 : DWord
  q1 : DWord
  q2 : DWord
  q3 : DWord
  coming : List DWord

/-- The word that follows 16 message words. -/
def nextWord (w : List DWord) : DWord :=
  let near := w.getD 14 0#64
  let far := w.getD 1 0#64
  w.getD 0 0#64 + (spun far [1, 8] ^^^ (far >>> 7)) + w.getD 9 0#64 + (spun near [19, 61] ^^^ (near >>> 6))

/-- One round: each sequence gains a value and the next message word is used up. -/
def ShaRun.next (r : ShaRun) (c : DWord) : ShaRun :=
  let pick := r.q2 ^^^ (r.q0 &&& (r.q1 ^^^ r.q2))
  let most := (r.p0 &&& (r.p1 ||| r.p2)) ||| (r.p1 &&& r.p2)
  let x := c + r.coming.headD 0#64 + r.q3 + pick + spun r.q0 [14, 18, 41]
  { p0 := x + most + spun r.p0 [28, 34, 39], p1 := r.p0, p2 := r.p1, p3 := r.p2, q0 := r.p3 + x, q1 := r.q0, q2 := r.q1, q3 := r.q2,
    coming := r.coming.drop 1 ++ [nextWord r.coming] }

/-- The hash after a block: the rounds' outcome added to what stood before. -/
def ShaRun.absorb (r : ShaRun) (blk : List Byte) : ShaRun :=
  let z := cubeWords.foldl ShaRun.next { r with coming := (chunk 8 16 blk).map (fun l => BitVec.ofNat 64 (beNat l)) }
  { p0 := r.p0 + z.p0, p1 := r.p1 + z.p1, p2 := r.p2 + z.p2, p3 := r.p3 + z.p3,
    q0 := r.q0 + z.q0, q1 := r.q1 + z.q1, q2 := r.q2 + z.q2, q3 := r.q3 + z.q3, coming := [] }

/-- Where SHA-384 starts: from the square roots of the ninth to the sixteenth prime. -/
def ShaRun.start : ShaRun :=
  let h (i : Nat) : DWord := BitVec.ofNat 64 (rootFrac 2 (smallPrimes.getD (8 + i) 0))
  { p0 := h 0, p1 := h 1, p2 := h 2, p3 := h 3, q0 := h 4, q1 := h 5, q2 := h 6, q3 := h 7, coming := [] }

/-- The message as the hash takes it: a one bit, zeros, and the length in bits as the last 16 bytes of a whole block. -/
def shaPad (m : List Byte) : List Byte :=
  let whole := ceilDiv (m.length + 17) 128 * 128
  let marked := m ++ [0x80#8]
  marked ++ List.replicate (whole - 16 - marked.length) 0#8 ++ beBytes 16 (8 * m.length)

/-- SHA-384 of a byte string: the first six words of the hash, 48 bytes. -/
def sha384 (m : List Byte) : List Byte :=
  let msg := shaPad m
  let z := (chunk 128 (msg.length / 128) msg).foldl ShaRun.absorb ShaRun.start
  [z.p0, z.p1, z.p2, z.p3, z.q0, z.q1].flatMap (fun w => beBytes 8 w.toNat)

/-! ## ECDSA over P-384 -/

def p384 : Nat := 2 ^ 384 - 2 ^ 128 - 2 ^ 96 + 2 ^ 32 - 1
def n384 : Nat := 0xffffffffffffffffffffffffffffffffffffffffffffffffc7634d81f4372ddf581a0db248b0a77aecec196accc52973
def b384 : Nat := 0xb3312fa7e23ee7e4988e056be3f82d19181d9c6efe8141120314088f5013875ac656398d8a2ed19d2a85c8edd3ec2aef
def gx384 : Nat := 0xaa87ca22be8b05378eb1c71ef320ad746e1d3b628ba79b9859f741e082542a385502f25dbf55296c3a545e3872760ab7
def gy384 : Nat := 0x3617de4a96262c6f5d9e98bf9292dc29f8f41dbd289a147ce9da3113b5f0b8c00a60b1ce1d7e819d7a431d7c90ea0e5f

/-- Modular power by squaring over the low `k` bits of the exponent. -/
def powMod (m : Nat) : Nat → Nat → Nat → Nat
  | 0, _, _ => 1 % m
  | k + 1, x, e => let r := powMod m k (x * x % m) (e / 2); if e % 2 = 1 then x * r % m else r

/-- Inverse modulo a prime of at most 384 bits. -/
def invMod (m x : Nat) : Nat := powMod m 384 (x % m) (m - 2)

/-- Sum of two points of the curve; none is the point at infinity. -/
def ecAdd : Option (Nat × Nat) → Option (Nat × Nat) → Option (Nat × Nat)
  | none, q => q
  | p, none => p
  | some (x1, y1), some (x2, y2) =>
    if x1 = x2 ∧ (y1 + y2) % p384 = 0 then none
    else
      let l := if x1 = x2 then (3 * x1 * x1 + (p384 - 3)) * invMod p384 (2 * y1) % p384
               else (y2 + (p384 - y1)) * invMod p384 (x2 + (p384 - x1)) % p384
      let x3 := (l * l + 2 * p384 - x1 - x2) % p384
      some (x3, (l * (x1 + (p384 - x3)) + (p384 - y1)) % p384)

/-- Multiple of a point by the low `k` bits of a scalar. -/
def ecMul : Nat → Nat → Option (Nat × Nat) → Option (Nat × Nat)
  | 0, _, _ => none
  | k + 1, e, p => let r := ecMul k (e / 2) (ecAdd p p); if e % 2 = 1 then ecAdd p r else r

/-- The signature (r, s) verifies over a digest with a key in uncompressed form (R128, R129). -/
def ecdsaOk (key digest : List Byte) (r s : Nat) : Bool :=
  let x := beNat (sliceBytes key 1 48)
  let y := beNat (sliceBytes key 49 48)
  let onCurve := x < p384 && y < p384 && (y * y) % p384 = (x * x * x + (p384 - 3) * x + b384) % p384
  let inRange := 1 ≤ r && r < n384 && 1 ≤ s && s < n384
  let w := invMod n384 s
  let z := beNat digest
  let q := ecAdd (ecMul 384 (z * w % n384) (some (gx384, gy384))) (ecMul 384 (r * w % n384) (some (x, y)))
  sliceBytes key 0 1 = [0x04#8] && onCurve && inRange &&
    (match q with | some pt => decide (pt.1 % n384 = r) | none => false)

/-! ## The Watermark's check (R509) -/

/-- CRC-16, polynomial 0x1021, one byte, most significant bit first. -/
def crcByte (c : Nat) (x : Byte) : Nat :=
  (List.range 8).foldl (fun c i =>
    let top := bitAt c 15 != bitAt x.toNat (7 - i)
    let c := c * 2 % 65536
    if top then (BitVec.ofNat 16 c ^^^ 0x1021#16).toNat else c) c

/-- The Watermark's CRC: bytes 0 to 13 and 16 to 31, initial value 0xFFFF. -/
def wmkCrc (l : List Byte) : Nat := (sliceBytes l 0 14 ++ sliceBytes l 16 16).foldl crcByte 0xFFFF

end Sys2Proof.Machine
end

