-- ==== Sys2Proof/Machine/Image.lean ====
section
/-! DEFINITION. The Plovie image: header, directory, sections, trailer, the five checks of R129 and the fields of the applied image (R126 to R133). -/
namespace Sys2Proof.Machine

/-- A word that Plovie left erased (R130). -/
def erased : Word := 0xFFFFFFFF#32

/-- Header checks of R129 step 2: byte offsets of the failing words, lowest first. -/
def imgHeaderErrs (l : List Byte) : List Nat :=
  let w (i : Nat) : Word := wordAt l i
  let len := (w 3).toNat
  (if w 0 = 0x564F4C50#32 then [] else [0]) ++
  (if wfield (w 1) 0 16 = 3 then [] else [4]) ++
  (if wfield (w 2) 0 8 = 3 ∧ wfield (w 2) 8 8 ≤ 2 then [] else [8]) ++
  (if len % 4096 = 0 ∧ 65536 ≤ len ∧ len ≤ 33554432 then [] else [12]) ++
  (if wfield (w 5) 0 8 = 8 then [] else [20])

/-- A section directory entry and its place in the directory. -/
structure DirEntry where
  type : Nat
  offset : Nat
  size : Nat
  /-- Byte offset of the entry. -/
  at_ : Nat
  deriving DecidableEq, Repr

def imgDir (l : List Byte) : List DirEntry :=
  (List.range 8).map (fun i =>
    { type := wfield (wordAt l (8 + 4 * i)) 0 8, offset := (wordAt l (9 + 4 * i)).toNat, size := (wordAt l (10 + 4 * i)).toNat, at_ := 32 + 16 * i })

/-- Least section sizes of the tables (R131). -/
def minSize : Nat → Nat
  | 1 => 12 | 2 => 12 | 3 => 12 | 4 => 4 | 5 => 256 | 6 => 8 | 7 => 24 | 8 => 4
  | _ => 0

/-- Two entries overlap. -/
def DirEntry.meets (x y : DirEntry) : Bool := decide (x.offset < y.offset + y.size ∧ y.offset < x.offset + x.size)

/-- Directory and rsvd checks of header and trailer (R126 to R128): offsets of the failing words. A rule over several words fails at the highest. -/
def imgDirErrs (l : List Byte) : List Nat :=
  let w (i : Nat) : Word := wordAt l i
  let len := (w 3).toNat
  let dir := imgDir l
  let hdr := (if wfield (w 1) 16 16 = 0 then [] else [4]) ++ (if wfield (w 2) 16 16 = 0 then [] else [8]) ++
    (if wfield (w 5) 8 24 = 0 then [] else [20]) ++ (if w 6 = 0#32 then [] else [24]) ++ (if w 7 = 0#32 then [] else [28])
  let one (e : DirEntry) : List Nat :=
    let i := e.at_ / 4
    let before := dir.filter (fun x => decide (x.at_ < e.at_))
    (if wfield (w i) 8 24 = 0 ∧ 1 ≤ e.type ∧ e.type ≤ 8 ∧ before.all (fun x => x.type ≠ e.type) then [] else [e.at_]) ++
    (if e.offset % 64 = 0 ∧ 160 ≤ e.offset then [] else [e.at_ + 4]) ++
    (if e.offset + e.size ≤ len - 256 ∧ minSize e.type ≤ e.size ∧ (e.type ≠ 8 ∨ e.size ≤ 16777216) ∧ before.all (fun x => !x.meets e)
      then [] else [e.at_ + 8]) ++
    (if w (i + 3) = 0#32 then [] else [e.at_ + 12])
  let tail := len - 256
  let zero (n : Nat) : List Nat := if sliceBytes l (tail + n) 1 = [0#8] then [] else [(tail + n) / 4 * 4]
  hdr ++ dir.flatMap one ++ ((List.range 31).map (fun i => 97 + i) ++ (List.range 32).map (fun i => 224 + i)).flatMap zero

/-- The entry of a section type. -/
def dirOf (l : List Byte) (t : Nat) : DirEntry :=
  ((imgDir l).find? (fun e => e.type = t)).getD { type := t, offset := 0, size := 0, at_ := 0 }

/-- Word `i` of a section. -/
def secWord (l : List Byte) (e : DirEntry) (i : Nat) : Word := wordAt (sliceBytes l (e.offset + 4 * i) 4) 0

/-- A word of one field with a range and a default: its value, and whether it is in range (R130). -/
def numField (w : Word) (width lo hi : Nat) (dflt : Option Nat) : Nat × Bool :=
  if w = erased then (dflt.getD 0, dflt.isSome)
  else (wfield w 0 width, decide (wfield w width (32 - width) = 0 ∧ lo ≤ wfield w 0 width ∧ wfield w 0 width ≤ hi))

/-- A tenant's record, its erased words read as their defaults (R130, R132). -/
def tenantCfg (l : List Byte) (e : DirEntry) (t : Nat) : TenantCfg :=
  let w (i : Nat) : Word := secWord l e (4 * t + i)
  let blank := w 0 = erased
  { enabled := !blank && wbit (w 0) 0
    prioMax := if blank then 7 else wfield (w 0) 1 3
    streams := if blank then 256 else wfield (w 0) 4 8 + 1
    sources := if blank then 0#20 else BitVec.ofNat 20 (wfield (w 0) 12 20)
    quotaHbm := (numField (w 1) 32 0 786432 (some 786432)).1
    quotaFelt := if w 2 = erased then 256 else wfield (w 2) 0 16
    quotaFar := if w 2 = erased then 65535 else wfield (w 2) 16 16
    gutter := (numField (w 3) 7 1 64 (some 1)).1 }

/-- Failing words of the TENANT section (R132), as word indexes of the section. -/
def tenantErrs (l : List Byte) (e : DirEntry) : List Nat :=
  let cfg := (List.range 16).map (fun t => tenantCfg l e t)
  (List.range 16).flatMap (fun t =>
    let w (i : Nat) : Word := secWord l e (4 * t + i)
    let c := cfg.getD t (tenantCfg l e t)
    let taken := (cfg.take t).any (fun x => x.enabled && !decide (x.sources &&& c.sources = 0#20))
    if c.enabled then
      (if taken ∨ (t = 0 ∧ c.sources = 0#20) then [4 * t] else []) ++
      (if (numField (w 1) 32 0 786432 (some 786432)).2 then [] else [4 * t + 1]) ++
      (if w 2 = erased ∨ wfield (w 2) 0 16 ≤ 3072 then [] else [4 * t + 2]) ++
      (if (numField (w 3) 7 1 64 (some 1)).2 then [] else [4 * t + 3])
    else if t = 0 then [0] else [])

/-- Number of kernels (R133). -/
def kernelCount (l : List Byte) (e : DirEntry) : Nat := wfield (secWord l e 0) 0 9

/-- Failing words of the KERNEL section (R133). -/
def kernelErrs (l : List Byte) (e : DirEntry) : List Nat :=
  let w0 := secWord l e 0
  let n := kernelCount l e
  if wfield w0 9 23 ≠ 0 ∨ 256 < n ∨ e.size < 4 + 16 * n then [0]
  else (List.range n).flatMap (fun i =>
    let at_ := 1 + 4 * i
    let w (j : Nat) : Word := secWord l e (at_ + j)
    let before := (List.range i).map (fun j => wfield (secWord l e (1 + 4 * j)) 0 16)
    (if wfield (w 0) 16 16 = 0 ∧ before.all (fun x => x ≠ wfield (w 0) 0 16) then [] else [at_]) ++
    (if w 1 = erased then [at_ + 1] else if (w 1).toNat + (w 2).toNat ≤ e.size then [] else [at_ + 2]) ++
    (if w 3 = 0#32 then [] else [at_ + 3]))

/-- The number and ranges of the fields of PORT, CALENDER, STACK, FIELD, RESERVE and LIMITS: failing word indexes. -/
def plainErrs (l : List Byte) (e : DirEntry) : List Nat :=
  let w (i : Nat) : Word := secWord l e i
  let num (i width lo hi : Nat) : List Nat := if (numField (w i) width lo hi (some lo)).2 then [] else [i]
  match e.type with
  | 1 => (if w 0 = erased ∨ wfield (w 0) 24 8 = 0 then [] else [0]) ++
      (if w 1 ≠ erased ∧ 1 ≤ wfield (w 1) 0 16 ∧ wfield (w 1) 0 16 ≤ 0xFFFE ∧ wfield (w 1) 16 16 ≤ 0xFFFE then [] else [1]) ++ num 2 20 1000 1000000
  | 2 => num 0 13 500 4000 ++ num 1 19 60000 400000 ++ num 2 12 900 2220
  | 3 => (if w 0 ≠ erased ∧ wfield (w 0) 0 2 ≤ 1 ∧ wfield (w 0) 2 2 ≤ 1 ∧ wfield (w 0) 4 2 ≤ 2 ∧ wfield (w 0) 6 26 = 0 then [] else [0]) ++
      num 1 24 0 0xFFFFFF ++ num 2 1 0 1
  | 4 => if w 0 = erased ∨ (1 ≤ wfield (w 0) 0 8 ∧ wfield (w 0) 16 16 = 0) then [] else [0]
  | 6 => num 0 7 8 64 ++ num 1 5 4 16
  | 7 => num 0 32 10000 100000000 ++ num 1 32 24000 2400000000 ++ num 2 32 1000000 1000000000 ++ num 3 17 1000 100000 ++
      num 4 32 1000000 4000000000 ++ num 5 32 2000000 2000000000
  | _ => []

/-- Failing words of the sections, as byte offsets in the image (R130, R131). -/
def imgSectionErrs (l : List Byte) : List Nat :=
  (imgDir l).flatMap (fun e =>
    let words := match e.type with
      | 5 => tenantErrs l e
      | 8 => kernelErrs l e
      | _ => plainErrs l e
    let used := minSize e.type
    let rest := if e.type = 8 then [] else
      (List.range ((e.size - used + 3) / 4)).filterMap (fun i =>
        let o := used + 4 * i
        if sliceBytes l (e.offset + o) (min 4 (e.size - o)) = List.replicate (min 4 (e.size - o)) 0#8 then none else some (e.offset + o))
    words.map (fun i => e.offset + 4 * i) ++ rest)

/-- The lowest of the failing offsets (R130). -/
def lowestOffset : List Nat → Option Nat
  | [] => none
  | x :: l => some (l.foldl (fun m y => min m y) x)

/-- The fields of an image that has passed every check. -/
def imgFields (l : List Byte) : Image :=
  let sec (t i : Nat) : Word := secWord l (dirOf l t) i
  let num (t i width lo hi d : Nat) : Nat := (numField (sec t i) width lo hi (some d)).1
  let k := dirOf l 8
  { serial := wordAt l 4
    gabEnable := if sec 1 0 = erased then 0xFFF#12 else BitVec.ofNat 12 (wfield (sec 1 0) 0 12)
    gabFar := if sec 1 0 = erased then 0#12 else BitVec.ofNat 12 (wfield (sec 1 0) 12 12)
    vendor := wfield (sec 1 1) 0 16
    device := wfield (sec 1 1) 16 16
    seatCreditTo := num 1 2 20 1000 1000000 10000
    slew := num 2 0 13 500 4000 4000
    stopRamp := num 2 1 19 60000 400000 60000
    pwrCap := num 2 2 12 900 2220 2220
    height := wfield (sec 3 0) 0 2
    density := wfield (sec 3 0) 2 2
    pinRate := wfield (sec 3 0) 4 2
    stackEnable := BitVec.ofNat 24 (num 3 1 24 0 0xFFFFFF 0xFFFFFF)
    parity := num 3 2 1 0 1 1 = 1
    fieldEnable := if sec 4 0 = erased then 0xFF#8 else BitVec.ofNat 8 (wfield (sec 4 0) 0 8)
    seatEnable := if sec 4 0 = erased then 0xFF#8 else BitVec.ofNat 8 (wfield (sec 4 0) 8 8)
    tenants := (List.range 16).map (fun t => tenantCfg l (dirOf l 5) t)
    rayState := num 6 0 7 8 64 32
    matchStore := num 6 1 5 4 16 16
    gapTo := num 7 0 32 10000 100000000 1000000
    watchdog := num 7 1 32 24000 2400000000 2400000
    gcplTo := num 7 2 32 1000000 1000000000 50000000
    stackTo := num 7 3 17 1000 100000 4000
    growTo := num 7 4 32 1000000 4000000000 100000000
    maintDrain := num 7 5 32 2000000 2000000000 200000000
    kernels := (List.range (kernelCount l k)).map (fun i =>
      { id := wfield (secWord l k (1 + 4 * i)) 0 16,
        code := sliceBytes l (k.offset + (secWord l k (2 + 4 * i)).toNat) (secWord l k (3 + 4 * i)).toNat })
    kernelBytes := k.size }

/-- The result of the checks 2 to 5 of R129 on the bytes of an image: the code of START_IMG and the failing word of R130. `hash` is the key hash field of the Watermark, 16 bytes. -/
def imgCheck (l hash : List Byte) : Nat × Option Nat :=
  let len := (wordAt l 3).toNat
  let key := sliceBytes l (len - 256) 97
  match lowestOffset (imgHeaderErrs l) with
  | some o => (3, some o)
  | none =>
    if (sha384 key).take 16 ≠ hash then (4, none)
    else if !ecdsaOk key (sha384 (l.take (len - 128))) (beNat (sliceBytes l (len - 128) 48)) (beNat (sliceBytes l (len - 80) 48)) then (5, none)
    else
      match lowestOffset (imgDirErrs l ++ imgSectionErrs l) with
      | some o => (6, some o)
      | none => (1, none)

end Sys2Proof.Machine
end

