-- ==== Sys2Proof/Machine/Start.lean ====
section
/-! DEFINITION. Resets, the start sequence, START_CMD, the drain and CATTRIP (chapters 02 and 04). -/
namespace Sys2Proof.Machine

/-! ## Begin and end of a start -/

/-- The start sequence begins at phase 1 (R77, R112, R125): every register takes its reset value (R14) but what R507 holds, records, the repair logs (R440) and what memory holds. -/
def Block.beginStart (b : Block) : Block :=
  let fresh : Block := Block.reset
  let trip := b.err Map.calEvents &&& 2#32
  let keepEave (e : Eave) : Eave := { Eave.reset with log := e.log, temp := e.temp }
  let keepPort (g : Gable) : Gable := { Gable.reset with perstN := g.perstN && !g.far }
  { fresh with
    now := b.now, free := b.free, mem := b.mem, out := b.out
    pins := { b.pins with faultN := true, thermTripN := true, mgAlertN := true, flTri := false }
    cal := { Cal.reset with gPrev := b.cal.gPrev, est := b.cal.est, ballast := b.cal.ballast, onCore := b.cal.onCore, onFelt := b.cal.onFelt,
                            hi := b.cal.hi, ceiling := b.cal.ceiling, turn := b.cal.turn,
                            lastInterval := b.cal.lastInterval, lastCalib := b.cal.lastCalib, lastSample := b.cal.lastSample,
                            temps := b.cal.temps, hot := b.cal.hot, hottest := b.cal.hottest, sensIn := b.cal.sensIn }
    start := { Start.reset with state := .starting, phase := 1, flHeld := !b.pins.flReleaseN, seqAt := b.now, phaseAt := b.now, time := b.start.time }
    screen := { Screen.reset with records := b.screen.records }
    tel := { Tel.reset with fatalCause := b.tel.fatalCause, fatalTime := b.tel.fatalTime, fatalAt := b.tel.fatalAt }
    errs := if trip = 0#32 then [] else [(Map.calEvents, trip)]
    gables := b.gables.map keepPort
    eaves := b.eaves.map keepEave }

/-- A start that may wait for the stop ramp: a rise of RST_N does (R76), and so does a rise of PWR_GOOD (R77, log entry 112). -/
def Block.startOrWait (b : Block) : Block :=
  if b.cal.ramp.isSome then { b with start := { b.start with rstPending := true } } else b.beginStart

/-- The block enters QUARANTINE (R135, R136). From phase 3 the tests of phase 4 run first; from phases 6 and 7 the draw ramps down. -/
def Block.quarantine (b : Block) (cause : Nat) (late : Bool) : Block :=
  let b1 := b.stopWork
  let bq : Block := { b1 with cal := { b1.cal with slew := 500, stopRamp := 400000, pwrCap := 900 } }
  let b2 := if late then bq.startRamp else { bq with eaves := bq.eaves.map (fun e => { e with resetN := false, selfRefresh := false }) }
  let b3 : Block := ({ b2 with
    pins := { b2.pins with faultN := false }
    start := { b2.start with phase := 0, qCause := cause, qTests := !late, phaseAt := b2.now }
    eaves := b2.eaves.map (fun e => { e with inService := false }) } : Block).setState .quarantine
  if late then b3 else { b3 with screen := { b3.screen with groups := [], reports := [] } }

/-- PWR_GOOD_RISE (R70, R74, R77, R82, R490, R507): straps are sampled, time counts from here, Screen's records are cleared, and the start begins when RST_N is high. -/
def execPwrGoodRise (mode : Bool) (addr : BitVec 3) (s : State) : Host.Outcome State Fault Refusal :=
  lift s (fun b =>
    if b.pins.pwrGood then b
    else
      let ramp := b.cal.ramp.map (fun r => ({ r with start := r.draw b.now, t0 := 0, cycles := r.cycles - (b.now - r.t0) } : Ramp))
      let b1 : Block := { b with
        now := 0
        pins := { b.pins with pwrGood := true, mgMode := mode, mgAddr := addr, dynAddr := none, mgTarget := 0x60#7 + addr.setWidth 7, faultN := b.pins.faultN || b.start.lockFailed }
        start := { b.start with lockFailed := false }
        cal := { b.cal with ramp := ramp, lastInterval := 0, lastCalib := 0, lastSample := 0, hot := [] }
        screen := { b.screen with records := [] } }
      if b1.pins.rstN then b1.startOrWait else b1)

/-- PWR_GOOD_FALL (R77, R82, R440, R507): an abrupt stop; FATAL_CAUSE, FATAL_TIME and CAL_EVENTS.trip are cleared and the repair logs are lost. -/
def execPwrGoodFall (s : State) : Host.Outcome State Fault Refusal :=
  lift s (fun b =>
    if !b.pins.pwrGood then b
    else
      let b1 := if b.start.state = .reset then b else b.abruptStop .reset
      let b2 : Block := { b1 with
        pins := { b1.pins with pwrGood := false, faultN := !b1.start.lockFailed, dynAddr := none, mgTarget := 0x60#7 + b1.pins.mgAddr.setWidth 7 }
        start := { b1.start with rstPending := false, locked := false }
        tel := { b1.tel with fatalCause := 0#32, fatalTime := 0#32, fatalAt := 0 }
        errs := b1.errs.set Map.calEvents (b1.err Map.calEvents &&& ~~~2#32)
        eaves := b1.eaves.map (fun e => { e with log := [] }) }
      b2)

/-- RST_N_FALL (R76, R82, R125): all work stops at once, the stop ramp starts, and the block holds reset, also where it was STOPPED and the ramp ran already (log entry 112). After a failure of ROOT lock FAULT_N stays low until the rise. -/
def execRstNFall (s : State) : Host.Outcome State Fault Refusal :=
  lift s (fun b =>
    if !b.pins.rstN then b
    else
      let b1 := if b.start.state = .reset then b else b.abruptStop .reset
      { b1 with pins := { b1.pins with rstN := false, faultN := !b1.start.lockFailed },
                start := { b1.start with rstPending := false, locked := false } })

/-- RST_N_RISE (R76, R77): the start sequence begins, or does so once the ramp has finished. -/
def execRstNRise (s : State) : Host.Outcome State Fault Refusal :=
  lift s (fun b =>
    if b.pins.rstN then b
    else
      let b1 : Block := { b with pins := { b.pins with rstN := true, faultN := b.pins.faultN || b.start.lockFailed }, start := { b.start with lockFailed := false } }
      if b1.pins.pwrGood && decide (b1.start.state = .reset) then b1.startOrWait else b1)

/-- STOP_RAMP_END (R96, R60, R111): the ramp has run its length; ballast goes off and the block holds RESET, or starts again when a rise waits. -/
def execStopRampEnd (s : State) : Host.Outcome State Fault Refusal :=
  lift s (fun b =>
    match b.cal.ramp with
    | none => b
    | some r =>
      if b.now < r.t0 + r.cycles then b
      else
        let quar := decide (b.start.state = .quarantine)
        let low (e : Eave) : Eave := if quar || r.stacksLow then { e with resetN := false, selfRefresh := false } else e
        let b1 : Block := { b with
          cal := { b.cal with ramp := none, gPrev := r.post, ballast := 0, onCore := 0, onFelt := 0 }
          eaves := b.eaves.map low }
        let b2 := b1.setErrBit Map.calEvents 2
        let b3 : Block := if b2.start.state = .stopped then
            ({ b2 with pins := { b2.pins with faultN := !b2.start.lockFailed } } : Block).setState .reset else b2
        if b3.start.rstPending && b3.pins.pwrGood then b3.beginStart else b3)

/-! ## Phases 2 and 3: ROOT lock, Watermark and image -/

/-- The key hash field of the Watermark (R509). -/
def Block.keyHash (b : Block) : List Byte := sliceBytes (wordsBytes b.start.wmk) 16 16

/-- An image's reads begin (R115); the first waits where FL_RELEASE_N has been low since the start began (R69). -/
def Block.readImage (b : Block) (second : Bool) : Block :=
  { b with start := { b.start with reading := some second, spiNow := false, buf := [], imgAt := b.now, readAt := b.now,
                                   flWait := !second && b.start.flHeld } }

/-- ROOT_LOCK (R82, R114, R509): ROOT is locked; the Watermark is read twice and judged, and image A's reads begin. -/
def execRootLock (r1 r2 : List Word) (s : State) : Host.Outcome State Fault Refusal :=
  lift s (fun b =>
    if b.start.state ≠ .starting ∨ b.start.phase ≠ 2 then b
    else
      let w := (List.range 8).map (fun i => r1.getD i 0#32)
      let w2 := (List.range 8).map (fun i => r2.getD i 0#32)
      let bytes := wordsBytes w
      let hash := sliceBytes bytes 16 16
      let key := !hash.all (fun x => x = 0#8) && !hash.all (fun x => x = 0xFF#8)
      let crc := decide (wmkCrc bytes = wfield (w.getD 3 0#32) 16 16)
      let b1 : Block := { b with start := { b.start with phase := 3, phaseAt := b.now, locked := true, wmk := w, wmkAgree := decide (w = w2),
                                                         wmkCrc := crc, wmkKey := key } }
      if w ≠ w2 ∨ !key then b1.quarantine 2 false else b1.readImage false)

/-- ROOT_LOCK_TIMEOUT (R82): after 1 ms, 200,000 CK_MGMT cycles, the start stops, FAULT_N goes low and reset is held. -/
def execRootLockTimeout (s : State) : Host.Outcome State Fault Refusal :=
  lift s (fun b =>
    if b.start.state = .starting ∧ b.start.phase = 2 ∧ b.start.seqAt + 200000 ≤ b.now then
      ({ b with start := { b.start with phase := 0, lockFailed := true }, pins := { b.pins with faultN := false } } : Block).setState .reset
    else b)

/-- ROOT_LOCK_LOSS (R84): block-fatal; the Calender changes over to REFCLK. -/
def execRootLockLoss (s : State) : Host.Outcome State Fault Refusal :=
  lift s (fun b =>
    if b.start.locked && decide (b.start.state ≠ .reset) then
      let b1 : Block := { b with cal := { b.cal with onRefclk := true }, start := { b.start with locked := false } }
      b1.fatal 3 0
    else b)

/-- An image fails (R115, R129, R130): its result is recorded, and image B is read or QUARANTINE follows. -/
def Block.imageFail (b : Block) (code : Nat) (off : Option Nat) : Block :=
  let second := b.start.reading = some true
  let w : Word := match off with | some o => BitVec.ofNat 32 (o % 2 ^ 25 + 2 ^ 25 * b2n second) | none => b.start.imgErr
  let st : Start := { b.start with imgErr := w }
  let st2 : Start := if second then { st with bResult := code } else { st with aResult := code }
  let b1 : Block := { b with start := { st2 with reading := none, buf := [] } }
  if second then b1.quarantine 1 false else b1.readImage true

/-- Bytes that an image's reads bring: its length, or the first 4 KiB alone where the header's length field holds no length (R126, R129, log entry 113). -/
def readLength (buf : List Byte) : Nat :=
  let len := (wordAt buf 3).toNat
  if len % 4096 = 0 ∧ 65536 ≤ len ∧ len ≤ 33554432 then len else 4096

/-- FLASH_READ_DONE (R67, R115, R124 to R133): 4 KiB of the image arrive; the checks run in the order of R129 once every read has completed. -/
def execFlashReadDone (spi : Bool) (l : List Byte) (s : State) : Host.Outcome State Fault Refusal :=
  lift s (fun b =>
    match b.start.reading with
    | none => b
    | some second =>
      if b.start.flWait then b
      else
        let buf := b.start.buf ++ sliceBytes l 0 4096
        let b1 : Block := { b with start := { b.start with buf := buf, readAt := b.now, spi1s := b.start.spi1s || spi, spiNow := b.start.spiNow || spi } }
        if buf.length < readLength buf then b1
        else
          let img := buf.take (readLength buf)
          let r := imgCheck img b1.keyHash
          if r.1 = 1 then
            let st : Start := { b1.start with reading := none, buf := [], img := some (imgFields img), imageB := second }
            { b1 with start := if second then { st with bResult := 1 } else { st with aResult := 1 } }
          else b1.imageFail r.1 r.2)

/-- FLASH_READ_TIMEOUT (R67): a read has not completed within 40,000,000 CK_MGMT cycles, and its image fails. -/
def execFlashReadTimeout (s : State) : Host.Outcome State Fault Refusal :=
  lift s (fun b =>
    if b.start.reading.isSome && !b.start.flWait && decide (b.start.readAt + 40000000 ≤ b.now) then b.imageFail 2 none else b)

/-- IMAGE_SHARE_EXPIRY (R67, R123, R124): in octal DDR an image has 18,980,000 CK_MGMT cycles for its reads and checks. `spi` says that the flash's discovery has put the image's reads in single-bit SPI, where no share applies. -/
def execImageShareExpiry (spi : Bool) (s : State) : Host.Outcome State Fault Refusal :=
  lift s (fun b =>
    if b.start.reading.isNone || b.start.flWait then b
    else if spi || b.start.spiNow then { b with start := { b.start with spiNow := true, spi1s := true } }
    else if b.start.imgAt + 18980000 ≤ b.now then b.imageFail 7 none else b)

/-- FL_RELEASE_N_CHANGE (R69, R124, R135, R138): the level is taken, the flash pins are released or driven again where the state honours it, and a start that waits at the image read goes on when it is high. -/
def execFlReleaseNChange (level : Bool) (s : State) : Host.Outcome State Fault Refusal :=
  lift s (fun b =>
    let b0 : Block := { b with pins := { b.pins with flReleaseN := level }, start := { b.start with flHeld := b.start.flHeld && !level } }
    let b1 := b0.setState b0.start.state
    if level && b1.start.flWait then
      { b1 with start := { b1.start with flWait := false, imgAt := b1.now, readAt := b1.now } } else b1)

/-! ## Phases 3 to 8 (R112, R116 to R121, R134) -/

def Block.toPhase (b : Block) (p : Nat) : Block := { b with start := { b.start with phase := p, phaseAt := b.now } }

/-- Early sections take effect, and phase 4 begins (R116, R117). -/
def Block.enter4 (b : Block) (g : Image) (seats : BitVec 8) : Block :=
  let b1 : Block := { b with
    cal := { b.cal with slew := g.slew, stopRamp := g.stopRamp, pwrCap := g.pwrCap }
    seats := (List.range 8).map (fun n => { b.seat n with present := seats.getLsbD n })
    gables := (List.range 12).map (fun p => { b.gable p with far := g.gabFar.getLsbD p, perstN := (b.gable p).perstN && !g.gabFar.getLsbD p })
    screen := { b.screen with groups := [], reports := [] } }
  b1.toPhase 4

/-- A host port that may train with its partner, whatever its GA_PERST_N (R117, R132, log entry 112). -/
def Block.hostMay (b : Block) (p : Nat) : Bool :=
  b.portIn p && !(b.gable p).far && b.start.img.any (fun g => g.gabEnable.getLsbD p) && (b.owner (8 + p)).isSome

/-- Logged rows are repaired, and a row that no repair resource is left for is remapped with its count (R118, R440). -/
def Eave.hardRepair (k : Nat) (e : Eave) : Eave :=
  let left := e.log.filter (fun r => Config.repairLeft k r.1 r.2.1 = false)
  let moves : List RowMove := left.map (fun r => { pc := r.1, seg := r.2.1, count := r.2.2, copying := false })
  { e with moves := moves }

/-- Host ports have trained, and phase 5 begins (R117, R118). -/
def Block.enter5 (b : Block) (links : List LinkTrained) : Block :=
  let b1 := links.foldl (fun (x : Block) l => if x.hostMay l.port then x.modGable l.port (fun g => g.train l) else x) b
  let fix (k : Nat) : Eave := if b1.toTrain.contains k then (b1.eave k).hardRepair k else b1.eave k
  ({ b1 with eaves := (List.range 24).map fix } : Block).toPhase 5

/-- Felt bytes in service. -/
def Block.feltBytes (b : Block) : Nat := 33554432 * (List.range 96).countP (fun i => b.sliceIn i)

/-- The Felt fit check (R134). -/
def Block.feltFits (b : Block) (g : Image) : Bool := decide (2 * ((g.rayState + g.matchStore) * 4194304) ≤ b.feltBytes)

/-- Felt in service is written with zeros, and the structures are placed (R119). -/
def Block.enter6 (b : Block) : Block :=
  ({ b with mem := b.mem.filter (fun c => regionOf c.1 ≠ 1), feltBad := [] } : Block).toPhase 6

/-- Raw capacity of a stack in GB by the image's height and density. -/
def Image.stackGB (g : Image) : Nat := if g.height = 1 ∧ g.density = 1 then 64 else if g.height = 0 ∧ g.density = 0 then 36 else 48

/-- The Gutter fit check (R134): Gutters and kernels take at most half of the data capacity in service, raw capacity × 0.875. -/
def Block.gutterFits (b : Block) (g : Image) : Bool :=
  let gut := sumNat ((g.tenants.filter (fun t => t.enabled)).map (fun t => t.gutter)) * 2 ^ 30 + g.kernelBytes
  let nStacks := (List.range 24).countP (fun k => b.eaveIn k)
  decide (2 * gut ≤ nStacks * g.stackGB * 875000000)

/-- Phase 7 begins: late sections take effect (R116, R120). -/
def Block.enter7 (b : Block) (g : Image) : Block :=
  let rec_ (t : TenantCfg) : Tenant :=
    { opened := false, prioMax := t.prioMax, quotaHbm := t.quotaHbm, quotaFelt := t.quotaFelt, quotaFar := t.quotaFar }
  ({ b with vat := { Vat.reset with tenants := g.tenants.map rec_ }, start := { b.start with late := true } } : Block).toPhase 7

/-- Gutters and the kernel region are reserved, the stock kernels are copied, and far-tier ports leave reset (R120). -/
def Block.reserve7 (b : Block) (g : Image) : Block :=
  let held := sumNat ((g.tenants.filter (fun t => t.enabled)).map (fun t => t.gutter)) * 512 + ceilDiv g.kernelBytes sheetBytes
  let far (p : Nat) : Bool := (b.gable p).far && g.gabEnable.getLsbD p && b.portIn p
  let b1 : Block := { b with
    vat := { b.vat with reserved := held }
    gables := (List.range 12).map (fun p => if far p then { b.gable p with perstN := true } else b.gable p) }
  b1.copyKernels (g.kernels.flatMap (fun k => k.code))

/-- Far-tier devices have been enumerated, and phase 8 begins (R120). -/
def Block.enter8 (b : Block) (links : List LinkTrained) (devs : List DevFound) : Block :=
  let isFar (p : Nat) : Bool := (b.gable p).far && (b.gable p).perstN && b.portIn p
  let b1 := links.foldl (fun (x : Block) l => if isFar l.port then x.modGable l.port (fun g => g.train l) else x) b
  let found := (devs.filter (fun d => isFar d.port && (b1.gable d.port).opened)).map
    (fun d => ({ port := d.port, sheets := d.sheets, inService := true, fails := [] } : FarDev))
  ({ b1 with vat := { b1.vat with devs := found } } : Block).toPhase 8

/-- Rotation units of a field in unit-id order (R492): Lath cores, Rafters, Mould, Yealm former, Couch ports, Sizing units, VAT engines. -/
def rotUnits : List Nat :=
  (List.range 8).flatMap (fun f =>
    (List.range 72).flatMap (fun i =>
      ([(0, 72), (1, 18), (2, 1), (3, 1), (4, 9), (5, 4), (6, 12)].filter (fun c => decide (i < c.2))).map (fun c => unitId f c.1 i)))

/-- The block enters OPEN: credits are granted and START events go out (R121, R112). -/
def Block.enterOpen (b : Block) : Block :=
  let open_ (t : Nat) : Tenant := { b.tenant t with opened := b.tenantOn t }
  let b1 : Block := { b with
    vat := { b.vat with tenants := (List.range 16).map open_ }
    seats := (List.range 8).map (fun n => if (b.seat n).state = .opened then (b.seat n).grant else b.seat n)
    start := { b.start with phase := 0, time := (b.now - b.start.seqAt) / 1000 % 2 ^ 24 }
    screen := { b.screen with rotNext := 0, rotAt := b.now } }
  let b1 := b1.setState .opened
  let evs := (List.range 16).filter (fun t => b1.tenantOn t && (b1.eventSource t).any (fun n => decide (8 ≤ n)))
  let b2 := evs.foldl (fun (x : Block) t => x.tenantEvent t evStart []) b1
  (List.range 12).foldl (fun (x : Block) p => if (x.gable p).opened then x.takeSlots p else x) ((List.range 8).foldl (fun (x : Block) n => x.pumpSeat n) b2)

/-- The phase in progress has nothing left to do. -/
def Block.phaseReady (b : Block) : Bool :=
  match b.start.phase with
  | 1 => true
  | 3 => b.start.reading.isNone && b.start.img.isSome
  | 4 => b.allGroupsEnded && b.start.waking.isNone &&
      (wakeOrder.all (fun f => !b.fieldOn f || b.start.woken.contains f) || decide (b.start.phaseAt + 400000000 ≤ b.now))
  | 5 => b.toTrain.isEmpty
  | 6 => true
  | 7 => true
  | 8 => true
  | _ => false

/-- The tests that precede QUARANTINE have all ended; the seats' presence has been read with them, and their links stay DOWN (R136). -/
def Block.endQTests (b : Block) (seats : BitVec 8) : Block :=
  if b.start.qTests && b.allGroupsEnded && decide (b.start.woken.length = 8) then
    { b with start := { b.start with qTests := false }, seats := (List.range 8).map (fun n => { b.seat n with present := seats.getLsbD n }) }
  else b

/-- START_PHASE_DONE (R112, R116 to R121): the phase in progress has finished. `seats` are the seats present, `links` the gable links that have trained, `devs` the far-tier devices enumerated. -/
def execStartPhaseDone (seats : BitVec 8) (links : List LinkTrained) (devs : List DevFound) (s : State) : Host.Outcome State Fault Refusal :=
  lift s (fun b =>
    if b.start.state = .quarantine then b.endQTests seats
    else if b.start.state ≠ .starting ∨ b.phaseReady = false then b
    else
      match b.start.phase, b.start.img with
      | 1, _ => b.toPhase 2
      | 3, some g => b.enter4 g seats
      | 4, some _ => b.enter5 links
      | 5, some g => if b.feltFits g then b.enter6 else (b.toPhase 6).quarantine 3 true
      | 6, some g => if b.gutterFits g then (b.enter7 g).reserve7 g else (b.enter7 g).quarantine 3 true
      | 7, some _ => b.enter8 links devs
      | 8, some _ => b.enterOpen
      | _, _ => b)

/-- A group that has not ended when the phase 4 budget expires fails, and its units leave service (R123, R487). -/
def Block.expireGroup (b : Block) (g : Nat) : Block :=
  let f := g / 32
  let result := match b.group g with | some (.running _) => 4 | _ => 3
  let dur := match b.group g with | some (.running t0) => (b.now - t0) / 200 | _ => 0
  let gone := (groupUnits f (g % 32)).filter (fun u => decide (u.1 ≠ 17))
  let before := b.screen.out.length
  let b1 := gone.foldl (fun (x : Block) u => x.removeUnit f u.1 u.2) b
  let b2 := (b1.setGroup g (.ended b.now)).setReport g result dur (b1.screen.out.length - before)
  if b1.screen.out.length = before then b2 else b2.setErrBit Map.scrErr 0

/-- Every group of the woken fields that has not ended. -/
def Block.openGroups (b : Block) : List Nat :=
  b.start.woken.flatMap (fun f => ((List.range 22).filter (fun k => b.groupIn f k && !b.groupEnded (32 * f + k))).map (fun k => 32 * f + k))

/-- A stack fails training: it leaves service with its Eave (R58, R59). -/
def Block.failStack (b : Block) (k : Nat) : Block :=
  let b1 := b.removeUnit (k / 3) 8 (k % 3)
  { b1 with start := { b1.start with training := b1.start.training.filter (fun t => t.1 ≠ k), trained := k :: b1.start.trained } }

/-- PHASE_BUDGET_EXPIRY (R123): at a phase's maximum budget the groups, stacks or devices still unfinished fail and leave service. `links` and `devs` are the far-tier links that have trained and the devices enumerated by then. -/
def execPhaseBudgetExpiry (links : List LinkTrained) (devs : List DevFound) (s : State) : Host.Outcome State Fault Refusal :=
  lift s (fun b =>
    let past (n : Nat) : Bool := decide (b.start.phaseAt + n ≤ b.now)
    let tests := decide (b.start.state = .starting ∧ b.start.phase = 4) || b.start.qTests
    let noGroups (x : Block) : Block := { x with cal := { x.cal with steps := x.cal.steps.filter (fun c => match c.kind with | .group _ => false | .wake _ => false | _ => true) },
                                                 start := { x.start with waking := none } }
    if tests && past 400000000 then
      let b1 := noGroups (b.openGroups.foldl (fun (x : Block) g => x.expireGroup g) b)
      { b1 with start := { b1.start with qTests := false } }
    else if b.start.state ≠ .starting then b
    else if b.start.phase = 5 ∧ past 280000000 = true then
      let b1 := b.toTrain.foldl (fun (x : Block) k => x.failStack k) b
      { b1 with cal := { b1.cal with steps := b1.cal.steps.filter (fun c => match c.kind with | .train _ => false | _ => true) } }
    else if b.start.phase = 7 ∧ past 76000000 = true then
      (b.enter8 links devs).tenantEvent 0 evCapacity [0#32, 0#32, 0#32, BitVec.ofNat 32 b.zoneMiB]
    else b)

/-- FIELD_WAKE_DONE (R99): the field's 16 sections have closed over 8,000 CK_MGMT cycles; the next field may wake. -/
def execFieldWakeDone (f : Nat) (s : State) : Host.Outcome State Fault Refusal :=
  lift s (fun b =>
    match b.start.waking with
    | some (g, t0) =>
      if f = g ∧ t0 + 8000 ≤ b.now then { b with start := { b.start with waking := none, woken := b.start.woken ++ [f] } } else b
    | none => b)

/-- STACK_TRAINING_DONE (R58, R59, R118, R510): the identity read is kept, and the stack enters service or leaves it with its Eave. One whose identity names another height, density or pin rate than the image fails. -/
def execStackTrainingDone (k : Nat) (passed : Bool) (ident : List Word) (s : State) : Host.Outcome State Fault Refusal :=
  lift s (fun b =>
    if !(b.start.training.any (fun t => decide (t.1 = k))) then b
    else
      let b1 := b.modEave k (fun e => { e with ident := (List.range 4).map (fun i => ident.getD i 0#32), identValid := true, start := false })
      if passed && b.start.img.any (fun g => decide (Config.stackKind (b1.eave k).ident = (g.height, g.density, g.pinRate))) then
        let pcs (e : Eave) : Kv Nat Pc := (List.range 64).map (fun p => (p, { Pc.reset with trainedTemp := e.temp }))
        let b2 := b1.modEave k (fun e => { e with inService := true, idleAt := b.now, scrubAt := b.now, tempAt := b.now, pcs := pcs e })
        { b2 with start := { b2.start with training := b2.start.training.filter (fun t => t.1 ≠ k), trained := k :: b2.start.trained } }
      else b1.failStack k)

/-! ## START_CMD (R142) -/

/-- The key of START_CMD and SCR_CMD. -/
def cmdKey : BitVec 16 := 0x4B4C#16

def Block.lastCmd (b : Block) (n : Nat) : Block := { b with start := { b.start with lastCmd := n } }

/-- The effect of RESTART (R142, R490): as a fall and a rise of RST_N; `keep` keeps Screen's records (R498). -/
def Block.restart (b : Block) (keep : Bool) : Block :=
  let b1 := b.abruptStop .reset
  let b2 : Block := { b1 with pins := { b1.pins with faultN := true }, start := { b1.start with rstPending := true, locked := false } }
  if keep then b2 else { b2 with screen := { b2.screen with records := [] } }

/-- A START_CMD with its key and the states it is accepted in. -/
def Block.startCmd (b : Block) (key : BitVec 16) (ok : Bool) (f : Block → Block) : Block :=
  if !b.pins.pwrGood then b
  else if key ≠ cmdKey then b.lastCmd 3
  else if ok then f (b.lastCmd 1)
  else b.lastCmd 2

/-- RESTART (R142). -/
def execRestart (key : BitVec 16) (s : State) : Host.Outcome State Fault Refusal :=
  lift s (fun b => b.startCmd key (decide (b.start.state = .quarantine ∨ b.start.state = .maintenance)) (fun x => x.restart false))

/-- A drain begins (R137): runs admitted and not launched are killed with DRAIN. -/
def Block.beginDrain (b : Block) : Block :=
  let b1 : Block := { b with start := { b.start with drainAt := some b.now } }
  b1.killWhere (fun r => decide (r.phase = .waiting)) stDrain

/-- ENTER_MAINT is accepted in OPEN while no drain is in progress (R142). -/
def Block.maintOk (b : Block) : Bool := b.start.state = .opened && b.start.drainAt.isNone

/-- ENTER_MAINT (R137, R142). -/
def execEnterMaint (key : BitVec 16) (s : State) : Host.Outcome State Fault Refusal :=
  lift s (fun b => b.startCmd key b.maintOk Block.beginDrain)

/-- EXIT_MAINT (R138, R142). -/
def execExitMaint (key : BitVec 16) (s : State) : Host.Outcome State Fault Refusal :=
  lift s (fun b => b.startCmd key (decide (b.start.state = .maintenance)) (fun x => x.setState .opened))

def Block.toMaint (b : Block) : Block := ({ b with start := { b.start with drainAt := none } } : Block).setState .maintenance

/-- DRAIN_DONE (R137): no launched run remains, and the block enters MAINTENANCE. -/
def execDrainDone (s : State) : Host.Outcome State Fault Refusal :=
  lift s (fun b =>
    if b.start.drainAt.isSome && b.runs.all (fun r => decide (r.phase = .waiting)) then b.toMaint else b)

/-- MAINT_DRAIN_TIMEOUT (R137): at maint_drain every run still open is killed with DRAIN, and the block enters MAINTENANCE. -/
def execMaintDrainTimeout (s : State) : Host.Outcome State Fault Refusal :=
  lift s (fun b =>
    match b.start.drainAt, b.start.img with
    | some t0, some g => if t0 + g.maintDrain ≤ b.now then (b.killWhere (fun _ => true) stDrain).toMaint else b
    | _, _ => b)

/-- CATTRIP (R60, R506): block-fatal in every state while power is good; THERMTRIP_N goes low, and RESET_n goes low to every stack after the ramp-down. -/
def execCattrip (k : Nat) (s : State) : Host.Outcome State Fault Refusal :=
  lift s (fun b =>
    if !b.pins.pwrGood || decide (24 ≤ k) then b
    else
      let b1 := ({ b with pins := { b.pins with thermTripN := false } } : Block).fatal 1 k
      { b1 with cal := { b1.cal with ramp := b1.cal.ramp.map (fun r => { r with stacksLow := true }) } })

end Sys2Proof.Machine
end

