-- ==== Sys2Proof/Machine/Screen.lean ====
section
/-! DEFINITION. Screen: its start-up groups, rotation, and the tests on command (chapter 18). -/
namespace Sys2Proof.Machine

/-! ## Start-up groups (R483, R485 to R488) -/

/-- CK_MGMT cycles of a group's tests (table "start-up test groups per field"). -/
def groupCycles (k : Nat) : Nat :=
  match k with
  | 0 => 40000 | 1 => 52000 | 2 => 20000 | 3 => 2000000 | 4 => 4000000 | 5 => 10000000 | 6 => 400000 | 7 => 2000000 | 8 => 8000000 | 9 => 16000000
  | _ => if k ≤ 12 then 12000000 else 16000000

/-- The gable ports of a field. -/
def portsOf (f : Nat) : List Nat := (List.range 12).filter (fun p => gableField p = f)

/-- Units that carry traffic are isolated: a seat link goes down to train, a gable port takes nothing (R483). -/
def Block.isolateUnit (b : Block) (f cls idx : Nat) : Block :=
  if cls = 9 then b.modSeat f (fun s => { Seat.reset with present := s.present, retrains := s.retrains, state := .training })
  else if cls = 10 then
    (match (portsOf f)[idx]? with
    | some p => b.modGable p (fun g => { g with opened := false })
    | none => b)
  else b

/-- A unit that has been tested returns to service with its PHY trained, unless it is out (R483, R36). -/
def Block.restoreUnit (b : Block) (f cls idx spares : Nat) : Block :=
  if !b.unitIn f cls idx then b
  else if cls = 9 then
    if !b.seatIn f then b else
    b.modSeat f (fun s =>
      let s1 : Seat := { Seat.reset with present := s.present, retrains := s.retrains, state := .opened, rstN := true, spares := spares }
      if b.serving then s1.grant else s1)
  else if cls = 10 then
    (match (portsOf f)[idx]? with
    | some p => b.modGable p (fun g => { g with opened := g.mayOpen })
    | none => b)
  else b

/-- The Calender has started an admitted group: its pre-load is done, or it takes none (R94, R486). -/
def Block.groupLoose (b : Block) (g : Nat) : Bool :=
  b.cal.steps.any (fun s => decide (s.kind = .group g) && (match s.phase with | .loop _ => true | .preload => false))

/-- SCREEN_GROUP_START (R483, R485, R486): an admitted group isolates its units and starts. -/
def execScreenGroupStart (g : Nat) (s : State) : Host.Outcome State Fault Refusal :=
  lift s (fun b =>
    match b.group g with
    | some (.admitted t0) =>
      if !b.groupsRun || !b.groupLoose g then b
      else (groupUnits (g / 32) (g % 32)).foldl (fun (x : Block) u => x.isolateUnit (g / 32) u.1 u.2) (b.setGroup g (.running t0))
    | _ => b)

/-- When a finding is made: 0 at start, 2 by a command's test (table "repair record"). -/
def Block.groupWhen (b : Block) : Nat := if b.blockTest.isSome then 2 else 0

/-- A failing stack row that a destructive block test finds is noted in its Eave's repair log (R498, R440). -/
def Block.logRow (b : Block) (x : Finding) : Block :=
  if b.blockTest = some true ∧ x.unit / 8 % 32 = 8 ∧ x.kind ≤ 1 then
    (b.addRecord 2 x).modEave (3 * (x.unit % 8) + x.unit / 256 % 256) (fun e => { e with log := e.log ++ [(x.array, x.v1.toNat, 1)] })
  else b.applyFinding b.groupWhen x

/-- What a destructive march leaves of a field's Felt or stacks: nothing of what they held (R498). -/
def Block.marchAway (b : Block) (f k : Nat) : Block :=
  if b.blockTest ≠ some true then b
  else if k = 6 then
    { b with mem := b.mem.filter (fun c => !decide (regionOf c.1 = 1 ∧ homeField c.1 = f)), feltBad := b.feltBad.filter (fun w => decide (homeField (8 * w) ≠ f)) }
  else if k = 3 then
    { b with mem := b.mem.filter (fun c => !decide (regionOf c.1 = 0 ∧ homeField c.1 = f)), poison := b.poison.filter (fun r => decide (homeField r.1 ≠ f)) }
  else b

/-- A block test ends with its last group; a destructive one in MAINTENANCE ends with the effect of RESTART (R498). -/
def Block.endBlockTest (b : Block) : Block :=
  match b.blockTest with
  | none => b
  | some d =>
    if !b.allGroupsEnded then b
    else
      let b1 := b.endCmd
      if d && decide (b1.start.state = .maintenance) then b1.restart true else b1

/-- SCREEN_GROUP_DONE (R482 to R488, R490, R491): a group ends with its findings; its units are repaired or removed, and the others return to service. -/
def execScreenGroupDone (g spares : Nat) (found : List Finding) (s : State) : Host.Outcome State Fault Refusal :=
  lift s (fun b =>
    match b.group g with
    | some (.running t0) =>
      let f := g / 32
      let us := groupUnits f (g % 32)
      let mine := found.filter (fun x => decide (x.unit % 8 = f) && us.contains (x.unit / 8 % 32, x.unit / 256 % 256))
      if b.now < t0 + groupCycles (g % 32) then b
      else
        let before := b.screen.out.length
        let b0 := mine.foldl (fun (x : Block) y => x.logRow y) b
        let b1 := if b.blockTest = some false ∧ b.start.state = .maintenance then b0.loseStacks b else b0
        if b1.start.state = .stopped then b1
        else
          let failed := b1.screen.out.length - before
          let result := if failed ≠ 0 ∨ mine.any (fun x => x.kind ≠ 0) = true then 2 else if mine.isEmpty then 0 else 1
          let b2 := us.foldl (fun (x : Block) u => x.restoreUnit f u.1 u.2 spares) (b1.marchAway f (g % 32))
          let b3 := (b2.setGroup g (.ended b2.now)).setReport g result ((b2.now - t0) / 200) failed
          let b4 : Block := { b3 with cal := { b3.cal with steps := b3.cal.steps.filter (fun c => c.kind ≠ .group g) } }
          ((if b.blockTest.isSome then b4.cmdFailed (decide (failed ≠ 0)) else b4)).endBlockTest
    | _ => b)

/-! ## Rotation (R492 to R495) -/

/-- CK_MGMT cycles of a unit's test, reinitialisation included (R493, R483). -/
def rotCycles (cls : Nat) : Nat := (if cls = 0 then 400000 else if cls = 1 then 300000 else 200000) + 4000

/-- Rotation units in service. -/
def Block.rotIn (b : Block) : List Nat := rotUnits.filter (fun u => b.unitIn (u % 8) (u / 8 % 32) (u / 256))

/-- The unit in service that stands at or after a unit in rotation order, with wrap-around. -/
def Block.rotFrom (b : Block) (u : Nat) : Option Nat :=
  let l := b.rotIn
  let after := (rotUnits.dropWhile (fun x => x ≠ u)).filter (fun x => l.contains x)
  match after.head? with
  | some x => some x
  | none => l.head?

/-- The unit after one in rotation order. -/
def rotAfter (u : Nat) : Nat := ((rotUnits.dropWhile (fun x => x ≠ u)).drop 1).headD (rotUnits.headD 0)

/-- A command test runs that pauses rotation (R495). A UNIT test waits for its slot. -/
def Block.cmdPauses (b : Block) : Bool :=
  match b.screen.cmd with
  | .none => false
  | .unit _ => b.screen.unitNext.isNone
  | .eave _ => true
  | .block _ => true

/-- A unit begins to drain for its test: a launch on a Lath core gets no further items (R493). -/
def Block.drainUnit (b : Block) (u : Nat) : Block :=
  let b1 : Block := { b with screen := { b.screen with rot := .waiting u b.now } }
  if u / 8 % 32 = 0 then
    b1.modCore (72 * (u % 8) + u / 256) (fun c => if c.launch.isSome then ({ c with withdraw := true } : LCore).leave else c)
  else b1

/-- ROTATION_SLOT (R492, R495, R497): every 10 ms in OPEN the next unit, or the one a UNIT command names, begins to drain. -/
def execRotationSlot (s : State) : Host.Outcome State Fault Refusal :=
  lift s (fun b =>
    if b.start.state ≠ .opened ∨ b.screen.rotPause = true ∨ b.cmdPauses = true ∨ b.screen.rot ≠ .idle ∨ b.now < b.screen.rotAt + 2000000 then b
    else
      let b1 : Block := { b with screen := { b.screen with rotAt := b.now, unitNext := none } }
      match b.screen.unitNext with
      | some u => b1.drainUnit u
      | none =>
        match b.rotFrom b.screen.rotNext with
        | some u => ({ b1 with screen := { b1.screen with rotNext := rotAfter u } } : Block).drainUnit u
        | none => b1)

/-- A unit holds no item, and a core hosts no launch (R493). -/
def Block.unitDrained (b : Block) (u : Nat) : Bool :=
  let f := u % 8
  let i := u / 256
  match u / 8 % 32 with
  | 0 => (b.core (72 * f + i)).launch.isNone
  | c => b.runs.all (fun r => r.stations.all (fun s =>
      !decide ((unitClass s.entry.type).map (fun x => x.1) = some c) || s.active.all (fun x => !decide (x.field = f ∧ x.unit = i))))

/-- ROTATION_TEST_START (R493, R92): the drained unit's test is admitted. -/
def execRotationTestStart (s : State) : Host.Outcome State Fault Refusal :=
  lift s (fun b =>
    match b.screen.rot with
    | .waiting u _ =>
      if !b.unitDrained u || b.cal.ramp.isSome || decide (b.cal.withheld ≠ 0) then b
      else ({ b with screen := { b.screen with rot := .running u b.now } } : Block).isolateUnit (u % 8) (u / 8 % 32) (u / 256)
    | _ => b)

/-- Another unit of a station's type in service that the station does not have: in its pinned field, else in the order of R178; a RAFTER keeps to one field (R227). -/
def Block.spareUnit (b : Block) (s : Station) (rest : List (Nat × Nat)) : Option (Nat × Nat) :=
  match unitClass s.entry.type with
  | none => none
  | some (c, n) =>
    let home := match rest.head? with | some u => if s.entry.type = .rafter then some u.1 else none | none => none
    let fields := match home with | some f => [f] | none => if s.entry.pin then [s.entry.field] else fieldsFrom s.entry.field
    (fields.flatMap (fun f => b.unitsIn f c n)).find? (fun u => !rest.contains u)

/-- A unit has left service: each station that had it moves to another, or its run is killed with NO_UNIT. -/
def Block.moveStations (b : Block) (f cls idx : Nat) : Block :=
  let hits := b.runs.flatMap (fun r => (List.range r.stations.length).filterMap (fun i => (r.stations[i]?).bind (fun s =>
    if (unitClass s.entry.type).map (fun x => x.1) = some cls ∧ s.units.contains (f, idx) = true then some (r.ref, i, s) else none)))
  hits.foldl (fun (x : Block) (h : RunRef × Nat × Station) =>
    let rest := h.2.2.units.filter (fun u => u ≠ (f, idx))
    let a : StRef := { tenant := h.1.tenant, handle := h.1.handle, station := h.2.1 }
    match x.spareUnit h.2.2 rest with
    | some u => x.modSt a (fun z => { z with units := z.units.map (fun y => if y = (f, idx) then u else y) })
    | none => if rest.isEmpty then x.killAt a stNoUnit 0#32 else x.modSt a (fun z => { z with units := rest })) b

/-- A tested unit's arrays hold zeros: a core's Lath store, a Rafter's node cache (R483, R494). -/
def Block.reinitUnit (b : Block) (f cls idx : Nat) : Block :=
  if cls = 0 then b.modCore (72 * f + idx) (fun c => { c with windows := [], lines := [], withdraw := false })
  else if cls = 1 then { b with nodeCaches := b.nodeCaches.del (18 * f + idx) }
  else b

/-- A UNIT command's test is the one that runs. -/
def Block.unitCmd (b : Block) (u : Nat) : Bool := b.screen.cmd = .unit u

/-- The rotation test in progress is over, and a UNIT command with it. -/
def Block.rotEnd (b : Block) (u : Nat) : Block :=
  let b1 : Block := { b with screen := { b.screen with rot := .idle } }
  if b1.unitCmd u then b1.endCmd else b1

/-- ROTATION_TEST_DONE (R493, R494, R488): the unit is reinitialised and returns, or stays out of service and its stations move. -/
def execRotationTestDone (found : List Finding) (s : State) : Host.Outcome State Fault Refusal :=
  lift s (fun b =>
    match b.screen.rot with
    | .running u t0 =>
      let f := u % 8
      let cls := u / 8 % 32
      let idx := u / 256
      if b.now < t0 + rotCycles cls then b
      else
        let before := b.screen.out.length
        let byCmd := b.unitCmd u
        let b1 := (found.filter (fun x => x.unit = u)).foldl (fun (x : Block) y => x.applyFinding (if byCmd then 2 else 1) y) b
        if b1.start.state = .stopped then b1
        else
          let failed := decide (before < b1.screen.out.length)
          let b2 := if failed then (if byCmd && decide (b.start.state = .maintenance) then b1.loseStacks b else b1).moveStations f cls idx else b1
          let b3 := (b2.reinitUnit f cls idx).restoreUnit f cls idx (b2.seat f).spares
          let b4 := if byCmd then b3.cmdFailed failed else b3
          (if byCmd && decide (b.start.state ≠ .opened) then b4 else b4.bump Map.scrRotCnt 1).rotEnd u
    | _ => b)

/-- TEST_DEFER_TIMEOUT (R101, R493): drain and admission together have waited 10 ms, and the test is given up. -/
def execTestDeferTimeout (s : State) : Host.Outcome State Fault Refusal :=
  lift s (fun b =>
    match b.screen.rot with
    | .waiting u t0 =>
      if b.now < t0 + 2000000 then b
      else
        let b1 := if u / 8 % 32 = 0 then b.modCore (72 * (u % 8) + u / 256) (fun c => { c with withdraw := false }) else b
        (((b1.bump Map.scrRotGiveup 1).setErrBit Map.scrErr 2).setErrBit Map.calEvents 4).rotEnd u
    | _ => b)

/-! ## Commands (R496 to R498) -/

/-- Units of a class in a field (table "unit id"). -/
def classCount (f cls : Nat) : Nat :=
  match cls with
  | 10 => if gableFields.contains f then 3 else 0
  | 14 => if gableFields.contains f then 6 else 3
  | c => [72, 18, 1, 1, 9, 4, 12, 12, 3, 1, 0, 8, 4, 13, 0, 1, 1, 12, 9].getD c 0

/-- SCR_CMD_ARG as a unit id: field, class and index, when it names a unit. -/
def Block.argUnit (b : Block) : Option (Nat × Nat × Nat) :=
  let u := wfield b.screen.cmdArg 0 16
  if u / 256 < classCount (u % 8) (u / 8 % 32) then some (u % 8, u / 8 % 32, u / 256) else none

def Block.cmdOutcome (b : Block) (status : Nat) : Block :=
  { b with screen := { b.screen with cmdStatus := BitVec.ofNat 32 (b.screen.cmdStatus.toNat / 256 * 256 + status) } }

/-- A test command begins: the outcome is OK, not done, nothing failed. -/
def Block.cmdBegin (b : Block) (c : ScreenCmd) : Block := { b with screen := { b.screen with cmd := c, cmdStatus := 0#32 } }

/-- A write of SCR_CMD: the key, then the command's own status, then its effect (R497). -/
def Block.screenCmd (b : Block) (key : BitVec 16) (status : Nat) (go : Block → Block) : Block :=
  if !b.pins.pwrGood then b
  else if key ≠ cmdKey then b.cmdOutcome stRange
  else if status ≠ stOk then b.cmdOutcome status
  else go b

/-- No test runs on command, and the block's own start tests are over. -/
def Block.testFree (b : Block) : Bool := decide (b.screen.cmd = .none) && !b.start.qTests

/-- Status of UNIT: any class but Felt slices and stacks in MAINTENANCE, rotation classes in OPEN. A class that no state accepts is a bad unit id, one that MAINTENANCE alone accepts is refused in OPEN (R497). -/
def Block.unitStatus (b : Block) : Nat :=
  match b.argUnit with
  | none => stRange
  | some (f, c, i) =>
    if c = 7 then stRange
    else if c = 8 then (if (b.eave (3 * f + i)).resetN then stRange else stBusy)
    else if b.start.state = .opened ∧ 9 ≤ c then stBusy
    else if (b.start.state ≠ .opened ∧ b.start.state ≠ .maintenance) ∨ b.testFree = false then stBusy
    else if b.start.state = .maintenance ∧ b.screen.rot ≠ .idle then stBusy
    else stOk

/-- An accepted UNIT: in OPEN the unit takes the next slot, ahead of rotation order; in MAINTENANCE its test begins. -/
def Block.unitBegin (b : Block) : Block :=
  let u := wfield b.screen.cmdArg 0 16
  let b1 := b.cmdBegin (.unit u)
  if b1.start.state = .opened then { b1 with screen := { b1.screen with unitNext := some u } } else b1.drainUnit u

/-- UNIT (R497). -/
def execUnit (key : BitVec 16) (s : State) : Host.Outcome State Fault Refusal :=
  lift s (fun b => b.screenCmd key b.unitStatus Block.unitBegin)

/-- Status of EAVE. -/
def Block.eaveStatus (b : Block) : Nat :=
  match b.argUnit with
  | none => stRange
  | some (f, c, i) =>
    if c ≠ 8 then stRange
    else if !(b.eave (3 * f + i)).resetN || (b.start.state ≠ .opened && b.start.state ≠ .maintenance) || !b.testFree then stBusy
    else stOk

/-- An accepted EAVE: a maintenance window on each pseudo-channel of the stack in turn. -/
def Block.eaveBegin (b : Block) : Block :=
  match b.argUnit with
  | some (f, _, i) => (b.cmdBegin (.eave (3 * f + i))).modEave (3 * f + i) (fun e => { e with testTodo := List.range 64 })
  | none => b

/-- EAVE (R496, R497). -/
def execEave (key : BitVec 16) (s : State) : Host.Outcome State Fault Refusal :=
  lift s (fun b => b.screenCmd key b.eaveStatus Block.eaveBegin)

/-- Status of BLOCK and BLOCK_D. -/
def Block.blockStatus (b : Block) : Nat :=
  if (b.start.state ≠ .maintenance && b.start.state ≠ .quarantine) || !b.testFree || b.screen.rot ≠ .idle then stBusy else stOk

/-- A block test begins: its groups are to run again (R498). -/
def Block.blockBegin (b : Block) (d : Bool) : Block :=
  let b1 := b.cmdBegin (.block d)
  { b1 with screen := { b1.screen with groups := [] } }

/-- BLOCK (R498). -/
def execBlock (key : BitVec 16) (s : State) : Host.Outcome State Fault Refusal :=
  lift s (fun b => b.screenCmd key b.blockStatus (fun x => x.blockBegin false))

/-- BLOCK_D (R498). -/
def execBlockD (key : BitVec 16) (s : State) : Host.Outcome State Fault Refusal :=
  lift s (fun b => b.screenCmd key b.blockStatus (fun x => x.blockBegin true))

/-- Rotation is paused or resumed; the command ends at once (R495). -/
def Block.rotCtl (b : Block) (pause : Bool) : Block :=
  let b1 : Block := { b with screen := { b.screen with rotPause := pause } }
  if b1.screen.cmd = .none then (b1.cmdBegin .none).endCmd else b1.cmdOutcome stOk

/-- ROT_PAUSE (R495, R497). -/
def execRotPause (key : BitVec 16) (s : State) : Host.Outcome State Fault Refusal :=
  lift s (fun b => b.screenCmd key stOk (fun x => x.rotCtl true))

/-- ROT_RESUME (R495, R497). -/
def execRotResume (key : BitVec 16) (s : State) : Host.Outcome State Fault Refusal :=
  lift s (fun b => b.screenCmd key stOk (fun x => x.rotCtl false))

end Sys2Proof.Machine
end

