-- ==== Sys2Proof/Machine/Regs.lean ====
section
/-! DEFINITION. What every register reads as: the management map (R511) and BAR2 (R63), with the access code of each. -/
namespace Sys2Proof.Machine

/-! ## Words -/

/-! ## Access codes (R11 to R16) -/

/-- The access codes of R12. -/
inductive Access where
  | ro | rw | rw1c | rc | wo | rwi
  deriving DecidableEq, Repr

/-- A set's registers by access code: offsets from, below, and stride. -/
abbrev RegTable := List (Nat × Nat × Nat × Access)

def tableAt (t : RegTable) (off : Nat) : Option Access :=
  (t.find? (fun r => decide (r.1 ≤ off ∧ off < r.2.1 ∧ (off - r.1) % r.2.2.1 = 0))).map (fun r => r.2.2.2)

def idTable : RegTable := [(0, 8, 4, .ro), (0x10, 0x30, 4, .ro), (0x40, 0x1C4, 4, .ro)]
def startTable : RegTable := [(0, 0x10, 4, .ro), (0x10, 0x14, 4, .wo), (0x14, 0x70, 4, .ro)]
def calTable : RegTable :=
  [(0, 0x10, 4, .ro), (0x10, 0x1C, 4, .rwi), (0x1C, 0x20, 4, .rc), (0x20, 0x24, 4, .rw1c), (0x24, 0x28, 4, .ro), (0x28, 0x2C, 4, .rc), (0x2C, 0x30, 4, .rw), (0x30, 0x34, 4, .ro)]
def runTable : RegTable := [(0, 0x40, 4, .ro), (0x40, 0x4C, 4, .rc), (0x4C, 0x50, 4, .ro)]
def scrTable : RegTable :=
  [(0, 4, 4, .ro), (4, 8, 4, .wo), (8, 0xC, 4, .rw), (0xC, 0x18, 4, .ro), (0x18, 0x1C, 4, .rc), (0x1C, 0x20, 4, .rw), (0x20, 0x24, 4, .ro), (0x24, 0x28, 4, .rw),
   (0x28, 0x2C, 4, .ro), (0x2C, 0x34, 4, .rc), (0x34, 0x38, 4, .ro), (0x38, 0x3C, 4, .rw1c)]
def vatTable : RegTable :=
  [(0, 0x10, 4, .ro), (0x10, 0x30, 4, .rc), (0x30, 0x34, 4, .rw1c), (0x40, 0x140, 16, .rw), (0x44, 0x140, 16, .rw), (0x48, 0x140, 16, .rw), (0x4C, 0x140, 16, .ro), (0x140, 0x240, 4, .ro)]
def telTable : RegTable :=
  [(0, 8, 4, .rw), (8, 0x10, 4, .ro), (0x40, 0x44, 4, .ro), (0x44, 0x48, 4, .rw), (0x48, 0x50, 4, .ro), (0x100, 0x200, 16, .rw), (0x104, 0x200, 16, .ro), (0x108, 0x200, 16, .ro),
   (0x10C, 0x200, 16, .rc), (0x200, 0x2A0, 4, .rc)]
def flsTable : RegTable := [(0, 0x18, 4, .rwi), (0x18, 0x28, 4, .rc), (0x40, 0x90, 4, .rw1c), (0x1000, 0x9000, 4, .ro)]
def seatTable : RegTable := [(0, 4, 4, .ro), (4, 8, 4, .rwi), (8, 0xC, 4, .rc), (0xC, 0x10, 4, .rw1c), (0x10, 0x1C, 4, .ro)]
def sizTable : RegTable := [(0, 0x18, 4, .rc), (0x18, 0x1C, 4, .ro)]
def rafTable : RegTable := [(0, 0xC, 4, .ro), (0xC, 0x2C, 4, .rc), (0x2C, 0x30, 4, .rw1c)]
def mldTable : RegTable := [(0, 4, 4, .ro), (4, 0x18, 4, .rc), (0x18, 0x1C, 4, .rw1c), (0x1C, 0x20, 4, .ro)]
def yeaTable : RegTable := [(0, 4, 4, .ro), (4, 0x14, 4, .rc), (0x14, 0x1C, 4, .ro)]
def couTable : RegTable := [(0, 4, 4, .ro), (4, 0x14, 4, .rc), (0x14, 0x18, 4, .rw1c)]
def lthTable : RegTable := [(0, 0xC, 4, .ro), (0xC, 0x30, 4, .rc), (0x30, 0x34, 4, .rw1c), (0x34, 0x38, 4, .ro)]
def fltTable : RegTable := [(0, 8, 4, .ro), (8, 0x24, 4, .rc)]
def splTable : RegTable :=
  [(0, 0xC, 4, .rc), (0xC, 0x10, 4, .ro), (0x10, 0x1C, 4, .rc), (0x1C, 0x20, 4, .ro), (0x20, 0x30, 4, .rc), (0x30, 0x34, 4, .rw1c), (0x34, 0x38, 4, .ro)]
def eavTable : RegTable :=
  [(0, 0xC, 4, .ro), (0xC, 0x14, 4, .rc), (0x14, 0x18, 4, .ro), (0x18, 0x2C, 4, .rc), (0x2C, 0x3C, 4, .ro), (0x3C, 0x40, 4, .rc), (0x40, 0x48, 4, .ro), (0x48, 0x4C, 4, .rw1c), (0x4C, 0x50, 4, .ro)]
def rdgTable : RegTable :=
  [(0, 0x14, 4, .ro), (0x14, 0x24, 4, .rc), (0x24, 0x28, 4, .rw1c), (0x40, 0x80, 4, .rw), (0x80, 0x100, 4, .ro), (0x100, 0x120, 4, .rc),
   (0x2000, 0x4400, 16, .ro), (0x2004, 0x4400, 16, .rc), (0x2008, 0x4400, 16, .rc), (0x200C, 0x4400, 16, .rc),
   (0x100000, 0x200000, 16, .ro), (0x100004, 0x200000, 16, .ro), (0x100008, 0x200000, 16, .rc), (0x10000C, 0x200000, 16, .rc)]

/-- The tables of a field block (table "field block"). -/
def fieldTable (k : Nat) : RegTable :=
  [sizTable, rafTable, mldTable, yeaTable, couTable, lthTable, fltTable, splTable].getD k []

/-- The access code of a register of the management map; none where no register is (R13, R511). -/
def regAccess (a : Nat) : Option Access :=
  if a < 0x1000 then tableAt idTable a
  else if a < 0x2000 then tableAt startTable (a - 0x1000)
  else if a < 0x3000 then tableAt calTable (a - 0x2000)
  else if a < 0x4000 then tableAt runTable (a - 0x3000)
  else if a < 0x5000 then tableAt scrTable (a - 0x4000)
  else if a < 0x6000 then tableAt vatTable (a - 0x5000)
  else if a < 0x7000 then tableAt telTable (a - 0x6000)
  else if 0x10000 ≤ a ∧ a < 0x20000 then tableAt flsTable (a - 0x10000)
  else if 0x20000 ≤ a ∧ a < 0x20800 then tableAt seatTable (a % 0x100)
  else if 0x100000 ≤ a ∧ a < 0x180000 then tableAt (fieldTable (a % 0x10000 / 0x1000)) (a % 0x1000)
  else if 0x180000 ≤ a ∧ a < 0x181800 then tableAt eavTable (a % 0x100)
  else if 0x200000 ≤ a ∧ a < 0x400000 then tableAt rdgTable (a - 0x200000)
  else none

/-! ## Registers without storage of their own, set by set -/

/-- A value that phase 7 applies from the image, or zero before (R116, log entry 3). -/
def Block.lateNum (b : Block) (f : Image → Nat) : Nat := if b.start.late then (b.start.img.map f).getD 0 else 0

/-- The applied image's value, or zero before one is applied (log entry 3). -/
def Block.imgNum (b : Block) (f : Image → Nat) : Nat := (b.start.img.map f).getD 0

/-- Identity registers (chapter 19). -/
def Block.idReg (b : Block) (off : Nat) : Word :=
  if off = 0 then 0x302#32
  else if off = 4 then packFields [(b2n b.start.wmkAgree, 0), (b2n b.start.wmkCrc, 1), (b2n b.start.wmkKey, 2)]
  else if off < 0x30 then b.start.wmk.getD ((off - 0x10) / 4) 0#32
  else if off < 0x1C0 then (b.eave ((off - 0x40) / 16)).ident.getD (off / 4 % 4) 0#32
  else flagsWord 24 (fun k => (b.eave k).identValid)

def stateCode : BlockState → Nat
  | .reset => 0 | .starting => 1 | .opened => 2 | .maintenance => 3 | .quarantine => 4 | .stopped => 5

/-- Units of a class in service, over all fields. -/
def Block.countUnits (b : Block) (cls n : Nat) : Nat :=
  sumNat ((List.range 8).map (fun f => (List.range n).countP (fun i => b.unitIn f cls i)))

/-- Stack data capacity in service in GB, of 10^9 bytes (R418, CAP_STACK_CFG). -/
def Block.dataGB (b : Block) : Nat := b.zoneMiB * 1048576 / 1000000000

/-- Fields that the image enables; in QUARANTINE without an image every field counts as enabled (R136). -/
def Block.enabledFields (b : Block) : Word :=
  match b.start.img with
  | some g => w32 g.fieldEnable.toNat
  | none => if b.start.state = .quarantine then 0xFF#32 else 0#32

/-- Start and capability registers (chapter 04). -/
def Block.startReg (b : Block) (off : Nat) : Word :=
  let s := b.start
  match off with
  | 0x00 => packFields [(stateCode s.state, 0), (if s.state = .starting then s.phase else 0, 3), (b2n s.imageB, 7), (s.qCause, 8), (s.lastCmd, 11), (b2n s.drainAt.isSome, 14)]
  | 0x04 => packFields [(s.aResult, 0), (s.bResult, 4), (b2n s.spi1s, 8)]
  | 0x08 => s.imgErr
  | 0x0C => w32 (s.time % 2 ^ 24)
  | 0x14 => (s.img.map (fun g => g.serial)).getD 0#32
  | 0x18 => flagsWord 8 (fun f => b.fieldIn f) ||| (b.enabledFields <<< 8)
  | 0x1C => flagsWord 8 (fun n => b.seatIn n) ||| (flagsWord 8 (fun n => (b.seat n).present) <<< 8)
  | 0x20 => flagsWord 24 (fun k => b.eaveIn k)
  | 0x24 => packFields [(b.imgNum (fun g => g.height), 0), (b.imgNum (fun g => g.density), 2), (b.imgNum (fun g => g.pinRate), 4), (b.dataGB, 6)]
  | 0x28 => flagsWord 12 (fun p => (b.gable p).far) ||| (flagsWord 12 (fun p => (b.gable p).opened) <<< 12)
  | 0x2C => packFields [(b.countUnits 1 18, 0), (b.countUnits 0 72, 8), (b.countUnits 2 1, 18), (b.countUnits 3 1, 22)]
  | 0x30 => packFields [(b.imgNum (fun g => g.rayState), 0), (b.imgNum (fun g => g.matchStore), 8)]
  | 0x34 => flagsWord 32 (fun i => b.sliceIn i)
  | 0x38 => flagsWord 32 (fun i => b.sliceIn (32 + i))
  | 0x3C => flagsWord 32 (fun i => b.sliceIn (64 + i))
  | o => if 0x40 ≤ o ∧ o < 0x70 then let g := b.gable ((o - 0x40) / 4); packFields [(g.width, 0), (g.rate, 2)] else 0#32

/-- A draw in units of 10 mA at 12 V (chapter 03). -/
def tenMilliamps (uw : Nat) : Nat := uw / 120000 % 65536

/-- Calender and thermal registers (chapter 03). -/
def Block.calReg (b : Block) (off : Nat) : Word :=
  let c := b.cal
  let state := if c.ramp.isSome then 3 else if c.ceiling.isSome then 2 else if 0 < c.withheld then 1 else 0
  match off with
  | 0x00 => packFields [(state, 0), (b2n (decide (0 < c.ballast)), 2), (b2n (c.steps.any (fun s => s.phase = .preload)), 3), (b2n c.onRefclk, 4), (b.effCap % 4096, 5)]
  | 0x04 => w32 (tenMilliamps c.gPrev)
  | 0x08 => w32 (tenMilliamps c.hi)
  | 0x0C => packFields [(tenMilliamps c.ballast, 0), (b.ballastCap, 16)]
  | 0x10 => w32 c.slew
  | 0x14 => w32 c.stopRamp
  | 0x18 => w32 c.pwrCap
  | 0x24 => (match c.hottest with | some h => packFields [(h.1.toNat, 0), (h.2, 12)] | none => 0#32)
  | 0x2C => w32 c.sel
  | 0x30 => packFields [((c.temps.getD c.sel 0#12).toNat, 0), (b2n (c.sensIn.contains c.sel), 12)]
  | _ => 0#32

/-- Run registers (chapter 06). -/
def Block.runReg (b : Block) (off : Nat) : Word :=
  let t := off / 4
  let mine (p : Run → Bool) : Nat := b.runs.countP (fun r => decide (r.ref.tenant = t) && p r)
  if off < 0x40 then
    packFields [(mine (fun r => decide (r.phase ≠ .waiting)) % 128, 0), (min (mine (fun r => decide (r.phase = .waiting))) 1023, 16)]
  else 0#32

/-- One word of a record. -/
def RepairRec.word (r : RepairRec) (i : Nat) : Word := [r.w0, r.w1, r.w2, r.w3].getD i 0#32

/-- Screen registers (chapter 18). -/
def Block.scrReg (b : Block) (off : Nat) : Word :=
  let s := b.screen
  match off with
  | 0x00 => packFields [(b2n (decide (b.start.state = .starting ∧ b.start.phase = 4) || b.start.qTests), 0),
      (b2n (match s.rot with | .running _ _ => true | _ => false), 1), (b2n (decide (s.cmd ≠ .none)), 2), (b2n (decide (4096 ≤ s.records.length)), 3)]
  | 0x08 => s.cmdArg
  | 0x0C => s.cmdStatus
  | 0x10 => w32 (b2n s.rotPause)
  | 0x14 => w32 s.records.length
  | 0x1C => s.recSel
  | 0x20 => ((s.records[wfield s.recSel 0 12]?).map (fun r => r.word (wfield s.recSel 12 2))).getD 0#32
  | 0x24 => s.rptSel
  | 0x28 => (b.report (wfield s.rptSel 0 8)).word (wfield s.rptSel 8 2)
  | 0x34 => w32 ((b.rotFrom s.rotNext).getD 0)
  | _ => 0#32

/-- Vatman registers (chapter 14). -/
def Block.vatReg (b : Block) (off : Nat) : Word :=
  let v := b.vat
  if off = 0x00 then
    packFields [(b2n (v.devs.any (fun d => d.inService)), 0), (b2n (v.sheets.any (fun s => s.paging.isSome || s.evict.isSome)), 1),
      (b2n (decide (b.hbmFree = 0)), 2), (b2n (b.runs.any (fun r => r.waitQ && r.waitPool)), 3)]
  else if off = 0x04 then w32 b.hbmFree
  else if off = 0x08 then w32 v.farFree
  else if off = 0x0C then w32 (mapEntries - b.mapUsed)
  else if off < 0x40 then 0#32
  else if off < 0x140 then
    let t := (off - 0x40) / 16
    match off / 4 % 4 with
    | 0 => w32 (b.tenant t).quotaHbm
    | 1 => w32 (b.tenant t).quotaFelt
    | 2 => w32 (b.tenant t).quotaFar
    | _ => w32 (v.sparsOf t)
  else
    let t := (off - 0x140) / 16
    match off / 4 % 4 with
    | 0 => w32 (v.useHbm t)
    | 1 => w32 (b.useFelt t)
    | 2 => w32 (v.useFar t)
    | _ => w32 (v.allocOf t)

/-- Telemetry and error registers (chapter 19). -/
def Block.telReg (b : Block) (off : Nat) : Word :=
  let t := b.tel
  let slot := t.slots.getD ((off - 0x100) / 16) TelSlot.reset
  if off = 0x00 then w32 (b2n t.enable)
  else if off = 0x04 then w32 t.period
  else if off = 0x08 then t.seq
  else if off = 0x0C then t.time
  else if off = 0x40 then b.errSum
  else if off = 0x44 then t.irqMask
  else if off = 0x48 then t.fatalCause
  else if off = 0x4C then t.fatalTime
  else
    match off / 4 % 4 with
    | 0 => slot.sel
    | 1 => slot.val
    | 2 => slot.delta
    | _ => slot.max

/-- Flashing registers (chapter 05). -/
def Block.flsReg (b : Block) (off : Nat) : Word :=
  match off with
  | 0x00 => w32 (b.lateNum (fun g => g.gapTo))
  | 0x04 => w32 (b.lateNum (fun g => g.watchdog))
  | 0x08 => w32 (b.lateNum (fun g => g.gcplTo))
  | 0x0C => w32 (b.lateNum (fun g => g.stackTo))
  | 0x10 => w32 (b.lateNum (fun g => g.growTo))
  | 0x14 => w32 (b.lateNum (fun g => g.maintDrain))
  | o =>
    if o < 0x1000 then 0#32
    else
      let i := (o - 0x1000) / 8
      let st := b.strm (i / 256) (i % 256)
      if o / 4 % 2 = 0 then w32 (st.next % 2 ^ 32)
      else packFields [(st.next / 2 ^ 32 % 65536, 0), (b2n st.broken, 16),
        (b2n (b.ridge.held.any (fun h => decide (h.1 = i / 256 ∧ h.2.1 = .admission (i % 256)))), 17), (min st.held.length 1023, 18)]

/-! ## Field sets -/

/-- Stations of runs with their runs. -/
def Block.allStations (b : Block) : List (Run × Station) := b.runs.flatMap (fun r => r.stations.map (fun s => (r, s)))

/-- A unit of a type holds work. -/
def Block.unitBusy (b : Block) (ty : StType) (f u : Nat) : Bool := decide (0 < b.unitLoad ty f u)

/-- A Rafter holds work of a BOUND station. -/
def Block.boundBusy (b : Block) (f u : Nat) : Bool :=
  b.allStations.any (fun x => decide (x.2.entry.type = .rafter) && (rafterPar x.2.params).bound &&
    x.2.active.any (fun a => decide (a.field = f ∧ a.unit = u) && !a.freed))

/-- A Yealm former holds rows, windows or an item. -/
def Block.yealmBusy (b : Block) (f : Nat) : Bool :=
  b.allStations.any (fun x => x.2.units.contains (f, 0) && (match x.2.body with | .yealm y => !y.rows.isEmpty || !y.windows.isEmpty || !x.2.active.isEmpty | _ => false))

def Block.yealmWaits (b : Block) (f : Nat) : Bool :=
  b.allStations.any (fun x => x.2.units.contains (f, 0) && (match x.2.body with | .yealm y => y.asked.isSome | _ => false))

/-- A Couch port holds batches or an item. -/
def Block.couchBusy (b : Block) (f c : Nat) : Bool :=
  b.unitBusy .couch f c ||
  b.allStations.any (fun x => x.2.units.contains (f, c) && (match x.2.body with | .couch y => y.batches.any (fun z => z.field = f) | _ => false))

/-- Sheets that the course stores of a field's BIN stations hold. -/
def Block.courseHeld (b : Block) (f : Nat) : Nat :=
  sumNat (b.allStations.map (fun x =>
    if x.2.entry.type = .bin ∧ x.2.homeField = f ∧ x.1.phase ≠ .waiting then (b.vat.courseSheets x.1.ref.tenant (binPar x.2.params)).length else 0))

/-- Fragments that the blends hold at a field's slices. -/
def Block.holdNow (b : Block) (f : Nat) : Nat :=
  sumNat (b.allStations.map (fun x =>
    match x.2.body with
    | .blend y => sumNat (y.sh.map (fun e => if b.ownerField (blendPar x.2.params).w e.1 = f then e.2.held.length else 0))
    | _ => 0))

/-- The registers of a field's sets: set `k` of the table "field block". -/
def Block.fieldReg (b : Block) (f k off : Nat) : Word :=
  match k, off with
  | 0, _ => flagsWord 4 (fun i => b.unitBusy .size f i)
  | 1, 0 => flagsWord 18 (fun i => b.boundBusy f i)
  | 1, 4 => flagsWord 18 (fun i => b.unitBusy .rafter f i)
  | 1, _ => flagsWord 18 (fun i => b.unitIn f 1 i)
  | 2, _ => packFields [(b2n (b.unitIn f 2 0), 0), (b2n (b.unitBusy .mould f 0), 1), (b2n (b.backHolds f), 2)]
  | 3, 0 => packFields [(b2n (b.unitIn f 3 0), 0), (b2n (b.yealmBusy f), 1), (b2n (b.yealmWaits f), 2)]
  | 3, 0x14 => w32 b.rayTable
  | 3, _ => w32 b.rayUsed.length
  | 4, _ => flagsWord 9 (fun c => b.couchBusy f c)
  | 5, 0 => flagsWord 32 (fun i => b.unitIn f 0 i)
  | 5, 4 => flagsWord 32 (fun i => b.unitIn f 0 (32 + i))
  | 5, _ => flagsWord 8 (fun i => b.unitIn f 0 (64 + i))
  | 6, 0 => flagsWord 12 (fun i => b.unitIn f 7 i)
  | 6, _ => w32 (b.poolFree f)
  | 7, 0xC => w32 (b.courseHeld f)
  | 7, _ => w32 (min (b.holdNow f) (2 ^ 32 - 1))
  | _, _ => 0#32

/-- Eave registers (chapter 15). -/
def Block.eavReg (b : Block) (k off : Nat) : Word :=
  let e := b.eave k
  let out (p : Nat) : Bool := decide ((e.pc p).health = .dead ∨ (e.pc p).health = .mappedOut)
  match off with
  | 0x00 => packFields [(b.eaveMode k, 0), (b2n (b.eaveIn k), 2), (b2n e.selfRefresh, 3), ((e.window.map (fun w => w.1)).getD 0, 4), (b2n e.window.isSome, 10),
      (b2n (e.pcs.any (fun p => decide (p.2.health = .failing))), 11)]
  | 0x04 => packFields [(e.temp.toNat, 0), (b2n e.hotFlag, 12)]
  | 0x08 => packFields [(b.refreshRate k, 0), (b2n (decide (b.eaveMode k ≠ 0)), 2), (b2n (b.throttled k), 3)]
  | 0x14 => w32 e.reads.length
  | 0x2C => w32 e.retired.length
  | 0x30 => packFields [((Config.slateTotal - e.moves.length - e.badSpares.length) % 65536, 0), (e.badSpares.length % 65536, 16)]
  | 0x34 => flagsWord 32 (fun p => out p)
  | 0x38 => flagsWord 32 (fun p => out (32 + p))
  | 0x40 => w32 e.scrubPass
  | 0x44 => w32 (e.log.length % 65536)
  | 0x4C => e.lastErr
  | _ => 0#32

/-! ## Ridge set (chapter 13) -/

/-- RDG_CORE_STAT of a core. -/
def Block.coreStat (b : Block) (c : Nat) : Word :=
  let k := b.core c
  let state := if !b.unitIn (c / 72) 0 (c % 72) then 3 else match k.launch with | none => 0 | some l => if l.splat then 2 else 1
  let ref := k.launch.map (fun l => l.run)
  packFields [(state, 0), (b2n k.withdraw, 2), (k.items.length, 3), ((ref.map (fun r => r.tenant)).getD 0 % 16, 8),
    (((ref.bind b.findRun).map b.capPrio).getD 0, 12)]

/-- The pool queue's owner: its run, its kind (1 edge, 2 station items), its entries and its HELD state. -/
def Block.poolQueue (b : Block) (q : Nat) : Option (Run × Nat × Nat × Bool) :=
  b.runs.findSome? (fun r =>
    if !r.queues.contains q then none
    else
      match r.edges.findIdx? (fun e => e.queue = q) with
      | some j => some (r, 1, ((r.edges[j]?).map (fun e => e.tiles.length)).getD 0, b.isHeld r.ref.tenant (.edge r.ref j))
      | none => (r.stations.findIdx? (fun s => s.queue = q)).map (fun i => (r, 2, b.firedOf r.ref i, b.isHeld r.ref.tenant (.items r.ref i))))

/-- RDG_QA and RDG_QB of a queue. -/
def Block.queueReg (b : Block) (q : Nat) (second : Bool) : Word :=
  let entries (n : Nat) : Word := packFields [(min n 16, 0), (min (n - 16) (2 ^ 27 - 1), 5)]
  if q < 4096 then
    let held := b.ridge.held.any (fun h => decide (h.1 = q / 256 ∧ h.2.1 = .admission (q % 256)))
    if second then entries (b.strm (q / 256) (q % 256)).held.length else packFields [(if held then 2 else 1, 0), (q / 256, 7)]
  else
    match b.poolQueue q with
    | none => 0#32
    | some (r, kind, n, held) => if second then entries n else packFields [(if held then 2 else 1, 0), (kind, 2), (r.prio, 4), (r.ref.tenant % 16, 7)]

def Block.rdgReg (b : Block) (off : Nat) : Word :=
  if off = 0x00 then
    packFields [(b2n (decide (0 < b.matchSize ∧ b.matchSize ≤ b.matchUsed)), 0), (b2n (!b.ridge.held.isEmpty), 1), (b2n (b.runs.any (fun r => r.waitQ && !r.waitPool)), 2)]
  else if off = 0x04 then w32 b.matchSize
  else if off = 0x08 then w32 b.matchUsed
  else if off = 0x0C then w32 (b.ridge.items.countP (fun x => x.spilled))
  else if off = 0x10 then w32 b.queuesFree
  else if off < 0x40 then 0#32
  else if off < 0x80 then w32 (b.tenant ((off - 0x40) / 4)).prioMax
  else if off < 0xC0 then w32 (b.gutterUsed ((off - 0x80) / 4) % 2 ^ 25)
  else if off < 0x100 then w32 (if b.start.late then b.gutterSize ((off - 0xC0) / 4) % 2 ^ 25 else 0)
  else if off < 0x100000 then b.coreStat ((off - 0x2000) / 16)
  else b.queueReg ((off - 0x100000) / 16) (decide (off / 4 % 4 = 1))

/-! ## The map -/

/-- A set that belongs to a field, seat or Eave that the image disables: it reads its reset values (R511). -/
def Block.setDisabled (b : Block) (a : Nat) : Bool :=
  match b.start.img with
  | none => false
  | some g =>
    if 0x20000 ≤ a ∧ a < 0x20800 then !g.seatEnable.getLsbD (a / 0x100 % 0x100)
    else if 0x100000 ≤ a ∧ a < 0x180000 then !g.fieldEnable.getLsbD (a / 0x10000 % 16)
    else if 0x180000 ≤ a ∧ a < 0x181800 then !g.fieldEnable.getLsbD (a / 0x100 % 0x100 / 3) || !g.stackEnable.getLsbD (a / 0x100 % 0x100)
    else false

/-- Registers that hold the last value of an event. -/
def lastReg (a : Nat) : Bool :=
  decide (a = Map.runLastKill) || (decide (0x100000 ≤ a ∧ a < 0x180000) && [0x201C, 0x5034, 0x7034].contains (a % 0x10000))

/-- The value of a RO, RW or RWI register; what a set out of service holds stands (R511). -/
def Block.plainReg (b : Block) (a : Nat) : Word :=
  match b.lasts.get a with
  | some w => w
  | none =>
  if lastReg a then 0#32
  else if a < 0x1000 then b.idReg a
  else if a < 0x2000 then b.startReg (a - 0x1000)
  else if a < 0x3000 then b.calReg (a - 0x2000)
  else if a < 0x4000 then b.runReg (a - 0x3000)
  else if a < 0x5000 then b.scrReg (a - 0x4000)
  else if a < 0x6000 then b.vatReg (a - 0x5000)
  else if a < 0x7000 then b.telReg (a - 0x6000)
  else if a < 0x20000 then b.flsReg (a - 0x10000)
  else if a < 0x100000 then b.seatReg (a / 0x100 % 0x100) (a % 0x100)
  else if a < 0x180000 then b.fieldReg (a / 0x10000 % 16) (a % 0x10000 / 0x1000) (a % 0x1000)
  else if a < 0x200000 then b.eavReg (a / 0x100 % 0x100) (a % 0x100)
  else b.rdgReg (a - 0x200000)

/-- The slot whose TEL_MAX an address is. -/
def telMaxSlot (a : Nat) : Option Nat := if 0x6100 ≤ a ∧ a < 0x6200 ∧ a % 16 = 12 then some ((a - 0x6100) / 16) else none

/-- The value of an RC register. -/
def Block.rcReg (b : Block) (a : Nat) : Word :=
  match telMaxSlot a with
  | some n => (b.tel.slots.getD n TelSlot.reset).max
  | none => b.ctr a

/-- What a read of an address of the management map returns (R12, R13, R511). -/
def Block.reg (b : Block) (a : Nat) : Word :=
  match regAccess a with
  | none => 0#32
  | some .wo => 0#32
  | some .rc => b.rcReg a
  | some .rw1c => b.err a
  | some .rwi => b.plainReg a
  | some .rw => b.plainReg a
  | some .ro =>
    -- RST_SIZE has the image's value as its reset value
    if b.setDisabled a && decide (a % 0x10000 ≠ 0x3014) then 0#32 else b.plainReg a

/-- A read clears an RC register (R16, R512); its twin goes on (R502). -/
def Block.clearReg (b : Block) (a : Nat) : Block :=
  if regAccess a = some .rc then
    match telMaxSlot a with
    | some n => { b with tel := { b.tel with slots := modAt b.tel.slots n (fun x => { x with max := 0#32 }) } }
    | none => (match b.ctrs.get a with
      | some c => { b with ctrs := b.ctrs.set a { c with val := 0#32 } }
      | none => b)
  else b

/-- What the sampler reads: the twin of an RC counter, the value of an RO register, nothing else (R502, R503). -/
def Block.sampled (b : Block) (a : Nat) : Option Word :=
  match regAccess a with
  | some .rc => some (match telMaxSlot a with | some _ => b.rcReg a | none => (b.ctrs.getD a { val := 0#32, twin := 0#32 }).twin)
  | some .ro => some (b.reg a)
  | _ => none

/-! ## BAR2 (R63) -/

/-- The access code of a register of BAR2. -/
def barAccess (off : Nat) : Option Access :=
  tableAt [(0, 0xC, 4, .rw), (0xC, 0x10, 4, .ro), (0x10, 0x14, 4, .rw), (0x14, 0x18, 4, .ro), (0x18, 0x1C, 4, .rw1c)] off

def Gable.reg (g : Gable) (off : Nat) : Word :=
  match off with
  | 0x00 => g.ringBase.setWidth 32
  | 0x04 => (g.ringBase >>> 32).setWidth 32
  | 0x08 => w32 g.ringSize
  | 0x0C => w32 g.ringTail
  | 0x10 => w32 g.ringHead
  | 0x14 => w32 g.taken
  | 0x18 => g.err
  | _ => 0#32

end Sys2Proof.Machine
end

