-- ==== Sys2Proof/Machine/Mgmt.lean ====
section
/-! DEFINITION. Management accesses, the runtime-writable set, REG_READ and REG_WRITE, and the telemetry sampler (chapters 00, 02, 04, 05 and 19). -/
namespace Sys2Proof.Machine

/-! ## Error bits and the alert (R15, R508) -/

/-- A write of ones clears bits of an RW1C register; MG_ALERT_N is released once no unmasked summary bit is set (log entry 57). -/
def Block.clearErr (b : Block) (a : Nat) (mask : Word) : Block :=
  let b1 : Block := { b with errs := b.errs.set a (b.err a &&& ~~~mask) }
  if b1.errSum &&& ~~~(b1.tel.irqMask &&& ~~~0x800#32) = 0#32 then { b1 with pins := { b1.pins with mgAlertN := true } } else b1

/-- A set whose unit is out of service discards writes (R511). -/
def Block.setFrozen (b : Block) (a : Nat) : Bool :=
  if 0x20000 ≤ a ∧ a < 0x20800 then !b.seatIn (a / 0x100 % 0x100)
  else if 0x100000 ≤ a ∧ a < 0x180000 then !b.fieldIn (a / 0x10000 % 16)
  else if 0x180000 ≤ a ∧ a < 0x181800 then !b.eaveIn (a / 0x100 % 0x100)
  else false

/-! ## START_CMD and SCR_CMD by value -/

/-- A write of START_CMD (R142): an unknown command is refused as one that the state does not accept; an admin RESTART is refused. -/
def Block.startCmdWrite (b : Block) (v : Word) (admin : Bool) : Block :=
  let key := BitVec.ofNat 16 (wfield v 16 16)
  match wfield v 0 8 with
  | 0xA1 => b.startCmd key (!admin && decide (b.start.state = .quarantine ∨ b.start.state = .maintenance)) (fun x => x.restart false)
  | 0xA2 => b.startCmd key b.maintOk Block.beginDrain
  | 0xA3 => b.startCmd key (decide (b.start.state = .maintenance)) (fun x => { x with start := { x.start with state := .opened } })
  | _ => b.startCmd key false (fun x => x)

/-- A write of SCR_CMD (R497). -/
def Block.scrCmdWrite (b : Block) (v : Word) : Block :=
  let key := BitVec.ofNat 16 (wfield v 16 16)
  match wfield v 0 8 with
  | 1 => b.screenCmd key b.unitStatus Block.unitBegin
  | 2 => b.screenCmd key b.eaveStatus Block.eaveBegin
  | 3 => b.screenCmd key b.blockStatus (fun x => x.blockBegin false)
  | 4 => b.screenCmd key b.blockStatus (fun x => x.blockBegin true)
  | 5 => b.screenCmd key stOk (fun x => x.rotCtl true)
  | 6 => b.screenCmd key stOk (fun x => x.rotCtl false)
  | _ => b.screenCmd key stRange (fun x => x)

/-! ## The runtime-writable set (R139 to R141, R504) -/

/-- The sampler slots of a write begin again: the next difference is zero (R504). -/
def TelSlot.restart (x : TelSlot) : TelSlot := { x with prev := none }

/-- A write of a sampler setting (R504); a value outside its range is discarded. -/
def Tel.write (t : Tel) (now off : Nat) (v : Word) : Tel :=
  let n := (off - 0x100) / 16
  if off = 0 then
    (if wbit v 0 && !t.enable then { t with enable := true, sampleAt := now, slots := t.slots.map TelSlot.restart } else { t with enable := wbit v 0 })
  else if off = 4 then
    (if wfield v 0 24 = 0 then t else { t with period := wfield v 0 24, sampleAt := now, slots := t.slots.map TelSlot.restart })
  else if 0x100 ≤ off ∧ off < 0x200 ∧ off % 16 = 0 then
    (if wfield v 0 2 = 0 then { t with slots := modAt t.slots n (fun x => ({ x with sel := w32 (wfield v 0 22) } : TelSlot).restart) } else t)
  else t

def Block.modTenant (b : Block) (t : Nat) (f : Tenant → Tenant) : Block := { b with vat := { b.vat with tenants := modAt b.vat.tenants t f } }

/-- A sampler setting of the set. -/
def telSetting (a : Nat) : Bool := decide (a = 0x6000 ∨ a = 0x6004 ∨ (0x6100 ≤ a ∧ a < 0x6200 ∧ a % 16 = 0))

/-- A quota or priority ceiling of the set. -/
def tenantSetting (a : Nat) : Bool := decide ((0x5040 ≤ a ∧ a < 0x5140 ∧ a % 4 = 0 ∧ a % 16 ≠ 12) ∨ (0x200040 ≤ a ∧ a < 0x200080 ∧ a % 4 = 0))

/-- The runtime-writable set (table of that name). -/
def runtimeSet (a : Nat) : Bool := telSetting a || tenantSetting a || decide (a = 0x202C)

/-- An admin write of a quota, a priority ceiling or THM_SENSOR_SEL; a quota outside its field's range is discarded (R139 to R141). -/
def Block.tenantWrite (b : Block) (a : Nat) (v : Word) : Block :=
  if a = 0x202C then { b with cal := { b.cal with sel := wfield v 0 6 } }
  else if 0x200000 ≤ a then b.modTenant ((a - 0x200040) / 4) (fun t => { t with prioMax := wfield v 0 3 })
  else
    let t := (a - 0x5040) / 16
    match a / 4 % 4 with
    | 0 => if v.toNat ≤ 786432 then b.modTenant t (fun x => { x with quotaHbm := v.toNat }) else b
    | 1 => if wfield v 0 12 ≤ 3072 then b.modTenant t (fun x => { x with quotaFelt := wfield v 0 12 }) else b
    | _ => b.modTenant t (fun x => { x with quotaFar := wfield v 0 16 })

/-- A write to the runtime-writable set takes effect (R139): in OPEN and MAINTENANCE. -/
def Block.settingWrite (b : Block) (a : Nat) (v : Word) : Block :=
  if !b.serving then b
  else if telSetting a then { b with tel := b.tel.write b.now (a - 0x6000) v }
  else if runtimeSet a then b.tenantWrite a v
  else b

/-! ## Management accesses (R11 to R16, R71) -/

/-- An access of any other width or alignment is an access to no register (R11, R71). -/
def regAddr (a n : Nat) : Option Nat := if n = 4 ∧ a % 4 = 0 then some a else none

/-- A management write: as the access code gives it; the runtime-writable set belongs to the admin tenant alone (R12, R14). -/
def Block.mgmtWrite (b : Block) (a : Nat) (v : Word) : Block :=
  if runtimeSet a || b.setFrozen a then b
  else
    match regAccess a with
    | some .rw1c => b.clearErr a v
    | some .wo => if a = 0x1010 then b.startCmdWrite v false else b.scrCmdWrite v
    | some .rw =>
      if a = 0x4008 then { b with screen := { b.screen with cmdArg := w32 (wfield v 0 16) } }
      else if a = 0x401C then { b with screen := { b.screen with recSel := w32 (wfield v 0 14) } }
      else if a = 0x4024 then { b with screen := { b.screen with rptSel := w32 (wfield v 0 10) } }
      else if a = 0x6044 then { b with tel := { b.tel with irqMask := v } }
      else b
    | _ => b

/-- A write of a host into BAR2 of its port (R63, R64). -/
def Block.barWrite (b : Block) (p off : Nat) (v : Word) : Block :=
  if !b.hostOpen p then b
  else
    match off with
    | 0x00 => b.modGable p (fun g => { g with ringBase := (g.ringBase &&& 0xFFFFFFFF00000000#64) ||| ((v &&& 0xFFFFF000#32).setWidth 64) })
    | 0x04 => b.modGable p (fun g => { g with ringBase := (g.ringBase &&& 0xFFFFFFFF#64) ||| (v.setWidth 64 <<< 32) })
    | 0x08 => b.ringSizeWrite p v
    | 0x10 => b.ringHeadWrite p v
    | 0x18 => b.modGable p (fun g => { g with err := g.err &&& ~~~v })
    | _ => b

/-- REGISTER_WRITE (R11 to R14, R508, R511): the management group answers while PWR_GOOD is high. -/
def execRegisterWrite (space : RegSpace) (a : Nat) (v : Word) (n : Nat) (s : State) : Host.Outcome State Fault Refusal :=
  lift s (fun b =>
    match regAddr a n, space with
    | none, _ => b
    | some x, .mgmt => if b.pins.pwrGood then b.mgmtWrite x v else b
    | some x, .bar2 p => b.barWrite p x v)

/-- CLEARING_READ (R13, R16, R502, R512): the value goes out, and an RC register is cleared. -/
def execClearingRead (space : RegSpace) (a n : Nat) (s : State) : Host.Outcome State Fault Refusal :=
  lift s (fun b =>
    match space with
    | .mgmt =>
      if !b.pins.pwrGood then b
      else (match regAddr a n with
        | some x => (b.emitOut (.regRead x (b.reg x))).clearReg x
        | none => b.emitOut (.regRead a 0#32))
    | .bar2 p =>
      if !b.hostOpen p then b
      else b.emitOut (.bar2Read p a (match regAddr a n with | some x => (b.gable p).reg x | none => 0#32)))

/-- RUNTIME_SETTING_WRITE (R139 to R141): an admin write to a quota, a priority ceiling or the sensor select. -/
def execRuntimeSettingWrite (a : Nat) (v : Word) (s : State) : Host.Outcome State Fault Refusal :=
  lift s (fun b => if telSetting a then b else b.settingWrite a v)

/-- TELEMETRY_CONFIG_WRITE (R504): an admin write to a sampler setting. -/
def execTelemetryConfigWrite (a : Nat) (v : Word) (s : State) : Host.Outcome State Fault Refusal :=
  lift s (fun b => if telSetting a then b.settingWrite a v else b)

/-! ## REG_READ and REG_WRITE (R145) -/

/-- REG_READ (R145, R512): any register of the map; a clearing read clears it for both readers. -/
def execRegRead (strm : Nat) (s : State) : Host.Outcome State Fault Refusal :=
  lift s (fun b =>
    match b.front 0 strm opRegRead with
    | none => b
    | some p =>
      let a := (p.arg 0).toNat
      ((b.popFront 0 strm).clearReg a).complete 0 p stOk (b.reg a) 0#32 0)

/-- REG_WRITE (R139, R142, R145): a register of the runtime-writable set or START_CMD; another target, or a START_CMD refused, is DENIED. -/
def execRegWrite (strm : Nat) (s : State) : Host.Outcome State Fault Refusal :=
  lift s (fun b =>
    match b.front 0 strm opRegWrite with
    | none => b
    | some p =>
      let a := (p.arg 0).toNat
      let b1 := b.popFront 0 strm
      let denied (x : Block) : Block := (x.setErrBit (Map.flsSrcErr p.src) 3).complete 0 p stDenied 0#32 0#32 0
      if a = 0x1010 then
        let b2 := b1.startCmdWrite (p.arg 1) true
        if b2.start.lastCmd = 1 then b2.complete 0 p stOk 0#32 0#32 0 else denied b2
      else if runtimeSet a then (b1.settingWrite a (p.arg 1)).complete 0 p stOk 0#32 0#32 0
      else denied b1)

/-! ## The sampler (R502, R503) -/

/-- One slot takes a sample. -/
def TelSlot.sample (x : TelSlot) (v : Option Word) : TelSlot :=
  match v with
  | none => { x with val := 0#32, delta := 0#32, max := 0#32, prev := none }
  | some w =>
    let d := match x.prev with | some p => w - p | none => 0#32
    { x with val := w, delta := d, max := if x.max.toNat < d.toNat then d else x.max, prev := some w }

/-- TELEMETRY_SAMPLE (R503): once every TEL_PERIOD × 2,000 CK_MGMT cycles while enabled, all slots at one edge. -/
def execTelemetrySample (s : State) : Host.Outcome State Fault Refusal :=
  lift s (fun b =>
    if !b.tel.enable || decide (b.now < b.tel.sampleAt + 2000 * b.tel.period) then b
    else { b with tel := { b.tel with slots := b.tel.slots.map (fun x => x.sample (b.sampled x.sel.toNat)), seq := b.tel.seq + 1, time := b.mgmtTime, sampleAt := b.now } })

end Sys2Proof.Machine
end

