-- ==== Sys2Proof/Machine/Dispatch.lean ====
section
/-! DEFINITION. One arm for each command: the direct call of its meaning. -/
namespace Sys2Proof.Machine

def exec (i : Instr) (s : State) : Host.Outcome State Fault Refusal :=
  match i with
  | .pwrGoodRise mgMode mgAddr => Sys2Proof.Machine.execPwrGoodRise mgMode mgAddr s
  | .pwrGoodFall => Sys2Proof.Machine.execPwrGoodFall s
  | .rstNFall => Sys2Proof.Machine.execRstNFall s
  | .rstNRise => Sys2Proof.Machine.execRstNRise s
  | .stopRampEnd => Sys2Proof.Machine.execStopRampEnd s
  | .rootLock read1 read2 => Sys2Proof.Machine.execRootLock read1 read2 s
  | .rootLockTimeout => Sys2Proof.Machine.execRootLockTimeout s
  | .rootLockLoss => Sys2Proof.Machine.execRootLockLoss s
  | .flashReadDone spi bytes => Sys2Proof.Machine.execFlashReadDone spi bytes s
  | .flashReadTimeout => Sys2Proof.Machine.execFlashReadTimeout s
  | .imageShareExpiry spi => Sys2Proof.Machine.execImageShareExpiry spi s
  | .flReleaseNChange level => Sys2Proof.Machine.execFlReleaseNChange level s
  | .startPhaseDone seats links devs => Sys2Proof.Machine.execStartPhaseDone seats links devs s
  | .phaseBudgetExpiry links devs => Sys2Proof.Machine.execPhaseBudgetExpiry links devs s
  | .fieldWakeDone field => Sys2Proof.Machine.execFieldWakeDone field s
  | .stackTrainingDone eave passed ident => Sys2Proof.Machine.execStackTrainingDone eave passed ident s
  | .restart key => Sys2Proof.Machine.execRestart key s
  | .enterMaint key => Sys2Proof.Machine.execEnterMaint key s
  | .exitMaint key => Sys2Proof.Machine.execExitMaint key s
  | .drainDone => Sys2Proof.Machine.execDrainDone s
  | .maintDrainTimeout => Sys2Proof.Machine.execMaintDrainTimeout s
  | .cattrip eave => Sys2Proof.Machine.execCattrip eave s
  | .seatAlert seat => Sys2Proof.Machine.execSeatAlert seat s
  | .seatUncorrectableLinkError seat bits => Sys2Proof.Machine.execSeatUncorrectableLinkError seat bits s
  | .seatLinkRetrainDone seat ok spares => Sys2Proof.Machine.execSeatLinkRetrainDone seat ok spares s
  | .seatLinkFlit seat frame credits corrected => Sys2Proof.Machine.execSeatLinkFlit seat frame credits corrected s
  | .seatLoad seat hdr upsets => Sys2Proof.Machine.execSeatLoad seat hdr upsets s
  | .loadData seat num => Sys2Proof.Machine.execLoadData seat num s
  | .seatStore seat hdr cells upsets => Sys2Proof.Machine.execSeatStore seat hdr cells upsets s
  | .storeDone seat num => Sys2Proof.Machine.execStoreDone seat num s
  | .seatCommand seat hdr cells => Sys2Proof.Machine.execSeatCommand seat hdr cells s
  | .stageAck seat hdr => Sys2Proof.Machine.execStageAck seat hdr s
  | .seatCreditTimeout seat => Sys2Proof.Machine.execSeatCreditTimeout seat s
  | .stageAckTimeout seat tenant handle => Sys2Proof.Machine.execStageAckTimeout seat tenant handle s
  | .gabSlotWrite port slot off bytes => Sys2Proof.Machine.execGabSlotWrite port slot off bytes s
  | .gabCommit port slot word => Sys2Proof.Machine.execGabCommit port slot word s
  | .gabRingSizeWrite port value => Sys2Proof.Machine.execGabRingSizeWrite port value s
  | .gabRingHeadWrite port value => Sys2Proof.Machine.execGabRingHeadWrite port value s
  | .hostConfigRequest port => Sys2Proof.Machine.execHostConfigRequest port s
  | .gaPerstNFall port => Sys2Proof.Machine.execGaPerstNFall port s
  | .gaPerstNRise port link => Sys2Proof.Machine.execGaPerstNRise port link s
  | .farReadCompletion tenant sheet page poisoned => Sys2Proof.Machine.execFarReadCompletion tenant sheet page poisoned s
  | .gableCompletionTimeout tenant sheet page => Sys2Proof.Machine.execGableCompletionTimeout tenant sheet page s
  | .i3cDynamicAddress addr => Sys2Proof.Machine.execI3cDynamicAddress addr s
  | .registerWrite space addr value nbytes => Sys2Proof.Machine.execRegisterWrite space addr value nbytes s
  | .clearingRead space addr nbytes => Sys2Proof.Machine.execClearingRead space addr nbytes s
  | .runtimeSettingWrite addr value => Sys2Proof.Machine.execRuntimeSettingWrite addr value s
  | .calenderInterval est awake withhold fields drawn => Sys2Proof.Machine.execCalenderInterval est awake withhold fields drawn s
  | .calenderCalibration measured est => Sys2Proof.Machine.execCalenderCalibration measured est s
  | .preloadDone step => Sys2Proof.Machine.execPreloadDone step s
  | .fastLoopEnd step => Sys2Proof.Machine.execFastLoopEnd step s
  | .thermalSample temps => Sys2Proof.Machine.execThermalSample temps s
  | .testDeferTimeout => Sys2Proof.Machine.execTestDeferTimeout s
  | .packetArrival src upsets => Sys2Proof.Machine.execPacketArrival src upsets s
  | .write tenant stream upsets => Sys2Proof.Machine.execWrite tenant stream upsets s
  | .read tenant stream upsets => Sys2Proof.Machine.execRead tenant stream upsets s
  | .readData index => Sys2Proof.Machine.execReadData index s
  | .fence tenant stream => Sys2Proof.Machine.execFence tenant stream s
  | .fenceTargetReached tenant stream => Sys2Proof.Machine.execFenceTargetReached tenant stream s
  | .run tenant stream => Sys2Proof.Machine.execRun tenant stream s
  | .runKill tenant stream => Sys2Proof.Machine.execRunKill tenant stream s
  | .tile tenant stream => Sys2Proof.Machine.execTile tenant stream s
  | .alloc tenant stream => Sys2Proof.Machine.execAlloc tenant stream s
  | .free tenant stream => Sys2Proof.Machine.execFree tenant stream s
  | .hint tenant stream => Sys2Proof.Machine.execHint tenant stream s
  | .grow tenant stream => Sys2Proof.Machine.execGrow tenant stream s
  | .streamReset src => Sys2Proof.Machine.execStreamReset src s
  | .regRead stream => Sys2Proof.Machine.execRegRead stream s
  | .regWrite stream => Sys2Proof.Machine.execRegWrite stream s
  | .nop tenant stream => Sys2Proof.Machine.execNop tenant stream s
  | .streamGapTimeout tenant stream => Sys2Proof.Machine.execStreamGapTimeout tenant stream s
  | .runLaunch tenant handle upsets => Sys2Proof.Machine.execRunLaunch tenant handle upsets s
  | .stageEnd tenant handle => Sys2Proof.Machine.execStageEnd tenant handle s
  | .runKillDone tenant handle => Sys2Proof.Machine.execRunKillDone tenant handle s
  | .watchdogTimeout at_ ordinal => Sys2Proof.Machine.execWatchdogTimeout at_ ordinal s
  | .operandArrival at_ port upsets => Sys2Proof.Machine.execOperandArrival at_ port upsets s
  | .itemDispatch field upsets => Sys2Proof.Machine.execItemDispatch field upsets s
  | .itemComplete at_ ordinal => Sys2Proof.Machine.execItemComplete at_ ordinal s
  | .ridgeToken index => Sys2Proof.Machine.execRidgeToken index s
  | .queueHeldResume tenant => Sys2Proof.Machine.execQueueHeldResume tenant s
  | .sizingTile at_ ordinal => Sys2Proof.Machine.execSizingTile at_ ordinal s
  | .treeDescriptorArrival at_ upsets => Sys2Proof.Machine.execTreeDescriptorArrival at_ upsets s
  | .yealmTraversal at_ ordinal upsets => Sys2Proof.Machine.execYealmTraversal at_ ordinal upsets s
  | .yealmComplete at_ ordinal => Sys2Proof.Machine.execYealmComplete at_ ordinal s
  | .build at_ ordinal upsets => Sys2Proof.Machine.execBuild at_ ordinal upsets s
  | .refit at_ ordinal upsets => Sys2Proof.Machine.execRefit at_ ordinal upsets s
  | .check at_ ordinal upsets => Sys2Proof.Machine.execCheck at_ ordinal upsets s
  | .mouldJobToBack field => Sys2Proof.Machine.execMouldJobToBack field s
  | .mouldTileOut at_ => Sys2Proof.Machine.execMouldTileOut at_ s
  | .yealmWindowAlloc at_ upsets => Sys2Proof.Machine.execYealmWindowAlloc at_ upsets s
  | .yealmWindowSort at_ => Sys2Proof.Machine.execYealmWindowSort at_ s
  | .yealmEmit at_ => Sys2Proof.Machine.execYealmEmit at_ s
  | .cohortClose at_ => Sys2Proof.Machine.execCohortClose at_ s
  | .hitTileIngest at_ ordinal => Sys2Proof.Machine.execHitTileIngest at_ ordinal s
  | .batchEmit at_ upsets => Sys2Proof.Machine.execBatchEmit at_ upsets s
  | .courseHeaderWrite at_ upsets => Sys2Proof.Machine.execCourseHeaderWrite at_ upsets s
  | .replay at_ upsets => Sys2Proof.Machine.execReplay at_ upsets s
  | .int at_ ins op => Sys2Proof.Machine.execInt at_ ins op s
  | .fvec at_ ins op fmt => Sys2Proof.Machine.execFvec at_ ins op fmt s
  | .cvt at_ ins => Sys2Proof.Machine.execCvt at_ ins s
  | .mxConvertSheaf at_ ins => Sys2Proof.Machine.execMxConvertSheaf at_ ins s
  | .bra at_ ins => Sys2Proof.Machine.execBra at_ ins s
  | .jmpr at_ ins => Sys2Proof.Machine.execJmpr at_ ins s
  | .exit at_ ins => Sys2Proof.Machine.execExit at_ ins s
  | .barItem at_ ins => Sys2Proof.Machine.execBarItem at_ ins s
  | .trap at_ ins => Sys2Proof.Machine.execTrap at_ ins s
  | .lathNop at_ ins => Sys2Proof.Machine.execLathNop at_ ins s
  | .ldG at_ ins size upsets => Sys2Proof.Machine.execLdG at_ ins size upsets s
  | .ldGNc at_ ins size upsets => Sys2Proof.Machine.execLdGNc at_ ins size upsets s
  | .stG at_ ins size upsets => Sys2Proof.Machine.execStG at_ ins size upsets s
  | .ldp at_ ins size => Sys2Proof.Machine.execLdp at_ ins size s
  | .ldL at_ ins size => Sys2Proof.Machine.execLdL at_ ins size s
  | .stL at_ ins size => Sys2Proof.Machine.execStL at_ ins size s
  | .atom groups global upsets => Sys2Proof.Machine.execAtom groups global upsets s
  | .memoryAccessDone core id => Sys2Proof.Machine.execMemoryAccessDone core id s
  | .mmaT at_ ins => Sys2Proof.Machine.execMmaT at_ ins s
  | .mmaSheaf at_ ins => Sys2Proof.Machine.execMmaSheaf at_ ins s
  | .mmaComplete core => Sys2Proof.Machine.execMmaComplete core s
  | .tin at_ ins => Sys2Proof.Machine.execTin at_ ins s
  | .emit at_ ins => Sys2Proof.Machine.execEmit at_ ins s
  | .fenceC at_ ins => Sys2Proof.Machine.execFenceC at_ ins s
  | .fenceF at_ ins => Sys2Proof.Machine.execFenceF at_ ins s
  | .cinv at_ ins => Sys2Proof.Machine.execCinv at_ ins s
  | .rdsr at_ ins sr => Sys2Proof.Machine.execRdsr at_ ins sr s
  | .divergedMatrix at_ => Sys2Proof.Machine.execDivergedMatrix at_ s
  | .vatLoadTile at_ ordinal upsets => Sys2Proof.Machine.execVatLoadTile at_ ordinal upsets s
  | .vatStoreTile at_ ordinal upsets => Sys2Proof.Machine.execVatStoreTile at_ ordinal upsets s
  | .vatHintRecord at_ ordinal => Sys2Proof.Machine.execVatHintRecord at_ ordinal s
  | .translationMiss field tenant addr => Sys2Proof.Machine.execTranslationMiss field tenant addr s
  | .firstTouchFill tenant addr => Sys2Proof.Machine.execFirstTouchFill tenant addr s
  | .demandPageIn tenant addr need => Sys2Proof.Machine.execDemandPageIn tenant addr need s
  | .pageArrival tenant sheet => Sys2Proof.Machine.execPageArrival tenant sheet s
  | .evictionCancel tenant sheet => Sys2Proof.Machine.execEvictionCancel tenant sheet s
  | .prefetchServe => Sys2Proof.Machine.execPrefetchServe s
  | .eaveRead eave index errs sticks mates => Sys2Proof.Machine.execEaveRead eave index errs sticks mates s
  | .eaveStore eave addr bytes errs => Sys2Proof.Machine.execEaveStore eave addr bytes errs s
  | .parityDifference eave => Sys2Proof.Machine.execParityDifference eave s
  | .stackResponseTimeout eave index mates => Sys2Proof.Machine.execStackResponseTimeout eave index mates s
  | .stackTemperatureRead eave temp => Sys2Proof.Machine.execStackTemperatureRead eave temp s
  | .selfRefreshEntry eave => Sys2Proof.Machine.execSelfRefreshEntry eave s
  | .scrub eave hits => Sys2Proof.Machine.execScrub eave hits s
  | .retrainingWindowOpen eave pc => Sys2Proof.Machine.execRetrainingWindowOpen eave pc s
  | .retrainingWindowEnd eave passed => Sys2Proof.Machine.execRetrainingWindowEnd eave passed s
  | .zoneCopyDone row col hits passed => Sys2Proof.Machine.execZoneCopyDone row col hits passed s
  | .rowRemapDone eave pc seg hits passed => Sys2Proof.Machine.execRowRemapDone eave pc seg hits passed s
  | .pageRetire eave passed => Sys2Proof.Machine.execPageRetire eave passed s
  | .maintenanceWindow eave passed temp => Sys2Proof.Machine.execMaintenanceWindow eave passed temp s
  | .binInputTile at_ ordinal upsets => Sys2Proof.Machine.execBinInputTile at_ ordinal upsets s
  | .binScatter at_ upsets => Sys2Proof.Machine.execBinScatter at_ upsets s
  | .growTimeout at_ => Sys2Proof.Machine.execGrowTimeout at_ s
  | .fragmentStore at_ ordinal upsets => Sys2Proof.Machine.execFragmentStore at_ ordinal upsets s
  | .blendEndTile at_ ordinal upsets => Sys2Proof.Machine.execBlendEndTile at_ ordinal upsets s
  | .upstreamGradientTile at_ ordinal upsets => Sys2Proof.Machine.execUpstreamGradientTile at_ ordinal upsets s
  | .blendFinish at_ upsets => Sys2Proof.Machine.execBlendFinish at_ upsets s
  | .pack at_ ordinal => Sys2Proof.Machine.execPack at_ ordinal s
  | .unpack at_ ordinal => Sys2Proof.Machine.execUnpack at_ ordinal s
  | .screenGroupStart group => Sys2Proof.Machine.execScreenGroupStart group s
  | .screenGroupDone group spares found => Sys2Proof.Machine.execScreenGroupDone group spares found s
  | .rotationSlot => Sys2Proof.Machine.execRotationSlot s
  | .rotationTestStart => Sys2Proof.Machine.execRotationTestStart s
  | .rotationTestDone found => Sys2Proof.Machine.execRotationTestDone found s
  | .unit key => Sys2Proof.Machine.execUnit key s
  | .eave key => Sys2Proof.Machine.execEave key s
  | .block key => Sys2Proof.Machine.execBlock key s
  | .blockD key => Sys2Proof.Machine.execBlockD key s
  | .rotPause key => Sys2Proof.Machine.execRotPause key s
  | .rotResume key => Sys2Proof.Machine.execRotResume key s
  | .telemetrySample => Sys2Proof.Machine.execTelemetrySample s
  | .telemetryConfigWrite addr value => Sys2Proof.Machine.execTelemetryConfigWrite addr value s
  | .refresh eave => Sys2Proof.Machine.execRefresh eave s
  | .writeQueueDrain eave => Sys2Proof.Machine.execWriteQueueDrain eave s
  | .farSlotWriteDone tenant sheet => Sys2Proof.Machine.execFarSlotWriteDone tenant sheet s
  | .tap1500Access eave => Sys2Proof.Machine.execTap1500Access eave s

end Sys2Proof.Machine
end

