-- ==== Sys2Proof/Machine/Tick.lean ====
section
/-! DEFINITION. What a CK_MGMT cycle brings whatever is commanded: the clock, the refreshes that fall due, the translations of victims that are removed, and the counters of cycles (R81, R291, R294, R342, R371, R400, R427, R428). -/
namespace Sys2Proof.Machine

/-- An Eave's cycle: 10 CK_MESH cycles (R81). Self-refresh needs no refresh command (R429). -/
def Eave.tick (k rate now : Nat) (e : Eave) : Eave :=
  if e.inService && !e.selfRefresh then { e with owed := e.owed + Config.refreshDue k rate now } else e

/-- The Eaves under the throttle of R428 count 10 CK_MESH cycles each. -/
def Block.countThrottle (b : Block) : Block :=
  ((List.range 24).filter (fun k => b.throttled k)).foldl (fun (x : Block) k => x.bump (Map.eavBase k + 0x020) 10) b

/-- 12 CK_CORE cycles in which at least one run waits (R371). -/
def Block.countWait (b : Block) : Block := if b.runs.any (fun r => r.waitQ) then b.bump Map.rdgLaunchWait 12 else b

/-- 12 CK_CORE cycles of a YEALM station that waits for ray entries (R294), or for the token of its next yealm (R291). -/
def Block.countYealm (b : Block) (s : Station) : Block :=
  match s.body with
  | .yealm y =>
    let b1 := if y.asked.isSome then b.bump (Map.yeaFullCnt s.homeField) 12 else b
    match y.next (yealmPar s.params) with
    | some (c, w) => if y.hasToken c w then b1 else b1.bump (Map.yeaTokenWait s.homeField) 12
    | none => b1
  | _ => b

/-- The stations at work of the runs that have not been killed count. -/
def Block.countStations (b : Block) : Block :=
  let atWork (r : Run) (s : Station) : Bool := decide (r.phase = .active s.entry.stage) && !s.finished
  (b.runs.filter (fun r => r.killed.isNone)).foldl (fun (x : Block) r => (r.stations.filter (atWork r)).foldl (fun (y : Block) s => y.countYealm s) x) b

/-- Sheafs of a core with a thread that waits at a sheaf-wide instruction (R342). -/
def LCore.sheafsWaiting (k : LCore) : Nat :=
  sumNat (k.items.map (fun e => e.2.sheafs.countP (fun h => h.threads.any (fun t => decide (t.state = .atSheaf)))))

/-- 12 CK_CORE cycles of a core: its waiting sheafs, and its busy cycles in units of 1,024 (table "RDG_CORE registers"). -/
def Block.countCore (b : Block) (c : Nat) (k : LCore) : Block :=
  let w := k.sheafsWaiting
  let b1 := if w = 0 then b else b.bump (Map.lthConvWait (c / 72)) (12 * w)
  if k.items.isEmpty then b1
  else
    let n := k.busy + 12
    let b2 := b1.modCore c (fun x => { x with busy := n % 1024 })
    if n < 1024 then b2 else b2.bump (Map.rdgCoreBusy c) 1

def Block.countCores (b : Block) : Block := b.cores.foldl (fun (x : Block) e => x.countCore e.1 e.2) b

/-- One CK_MGMT cycle, while the block has power or its stop ramp runs. -/
def Block.tick (b : Block) : Block :=
  if b.pins.pwrGood || b.cal.ramp.isSome then
    let b1 := b.countThrottle.countWait.countStations.countCores
    ({ b1 with now := b1.now + 1, eaves := b1.eaves.mapIdx (fun k e => e.tick k (b.refreshRate k) b.now) } : Block).removeVictims.canonMem
  else b

end Sys2Proof.Machine
end

