-- ==== Sys2Proof/Safety.lean ====
section
/-! DEFINITION. What the statements count as a sound state and a completed command. -/
namespace Sys2Proof.Machine

/-- The invariant that every step keeps: memory is in its canonical form, so that equal memories are equal data. -/
def State.memSound (s : State) : Prop := s.b.mem.wf = true

/-- A command completes: it answers a next state, the rest of the queue as it was. -/
def completes (c : Instr) (s : State) (post : Block → Prop) : Prop :=
  ∃ t, exec c s = .next t ∧ t.pending = s.pending ∧ post t.b

/-- One byte of memory as the model reads it (R386). -/
def Block.byteAt (b : Block) (a : Nat) : Byte := b.mem.read a

/-- An access with errors does what it does without them on the block that has met them, where it does anything at all (R388, R415). -/
def meetsErrors (c : List Upset → Instr) (s : State) (t : Nat) : Prop :=
  s.memSound → exec (c []) s ≠ .next s → ∀ u, exec (c u) s = exec (c []) { s with b := s.b.applyUpsets t 0 u }

/-- The station that a reference names, killed run or not. -/
def Block.stAt (b : Block) (a : StRef) : Option Station := (b.findRun (stRun a)).bind (fun r => r.stations[a.station]?)

/-- Every byte of memory reads as it did in `old`. -/
def Block.memKept (b old : Block) : Prop := ∀ a, b.byteAt a = old.byteAt a

/-- The sheet of an address is not being evicted, so that an access of it starts nothing else (R406). -/
def Block.stays (b : Block) (t va : Nat) : Prop := ∀ x, b.vat.sheet t (va / sheetBytes) = some x → x.evict = none

/-- No page-in waits for a slot (R403). -/
def Block.noneWaits (b : Block) : Prop := ∀ x ∈ b.vat.sheets, x.waits = false

/-- A demand page-in that has just been asked for. -/
def askedPage (first now : Nat) (needs : List Need) : Paging :=
  { dst := none, first := first, out := [], got := [], arrived := [], needs := needs, prefetch := false, since := now }

/-- No FENCE that a stream has admitted names a seat's memory stream. -/
def Block.seatUnfenced (b : Block) (n : Nat) : Prop :=
  ∀ t i, ∀ p ∈ (b.strm t i).adm, p.op = opFence → ¬ (p.fenceSeat = true ∧ p.fenceTarget = n)

/-- No FENCE that a stream of the tenant has admitted names a stream. -/
def Block.unfenced (b : Block) (t strm : Nat) : Prop :=
  ∀ i, ∀ p ∈ (b.strm t i).adm, p.op = opFence → ¬ (p.fenceSeat = false ∧ p.fenceTarget = strm)

/-- The edge of a run at an index. -/
def Block.edgeAt (b : Block) (r : RunRef) (j : Nat) : Option Edge := (b.findRun r).bind (fun x => x.edges[j]?)

/-- A tile can enter the ring of an edge now: room, not HELD, and Gutter for it where it needs some (R183, R372, R381). -/
def Block.canPush (b : Block) (r : RunRef) (j : Nat) (e : Edge) : Prop :=
  b.edgeAt r j = some e ∧ e.room = true ∧ b.isHeld r.tenant (.edge r j) = false ∧ needsPage e.tiles.length (e.tiles.length + 1) ≤ b.gutterFree r.tenant

/-- The edge with a tile added to its ring, under the next tile number (R182). -/
def Edge.plus (e : Edge) (t : Tile) : Edge :=
  { e with tiles := e.tiles ++ [{ t with no := e.emitted, fmt := e.entry.fmt }], emitted := e.emitted + 1, closed := e.closed || t.last }

/-- A station's dispatched items with the work of one done. -/
def workDone (l : List Active) (n : Nat) : List Active := l.map (fun y => if y.ordinal = n then { y with done := true, freed := true } else y)

/-- A run has been killed with a cause, a station and a detail (R189, R190). -/
def Block.killedWith (b : Block) (r : RunRef) (cause station : Nat) (detail : Word) : Prop :=
  ∃ x k, b.findRun r = some x ∧ x.killed = some k ∧ k.cause = cause ∧ k.station = station ∧ k.detail = detail

/-- A thread of a sheaf on a Lath core, by lane. -/
def Block.threadAt (b : Block) (a : LathAt) (lane : Nat) : Option Thread :=
  (((b.core a.core).item a.slot).bind (fun it => it.sheafs[a.sheaf]?)).bind (fun sh => sh.threads[lane]?)

/-- A group has issued an instruction: its acting lanes have done their part, and all its lanes stand behind it (R336, R339). -/
def Block.laneDo (b old : Block) (a : LathAt) (g : LGroup) (i : LInstr) (f : Thread → Thread) : Prop :=
  ∀ k, b.threadAt a k = (old.threadAt a k).map (fun t => if k ∈ g.act then { f t with pc := g.pc + i.bytes } else if k ∈ g.lanes then { t with pc := g.pc + i.bytes } else t)

/-- One issue and its lanes have been counted in the field of a core. -/
def Block.issued (b old : Block) (core n : Nat) : Prop :=
  b.ctr (Map.lthIssueCnt (core / 72)) = old.ctr (Map.lthIssueCnt (core / 72)) + 1#32 ∧ b.ctr (Map.lthLaneCnt (core / 72)) = old.ctr (Map.lthLaneCnt (core / 72)) + BitVec.ofNat 32 n

/-- Every thread outside a sheaf is as it was. -/
def Block.lathKept (b old : Block) (a : LathAt) : Prop := ∀ x k, x ≠ a → b.threadAt x k = old.threadAt x k

/-- The block as a group's instruction finds it, its issue counted. -/
def Block.counted (b : Block) (a : LathAt) (g : LGroup) : Block := (b.bump (Map.lthIssueCnt (a.core / 72)) 1).bump (Map.lthLaneCnt (a.core / 72)) g.lanes.length

/-- The bytes of a range hold a list, and every other byte reads as it did. -/
def Block.wrote (b old : Block) (at_ : Nat) (l : List Byte) : Prop := ∀ q, b.byteAt q = if at_ ≤ q ∧ q < at_ + l.length then l.getD (q - at_) 0#8 else old.byteAt q

/-- Counters outside a list are as they were. -/
def Block.ctrKept (b old : Block) (l : List Nat) : Prop := ∀ a, a ∉ l → b.ctr a = old.ctr a

/-- Error registers outside a list are as they were. -/
def Block.errKept (b old : Block) (l : List Nat) : Prop := ∀ a, a ∉ l → b.err a = old.err a

/-- Every Eave but one is as it was. -/
def Block.eavesBut (b old : Block) (k : Nat) : Prop := ∀ j, j ≠ k → b.eave j = old.eave j

end Sys2Proof.Machine
end

