-- ==== Sys2Proof/Certificates/Slice0/Obligations.lean ====
section
/-! DEFINITION. The statements for the provers, from the numbered rules of spec/. -/
open Sys2Proof Sys2Proof.Machine

/-- For every command c and state s, step of s with c put at the front of its queue is exec of c on s. (95_what_each_step_holds) -/
def Obligations.StepRunsFrontCommand : Prop :=
  ∀ (c : Instr) (s : State), step { s with pending := c :: s.pending } = exec c s

/-- Every step answers a next state, never a fault and never a refusal, and the queue after it is the queue before it without its front command. The queue is the model's own (log entry 1). (R506, 95_what_each_step_holds) -/
def Obligations.StepNeverStops : Prop :=
  ∀ s : State, ∃ t, step s = .next t ∧ t.pending = s.pending.tail

/-- A command's effect on the block is the same whatever commands wait behind it, and they wait on: exec on a state with another queue answers the same block. (95_what_each_step_holds) -/
def Obligations.ExecKeepsQueue : Prop :=
  ∀ (c : Instr) (s : State) (q : List Instr), ∃ t, exec c s = .next t ∧ exec c { s with pending := q } = .next { t with pending := q }

/-- The memory of State.reset lists nothing and is in canonical form, and no command waits. What an unlisted byte reads as is the model's choice (log entry 4). (R14, R386) -/
def Obligations.MemoryCanonicalAtReset : Prop :=
  State.reset.memSound ∧ State.reset.pending = [] ∧ ∀ a, State.reset.b.byteAt a = unlisted

/-- From every state whose memory is in canonical form, whatever command stands at the front or none, the state after the step has its memory in canonical form; and two canonical memories that read the same byte at every address are the same data. The canonical form is the model's own. (R386, R119, R410) -/
def Obligations.MemoryCanonicalKept : Prop :=
  (∀ s t : State, s.memSound → step s = .next t → t.memSound) ∧
  (∀ s t : State, s.memSound → t.memSound → (∀ a, t.b.byteAt a = s.b.byteAt a) → t.b.mem = s.b.mem)

/-- After reset the block is in state RESET, phase 0, with no image applied; the Calender holds the slew limit of 500 mA/µs, the power cap of 900 W and the stop ramp of 400,000 CK_MGMT cycles; no tenant is open, no run is open, every seat link is DOWN, no host port is open, no Eave is in service, and FAULT_N, THERMTRIP_N and MG_ALERT_N are high. The level of RST_N and FL_RELEASE_N before power is the model's choice (log entry 3). (R111, R113, R14, R509) -/
def Obligations.ResetState : Prop :=
  let b := State.reset.b
  b.start.state = .reset ∧ b.start.phase = 0 ∧ b.start.img = none ∧
  b.cal.slew = 500 ∧ b.cal.pwrCap = 900 ∧ b.cal.stopRamp = 400000 ∧ b.cal.ramp = none ∧
  (∀ t, (b.tenant t).opened = false) ∧ b.runs = [] ∧ (∀ n, (b.seat n).state = .down) ∧ (∀ p, b.hostOpen p = false) ∧
  (∀ k, (b.eave k).inService = false) ∧ b.pins.faultN = true ∧ b.pins.thermTripN = true ∧ b.pins.mgAlertN = true

/-- With no command waiting, a step in which power is good or a stop ramp runs adds one to the count of CK_MGMT cycles; the start state, the streams and the runs stay as they are. With no eviction in progress and no page-in waiting for a slot, whose victims such a cycle removes, it changes nothing else but the counters, the Eaves and the cores' counts of busy cycles, and every byte of memory reads as before; without power and without a ramp it changes nothing. That the idle step is a cycle is the model's choice (log entry 2). (R81, R165, R400, R406) -/
def Obligations.IdleStepIsACycle : Prop :=
  ∀ s : State, s.pending = [] →
    ((s.b.pins.pwrGood = true ∨ s.b.cal.ramp.isSome = true) → ∃ t, step s = .next t ∧ t.pending = [] ∧ t.b.now = s.b.now + 1 ∧
      t.b.start = s.b.start ∧ t.b.streams = s.b.streams ∧ t.b.runs = s.b.runs ∧
      ((∀ x ∈ s.b.vat.sheets, x.evict = none ∧ x.waits = false) →
        t.b = { s.b with now := t.b.now, ctrs := t.b.ctrs, eaves := t.b.eaves, cores := t.b.cores, mem := t.b.mem } ∧ t.b.memKept s.b ∧
        ∀ c, t.b.core c = { s.b.core c with busy := (t.b.core c).busy })) ∧
    (s.b.pins.pwrGood = false → s.b.cal.ramp = none → step s = .next s)

/-- A rise of PWR_GOOD samples MG_MODE and MG_ADDR, answers at the address 0x60 + MG_ADDR, clears Screen's records and, with RST_N high and no stop ramp running, begins the start sequence at phase 1; with RST_N low it begins no start. A fall of PWR_GOOD leaves the block in RESET with the work stopped, clears FATAL_CAUSE, FATAL_TIME, the trip bit of CAL_EVENTS and the repair logs, and FAULT_N is high unless ROOT failed to lock. A rise lets FAULT_N go high after such a failure. Memory, the waiting commands and, at a fall, Screen's records stay as they were. (R70, R74, R77, R82, R490, R507, R125, R440) -/
def Obligations.PowerGoodEdges : Prop :=
  (∀ (s : State) (mode : Bool) (addr : BitVec 3), s.b.pins.pwrGood = false →
    completes (.pwrGoodRise mode addr) s (fun b => b.now = 0 ∧ b.pins.pwrGood = true ∧ b.pins.mgMode = mode ∧ b.pins.mgAddr = addr ∧
      b.pins.dynAddr = none ∧ b.pins.mgTarget = 0x60#7 + addr.setWidth 7 ∧ (s.b.start.lockFailed = true → b.pins.faultN = true) ∧ b.screen.records = [] ∧ b.memKept s.b ∧
      (s.b.pins.rstN = true → s.b.cal.ramp = none → b.start.state = .starting ∧ b.start.phase = 1 ∧ b.start.seqAt = 0) ∧
      (s.b.pins.rstN = false → b.start = { s.b.start with lockFailed := false }))) ∧
  (∀ s : State, s.b.pins.pwrGood = true →
    completes .pwrGoodFall s (fun b => b.pins.pwrGood = false ∧ b.pins.faultN = !s.b.start.lockFailed ∧ b.start.state = .reset ∧
      b.tel.fatalCause = 0#32 ∧ b.tel.fatalTime = 0#32 ∧ wbit (b.err Map.calEvents) 1 = false ∧ b.eaves.all (fun e => e.log.isEmpty) = true ∧
      b.screen.records = s.b.screen.records ∧ b.memKept s.b ∧
      (s.b.start.state ≠ .reset → b.runs = [] ∧ b.streams = [] ∧ b.cal.ramp.isSome = true)))

/-- A fall of RST_N in any state but RESET stops all work, starts the stop ramp unless one runs, and leaves RESET, where the flash pins are released while FL_RELEASE_N is low. A rise of RST_N in RESET with PWR_GOOD high begins the start sequence at phase 1, and during a ramp it waits. At the ramp's end the governed draw is the post-stop draw, ballast is off and CAL_EVENTS.stop is set; a waiting rise then begins the start sequence, and STOPPED otherwise becomes RESET. FATAL_CAUSE, FATAL_TIME and memory stay. (R69, R76, R77, R82, R96, R111, R125) -/
def Obligations.ResetPinEdges : Prop :=
  (∀ s : State, s.b.pins.rstN = true → s.b.start.state ≠ .reset →
    completes .rstNFall s (fun b => b.pins = { s.b.pins with rstN := false, faultN := !s.b.start.lockFailed, flTri := flashReleased .reset s.b.pins.flReleaseN } ∧ b.start.state = .reset ∧ b.start.phase = 0 ∧
      b.start.rstPending = false ∧ b.runs = [] ∧ b.reads = [] ∧ b.streams = [] ∧ b.inq = [] ∧ b.cores = [] ∧ b.cal.ramp.isSome = true ∧
      (∀ r, s.b.cal.ramp = some r → b.cal = s.b.cal) ∧ b.tel = s.b.tel ∧ b.screen.records = s.b.screen.records ∧ b.memKept s.b)) ∧
  (∀ s : State, s.b.pins.rstN = false → s.b.pins.pwrGood = true → s.b.start.state = .reset →
    completes .rstNRise s (fun b => b.pins.rstN = true ∧ b.tel.fatalCause = s.b.tel.fatalCause ∧ b.tel.fatalTime = s.b.tel.fatalTime ∧ b.memKept s.b ∧
      (s.b.cal.ramp = none → b.start.state = .starting ∧ b.start.phase = 1 ∧ b.start.seqAt = s.b.now) ∧
      (s.b.cal.ramp.isSome = true → b = { s.b with pins := { s.b.pins with rstN := true, faultN := s.b.pins.faultN || s.b.start.lockFailed }, start := { s.b.start with lockFailed := false, rstPending := true }, mem := b.mem }))) ∧
  (∀ (s : State) (r : Ramp), s.b.cal.ramp = some r → r.t0 + r.cycles ≤ s.b.now →
    completes .stopRampEnd s (fun b => b.cal.ramp = none ∧ b.cal.gPrev = r.post ∧ b.cal.ballast = 0 ∧ b.memKept s.b ∧
      (s.b.start.rstPending = true → s.b.pins.pwrGood = true → b.start.state = .starting ∧ b.start.phase = 1) ∧
      (s.b.start.rstPending = false → wbit (b.err Map.calEvents) 2 = true ∧
        b.start.state = (if s.b.start.state = .stopped then .reset else s.b.start.state))))

/-- In phase 2 a lock with two equal Watermark reads whose key hash is neither all zeros nor all ones begins phase 3 with image A's reads; with reads that differ, or a key hash of all zeros or all ones, the block enters QUARANTINE with cause WATERMARK and reads no flash. When 200,000 CK_MGMT cycles have passed in phase 2 the start stops, FAULT_N goes low and reset is held. A loss of lock outside RESET is block-fatal with code 3: the block is STOPPED, FAULT_N is low, the Calender runs on REFCLK, and the first cause is kept. (R82, R84, R112, R114, R507) -/
def Obligations.RootLock : Prop :=
  (∀ (s : State) (r : List Word), s.b.start.state = .starting → s.b.start.phase = 2 → r.length = 8 →
    (sliceBytes (wordsBytes r) 16 16).all (fun x => x = 0#8) = false → (sliceBytes (wordsBytes r) 16 16).all (fun x => x = 0xFF#8) = false →
    completes (.rootLock r r) s (fun b => b.start.state = .starting ∧ b.start.phase = 3 ∧ b.start.locked = true ∧ b.start.wmk = r ∧
      b.start.wmkAgree = true ∧ b.start.wmkKey = true ∧ b.start.reading = some false ∧ b.start.buf = [] ∧ b.start.flWait = s.b.start.flHeld ∧
      b = { s.b with start := b.start, mem := b.mem } ∧ b.memKept s.b)) ∧
  (∀ (s : State) (r q : List Word), s.b.start.state = .starting → s.b.start.phase = 2 → r.length = 8 → q.length = 8 → r ≠ q →
    completes (.rootLock r q) s (fun b => b.start.state = .quarantine ∧ b.start.qCause = 2 ∧ b.start.wmkAgree = false ∧ b.start.reading = none ∧
      b.pins.faultN = false ∧ b.memKept s.b)) ∧
  (∀ (s : State) (r : List Word), s.b.start.state = .starting → s.b.start.phase = 2 → r.length = 8 →
    ((sliceBytes (wordsBytes r) 16 16).all (fun x => x = 0#8) = true ∨ (sliceBytes (wordsBytes r) 16 16).all (fun x => x = 0xFF#8) = true) →
    completes (.rootLock r r) s (fun b => b.start.state = .quarantine ∧ b.start.qCause = 2 ∧ b.start.wmkKey = false ∧ b.start.reading = none ∧
      b.pins.faultN = false ∧ b.memKept s.b)) ∧
  (∀ s : State, s.b.start.state = .starting → s.b.start.phase = 2 → s.b.start.seqAt + 200000 ≤ s.b.now →
    completes .rootLockTimeout s (fun b => b = { s.b with start := { s.b.start with state := .reset, phase := 0, lockFailed := true }, pins := { s.b.pins with faultN := false, flTri := flashReleased .reset s.b.pins.flReleaseN }, mem := b.mem } ∧ b.memKept s.b)) ∧
  (∀ s : State, s.b.start.locked = true → s.b.start.state ≠ .reset →
    completes .rootLockLoss s (fun b => b.start.state = .stopped ∧ b.pins.faultN = false ∧ b.cal.onRefclk = true ∧ b.start.locked = false ∧
      b.cal.ramp.isSome = true ∧ b.runs = [] ∧ b.memKept s.b ∧
      (wbit s.b.tel.fatalCause 16 = false → wfield b.tel.fatalCause 0 8 = 3 ∧ wbit b.tel.fatalCause 16 = true) ∧
      (wbit s.b.tel.fatalCause 16 = true → s.b.tel.fatalAt ≠ s.b.now → b.tel.fatalCause = s.b.tel.fatalCause ∧ b.tel.fatalTime = s.b.tel.fatalTime)))

/-- A read that is not the image's last is kept, and the flash's state is all that changes. Once the image's last read is in (log entry 113 for a header without a length), an image that passes every check of R129 is applied with its result recorded as passed; one that fails records its failing check: image A is then followed by image B's reads, image B by QUARANTINE with cause IMAGE and FAULT_N low. A read that has taken 40,000,000 CK_MGMT cycles fails its image with result 2, and in octal DDR an image that has used 18,980,000 cycles fails with result 7, with the same sequel; in single-bit SPI no share applies. While a start waits for FL_RELEASE_N nothing of this happens. A level of FL_RELEASE_N is taken with the flash pins released where the state honours it, and a high level lets a start that waits go on with fresh times. (R67, R69, R115, R123, R124, R129, R135, R138) -/
def Obligations.FlashReads : Prop :=
  (∀ (s : State) (spi second : Bool) (l : List Byte), s.b.start.reading = some second → s.b.start.flWait = false →
    (s.b.start.buf ++ sliceBytes l 0 4096).length < readLength (s.b.start.buf ++ sliceBytes l 0 4096) →
    completes (.flashReadDone spi l) s (fun b => b.start = { s.b.start with buf := s.b.start.buf ++ sliceBytes l 0 4096, readAt := s.b.now, spi1s := s.b.start.spi1s || spi, spiNow := s.b.start.spiNow || spi } ∧
      b = { s.b with start := b.start, mem := b.mem } ∧ b.memKept s.b)) ∧
  (∀ (s : State) (spi second : Bool) (l img : List Byte) (code : Nat) (off : Option Nat), s.b.start.reading = some second → s.b.start.flWait = false →
    readLength (s.b.start.buf ++ sliceBytes l 0 4096) ≤ (s.b.start.buf ++ sliceBytes l 0 4096).length →
    img = (s.b.start.buf ++ sliceBytes l 0 4096).take (readLength (s.b.start.buf ++ sliceBytes l 0 4096)) → imgCheck img s.b.keyHash = (code, off) →
    completes (.flashReadDone spi l) s (fun b => b.memKept s.b ∧
      (code = 1 → b.start.img = some (imgFields img) ∧ b.start.reading = none ∧ b.start.imageB = second ∧ (if second then b.start.bResult else b.start.aResult) = 1 ∧ b = { s.b with start := b.start, mem := b.mem }) ∧
      (code ≠ 1 → second = false → b.start.aResult = code ∧ b.start.reading = some true ∧ b.start.buf = [] ∧ b.start.imgAt = s.b.now ∧ b = { s.b with start := b.start, mem := b.mem }) ∧
      (code ≠ 1 → second = true → b.start.bResult = code ∧ b.start.reading = none ∧ b.start.state = .quarantine ∧ b.start.qCause = 1 ∧ b.pins.faultN = false))) ∧
  (∀ s : State, s.b.start.flWait = false → s.b.start.readAt + 40000000 ≤ s.b.now →
    (s.b.start.reading = some false → completes .flashReadTimeout s (fun b => b.start.aResult = 2 ∧ b.start.reading = some true ∧ b.start.buf = [] ∧ b.start.imgAt = s.b.now ∧
      b.start.imgErr = s.b.start.imgErr ∧ b = { s.b with start := b.start, mem := b.mem } ∧ b.memKept s.b)) ∧
    (s.b.start.reading = some true → completes .flashReadTimeout s (fun b => b.start.bResult = 2 ∧ b.start.reading = none ∧ b.start.state = .quarantine ∧ b.start.qCause = 1 ∧
      b.pins.faultN = false ∧ b.memKept s.b))) ∧
  (∀ s : State, s.b.start.flWait = false → s.b.start.spiNow = false → s.b.start.imgAt + 18980000 ≤ s.b.now →
    (s.b.start.reading = some false → completes (.imageShareExpiry false) s (fun b => b.start.aResult = 7 ∧ b.start.reading = some true ∧ b.start.buf = [] ∧ b.start.imgAt = s.b.now ∧
      b = { s.b with start := b.start, mem := b.mem } ∧ b.memKept s.b)) ∧
    (s.b.start.reading = some true → completes (.imageShareExpiry false) s (fun b => b.start.bResult = 7 ∧ b.start.reading = none ∧ b.start.state = .quarantine ∧ b.start.qCause = 1 ∧
      b.pins.faultN = false ∧ b.memKept s.b))) ∧
  (∀ s : State, s.b.start.flWait = false → s.b.start.reading.isSome = true →
    completes (.imageShareExpiry true) s (fun b => b = { s.b with start := { s.b.start with spiNow := true, spi1s := true }, mem := b.mem } ∧ b.memKept s.b)) ∧
  (∀ (s : State) (level : Bool),
    completes (.flReleaseNChange level) s (fun b => b.pins = { s.b.pins with flReleaseN := level, flTri := flashReleased s.b.start.state level } ∧
      b = { s.b with pins := b.pins, start := b.start, mem := b.mem } ∧ b.memKept s.b ∧
      b.start = (if s.b.start.flWait = true ∧ level = true then { s.b.start with flHeld := false, flWait := false, imgAt := s.b.now, readAt := s.b.now }
        else { s.b.start with flHeld := s.b.start.flHeld && !level })))

/-- In STARTING, START_PHASE_DONE moves phase 1 to 2; phase 3 with its image read to 4 with the Calender section applied; phase 4 with its tests ended and its fields awake to 5; phase 5 with every stack trained and the Felt fit check passed to 6 with all Felt cleared and no other byte of memory changed; phase 6 with the Gutter fit check passed to 7; phase 7 to 8; and phase 8 to OPEN, where each enabled tenant is open. A fit check that fails as phase 5 or 6 ends enters QUARANTINE with cause FIT. Memory stays but for what phase 6 clears and the stock kernels that phase 7 copies. (R112, R116, R118, R119, R120, R121, R122) -/
def Obligations.StartPhases : Prop :=
  (∀ (s : State) seats links devs, s.b.start.state = .starting → s.b.start.phase = 1 →
    completes (.startPhaseDone seats links devs) s (fun b => b = { s.b with start := { s.b.start with phase := 2, phaseAt := s.b.now }, mem := b.mem } ∧ b.memKept s.b)) ∧
  (∀ (s : State) seats links devs g, s.b.start.state = .starting → s.b.start.phase = 3 → s.b.start.reading = none → s.b.start.img = some g →
    completes (.startPhaseDone seats links devs) s (fun b => b.start = { s.b.start with phase := 4, phaseAt := s.b.now } ∧
      b.cal = { s.b.cal with slew := g.slew, stopRamp := g.stopRamp, pwrCap := g.pwrCap } ∧
      (∀ n, n < 8 → (b.seat n).present = seats.getLsbD n) ∧ (∀ p, p < 12 → (b.gable p).far = g.gabFar.getLsbD p) ∧ b.memKept s.b)) ∧
  (∀ (s : State) seats links devs g, s.b.start.state = .starting → s.b.start.phase = 4 → s.b.start.img = some g → s.b.phaseReady = true →
    completes (.startPhaseDone seats links devs) s (fun b => b.start = { s.b.start with phase := 5, phaseAt := s.b.now } ∧
      b = { s.b with start := b.start, gables := b.gables, eaves := b.eaves, mem := b.mem } ∧ b.memKept s.b)) ∧
  (∀ (s : State) seats links devs g, s.b.start.state = .starting → s.b.start.phase = 7 → s.b.start.img = some g →
    completes (.startPhaseDone seats links devs) s (fun b => b.start = { s.b.start with phase := 8, phaseAt := s.b.now } ∧
      b = { s.b with start := b.start, gables := b.gables, vat := { s.b.vat with devs := b.vat.devs }, mem := b.mem } ∧ b.memKept s.b)) ∧
  (∀ (s : State) seats links devs g, s.b.start.state = .starting → s.b.start.phase = 5 → s.b.toTrain = [] → s.b.start.img = some g → s.b.feltFits g = true →
    completes (.startPhaseDone seats links devs) s (fun b => b.start = { s.b.start with phase := 6, phaseAt := s.b.now } ∧ b.feltBad = [] ∧
      (∀ a, b.byteAt a = if regionOf a = 1 then unlisted else s.b.byteAt a))) ∧
  (∀ (s : State) seats links devs g, s.b.start.state = .starting → s.b.start.phase = 5 → s.b.toTrain = [] → s.b.start.img = some g → s.b.feltFits g = false →
    completes (.startPhaseDone seats links devs) s (fun b => b.start.state = .quarantine ∧ b.start.qCause = 3 ∧ b.pins.faultN = false ∧ b.memKept s.b)) ∧
  (∀ (s : State) seats links devs g, s.b.start.state = .starting → s.b.start.phase = 6 → s.b.start.img = some g → s.b.gutterFits g = true →
    completes (.startPhaseDone seats links devs) s (fun b => b.start = { s.b.start with phase := 7, phaseAt := s.b.now, late := true } ∧
      b.vat.tenants.length = g.tenants.length ∧ b.vat.tenants.all (fun t => !t.opened) = true ∧ b.runs = s.b.runs ∧ b.streams = s.b.streams ∧ b.pins = s.b.pins ∧
      ((∀ k ∈ g.kernels, k.code = []) → b.memKept s.b))) ∧
  (∀ (s : State) seats links devs g, s.b.start.state = .starting → s.b.start.phase = 6 → s.b.start.img = some g → s.b.gutterFits g = false →
    completes (.startPhaseDone seats links devs) s (fun b => b.start.state = .quarantine ∧ b.start.qCause = 3 ∧ b.pins.faultN = false ∧ b.memKept s.b)) ∧
  (∀ (s : State) seats links devs g, s.b.start.state = .starting → s.b.start.phase = 8 → s.b.start.img = some g →
    completes (.startPhaseDone seats links devs) s (fun b => b.start.state = .opened ∧ b.start.phase = 0 ∧
      (∀ t, t < 16 → (b.tenant t).opened = s.b.tenantOn t) ∧ b.memKept s.b))

/-- At the phase 4 budget every test group of a woken field that has not ended ends. At the phase 5 budget every stack that has not trained leaves service. At the phase 7 budget phase 8 begins with the devices that have been enumerated by then and no others, and a CAPACITY event tells tenant 0. A field whose 16 sections have closed over 8,000 CK_MGMT cycles is awake. A stack that passes training and whose identity names the image's height, density and pin rate enters service with its identity read; one that fails, or whose identity names another, leaves service with its Eave. Memory stays. (R58, R99, R100, R118, R123, R487, R510) -/
def Obligations.PhaseBudgets : Prop :=
  (∀ (s : State) links devs, ((s.b.start.state = .starting ∧ s.b.start.phase = 4) ∨ s.b.start.qTests = true) → s.b.start.phaseAt + 400000000 ≤ s.b.now →
    completes (.phaseBudgetExpiry links devs) s (fun b => b.allGroupsEnded = true ∧ b.start.qTests = false ∧ b.start.waking = none ∧ b.start.woken = s.b.start.woken ∧ b.memKept s.b)) ∧
  (∀ (s : State) links devs, s.b.start.state = .starting → s.b.start.phase = 5 → s.b.start.qTests = false → s.b.start.phaseAt + 280000000 ≤ s.b.now →
    completes (.phaseBudgetExpiry links devs) s (fun b => b.toTrain = [] ∧ (∀ k, k ∈ s.b.toTrain → b.unitOut (k / 3) 8 (k % 3) = true) ∧ b.memKept s.b)) ∧
  (∀ (s : State) links devs, s.b.start.state = .starting → s.b.start.phase = 7 → s.b.start.qTests = false → s.b.start.phaseAt + 76000000 ≤ s.b.now →
    completes (.phaseBudgetExpiry links devs) s (fun b => b.start = { s.b.start with phase := 8, phaseAt := s.b.now } ∧ b.memKept s.b ∧
      ∀ d ∈ b.vat.devs, ∃ x ∈ devs, d.port = x.port ∧ d.sheets = x.sheets ∧ d.inService = true)) ∧
  (∀ (s : State) (f t0 : Nat), s.b.start.waking = some (f, t0) → t0 + 8000 ≤ s.b.now →
    completes (.fieldWakeDone f) s (fun b => b = { s.b with start := { s.b.start with waking := none, woken := s.b.start.woken ++ [f] }, mem := b.mem } ∧ b.memKept s.b)) ∧
  (∀ (s : State) (k t0 : Nat) (ident : List Word) (g : Image), k < 24 → s.b.eaves.length = 24 → ident.length = 4 → (k, t0) ∈ s.b.start.training →
    s.b.start.img = some g → Config.stackKind ident = (g.height, g.density, g.pinRate) →
    completes (.stackTrainingDone k true ident) s (fun b => (b.eave k).inService = true ∧ (b.eave k).ident = ident ∧ (b.eave k).identValid = true ∧
      (∀ p, p < 64 → ((b.eave k).pc p).health = .good) ∧ k ∈ b.start.trained ∧ (∀ t, (k, t) ∉ b.start.training) ∧
      (∀ j, j ≠ k → b.eave j = s.b.eave j) ∧ b = { s.b with start := b.start, eaves := b.eaves, mem := b.mem } ∧ b.memKept s.b)) ∧
  (∀ (s : State) (k t0 : Nat) (passed : Bool) (ident : List Word), k < 24 → s.b.eaves.length = 24 → ident.length = 4 → (k, t0) ∈ s.b.start.training →
    (passed = false ∨ ∀ g, s.b.start.img = some g → Config.stackKind ident ≠ (g.height, g.density, g.pinRate)) →
    completes (.stackTrainingDone k passed ident) s (fun b => b.unitOut (k / 3) 8 (k % 3) = true ∧ (∀ t, (k, t) ∉ b.start.training) ∧ b.memKept s.b))

/-- START_CMD acts only with the key 0x4B4C: with another key, or in a state that does not accept the command, the block stays as it is but for last_cmd. RESTART in QUARANTINE or MAINTENANCE stops the block with a start pending and FAULT_N high. ENTER_MAINT in OPEN begins a drain, EXIT_MAINT in MAINTENANCE returns to OPEN. A drain ends in MAINTENANCE once no launched run remains, or at maint_drain, when every run still open is killed with status 0x14. The flash pins follow FL_RELEASE_N in MAINTENANCE. (R69, R137, R138, R142) -/
def Obligations.StartCommands : Prop :=
  (∀ (s : State) (key : BitVec 16), s.b.pins.pwrGood = true → key ≠ 0x4B4C#16 → ∀ c ∈ [Instr.restart key, .enterMaint key, .exitMaint key],
    completes c s (fun b => b = { s.b with start := { s.b.start with lastCmd := 3 }, mem := b.mem } ∧ b.memKept s.b)) ∧
  (∀ s : State, s.b.pins.pwrGood = true → (s.b.start.state = .quarantine ∨ s.b.start.state = .maintenance) →
    completes (.restart 0x4B4C#16) s (fun b => b.start.state = .reset ∧ b.start.rstPending = true ∧ b.start.lastCmd = 1 ∧ b.pins.faultN = true ∧
      b.cal.ramp.isSome = true ∧ b.runs = [] ∧ b.screen.records = [] ∧ b.tel = s.b.tel ∧ b.memKept s.b)) ∧
  (∀ s : State, s.b.pins.pwrGood = true → s.b.start.state = .starting → ∀ c ∈ [Instr.restart 0x4B4C#16, .enterMaint 0x4B4C#16, .exitMaint 0x4B4C#16],
    completes c s (fun b => b = { s.b with start := { s.b.start with lastCmd := 2 }, mem := b.mem } ∧ b.memKept s.b)) ∧
  (∀ s : State, s.b.pins.pwrGood = true → s.b.start.state = .opened → s.b.start.drainAt = none →
    completes (.enterMaint 0x4B4C#16) s (fun b => b.start = { s.b.start with lastCmd := 1, drainAt := some s.b.now } ∧
      (∀ r ∈ b.runs, r.phase = .waiting → r.killed.isSome = true) ∧ b.pins = s.b.pins ∧ b.vat = s.b.vat ∧ b.streams = s.b.streams ∧ b.memKept s.b)) ∧
  (∀ s : State, s.b.pins.pwrGood = true → s.b.start.state = .maintenance →
    completes (.exitMaint 0x4B4C#16) s (fun b => b = { s.b with start := { s.b.start with lastCmd := 1, state := .opened }, pins := { s.b.pins with flTri := false }, mem := b.mem } ∧ b.memKept s.b)) ∧
  (∀ s : State, s.b.start.drainAt.isSome = true → (∀ r ∈ s.b.runs, r.phase = .waiting) →
    completes .drainDone s (fun b => b = { s.b with start := { s.b.start with state := .maintenance, drainAt := none }, pins := { s.b.pins with flTri := flashReleased .maintenance s.b.pins.flReleaseN }, mem := b.mem } ∧ b.memKept s.b)) ∧
  (∀ (s : State) (t0 : Nat) (g : Image), s.b.start.drainAt = some t0 → s.b.start.img = some g → t0 + g.maintDrain ≤ s.b.now →
    completes .maintDrainTimeout s (fun b => b.start = { s.b.start with state := .maintenance, drainAt := none } ∧
      (∀ r ∈ b.runs, r.killed.isSome = true) ∧ b.pins = { s.b.pins with flTri := flashReleased .maintenance s.b.pins.flReleaseN } ∧ b.streams = s.b.streams ∧ b.memKept s.b))

/-- A stack's CATTRIP with power good takes, in every state, THERMTRIP_N and FAULT_N low, stops all work into STOPPED with a stop ramp that ends with RESET_n low at every stack, and FATAL_CAUSE records code 1 and the stack when it held no cause. Memory and Screen's records stay. (R60, R95, R506, R507) -/
def Obligations.CattripIsFatal : Prop :=
  ∀ (s : State) (k : Nat), s.b.pins.pwrGood = true → k < 24 →
    completes (.cattrip k) s (fun b => b.start.state = .stopped ∧ b.pins.thermTripN = false ∧ b.pins.faultN = false ∧
      (∃ r, b.cal.ramp = some r ∧ r.stacksLow = true) ∧ b.runs = [] ∧ b.streams = [] ∧ b.cores = [] ∧ b.screen.records = s.b.screen.records ∧ b.memKept s.b ∧
      (wbit s.b.tel.fatalCause 16 = false → b.tel.fatalCause = BitVec.ofNat 32 (1 + 256 * k + 65536)) ∧
      (wbit s.b.tel.fatalCause 16 = true → s.b.tel.fatalAt ≠ s.b.now → b.tel.fatalCause = s.b.tel.fatalCause))

/-- On an OPEN link, SEATn_ALERT_N, two or more bit errors in a group, or an expired credit timeout take the link to FAULT: its numbered accesses, commands and credits are gone, its memory stream is at 0 again, and a link flit carries the FAULT state; SEAT_ERR records the uncorrectable error in bit 0 and the timeout, which runs while a cell waits, in bit 2. Where no FENCE names the link's memory stream, its queued and unreturned cells are gone too, no other link's accesses, cells or state change, and neither do the start state, the Calender, the gable ports and placement. One corrected bit only counts in SEAT_CORR_CNT. Memory stays. (R10, R47, R55, R56, R57) -/
def Obligations.SeatLinkFaults : Prop :=
  (∀ (s : State) (n bits t0 : Nat), n < 8 → (s.b.seat n).state = .opened → 2 ≤ bits → (s.b.seat n).creditAt = some t0 → (s.b.seat n).outq ≠ [] → s.b.seatCreditTo ≤ s.b.ctlSince t0 →
    ∀ c ∈ [Instr.seatAlert n, .seatUncorrectableLinkError n bits, .seatCreditTimeout n],
    completes c s (fun b => (b.seat n).state = .fault ∧ (b.seat n).ops = [] ∧ (b.seat n).cmds = [] ∧ (b.seat n).memNext = 0 ∧ (b.seat n).loadCr = 0 ∧ (b.seat n).storeCr = 0 ∧
      (b.seat n).cmdCr = 0 ∧ (b.seat n).respCr = 0 ∧ (b.seat n).faultAt = s.b.now ∧ Out.linkFlit n (s.b.seat n).frame 0 0 0 .fault (b.ctr (Map.seatCorrCnt n)) ∈ b.out ∧ b.memKept s.b ∧
      (s.b.seatUnfenced n → (b.seat n).outq = [] ∧ (b.seat n).unret = [] ∧ (b.seat n).creditAt = none ∧
        (∀ m, m ≠ n → (b.seat m).state = (s.b.seat m).state ∧ (b.seat m).ops = (s.b.seat m).ops ∧ (b.seat m).outq = (s.b.seat m).outq) ∧
        b.start = s.b.start ∧ b.cal = s.b.cal ∧ b.gables = s.b.gables ∧ b.vat = s.b.vat ∧ b.streams = s.b.streams) ∧
      (c = .seatUncorrectableLinkError n bits → wbit (b.err (Map.seatErr n)) 0 = true) ∧ (c = .seatCreditTimeout n → wbit (b.err (Map.seatErr n)) 2 = true))) ∧
  (∀ (s : State) (n : Nat), n < 8 → (s.b.seat n).state = .opened →
    completes (.seatUncorrectableLinkError n 1) s (fun b => b.ctr (Map.seatCorrCnt n) = s.b.ctr (Map.seatCorrCnt n) + 1#32 ∧
      b = { s.b with ctrs := b.ctrs, mem := b.mem } ∧ b.memKept s.b))

/-- A link in FAULT that retrains is OPEN again with its memory stream at 0 and, while the block serves tenants, 4,096 LOAD, 8,192 STORE and 8,192 COMMAND credits; a pending STAGE is sent again with its timeout armed from the reopening. One that fails stays DOWN with its reset low and its seat out of service. On an OPEN link of a serving block with nothing to send, a flit takes the frame number and the sender's count, returns the credits consumed (COMMAND credits only while no admission queue of the seat's tenant is HELD) and takes in those granted; with one granted credit the waiting cell of a one-cell packet leaves. On a link in FAULT the answer carries that state and no credits. That an outbound flit mirrors the inbound frame number is the model's choice (log entry 114). (R39, R45, R47, R48, R56, R57, R79, R382) -/
def Obligations.SeatLinkReopens : Prop :=
  (∀ (s : State) (n spares : Nat), n < 8 → (s.b.seat n).state = .fault → (s.b.seat n).stages = [] → s.b.serving = true →
    completes (.seatLinkRetrainDone n true spares) s (fun b => b.seat n = { s.b.seat n with state := .opened, rstN := true, spares := spares, retrains := min 1023 ((s.b.seat n).retrains + 1), memNext := 0, loadCr := 4096, storeCr := 8192, cmdCr := 8192, loadRet := 0, storeRet := 0, cmdRet := 0 } ∧
      (∀ m, m ≠ n → b.seat m = s.b.seat m) ∧ b = { s.b with seats := b.seats, mem := b.mem } ∧ b.memKept s.b)) ∧
  (∀ (s : State) (n spares : Nat) (w : StageWait), n < 8 → (s.b.seat n).state = .fault → (s.b.seat n).stages = [w] → (s.b.seat n).outq = [] → (s.b.seat n).respCr = 0 →
    (s.b.seat n).creditAt = none → s.b.serving = true →
    completes (.seatLinkRetrainDone n true spares) s (fun b => (b.seat n).state = .opened ∧ (b.seat n).memNext = 0 ∧ (b.seat n).stages = [{ w with armed := s.b.now }] ∧
      (b.seat n).outq = [{ kind := 6, hdr := mkHdr 6 0 0 w.handle.toNat w.stage 0 0, data := [], cells := 1, sent := 0, run := some (w.tenant, w.handle) }] ∧
      (∀ m, m ≠ n → b.seat m = s.b.seat m) ∧ b = { s.b with seats := b.seats, out := b.out, mem := b.mem } ∧ b.memKept s.b)) ∧
  (∀ (s : State) (n spares : Nat), n < 8 → (s.b.seat n).state = .fault →
    completes (.seatLinkRetrainDone n false spares) s (fun b => (b.seat n).state = .down ∧ (b.seat n).rstN = false ∧ b.unitOut n 9 0 = true ∧
      b.start = s.b.start ∧ b.runs = s.b.runs ∧ b.vat = s.b.vat ∧ b.memKept s.b)) ∧
  (∀ (s : State) (n frame credits corr k : Nat), n < 8 → (s.b.seat n).state = .opened → s.b.serving = true → (s.b.seat n).outq = [] →
    k = (if (s.b.owner n).any (fun t => s.b.admissionHeld t) then 0 else (s.b.seat n).cmdRet) →
    completes (.seatLinkFlit n frame credits corr) s (fun b => b.seat n = { s.b.seat n with frame := frame, peerCorr := corr, respCr := (s.b.seat n).respCr + credits, unret := dropReturned credits (s.b.seat n).unret, loadCr := (s.b.seat n).loadCr + (s.b.seat n).loadRet, storeCr := (s.b.seat n).storeCr + (s.b.seat n).storeRet, cmdCr := (s.b.seat n).cmdCr + k, loadRet := 0, storeRet := 0, cmdRet := (s.b.seat n).cmdRet - k, creditAt := none } ∧
      b.out = s.b.out ++ [.linkFlit n frame (s.b.seat n).loadRet (s.b.seat n).storeRet k .opened (s.b.ctr (Map.seatCorrCnt n))] ∧
      (∀ m, m ≠ n → b.seat m = s.b.seat m) ∧ b = { s.b with seats := b.seats, out := b.out, mem := b.mem } ∧ b.memKept s.b)) ∧
  (∀ (s : State) (n frame corr : Nat) (p : SeatOut), n < 8 → (s.b.seat n).state = .opened → s.b.serving = true → (s.b.seat n).outq = [p] → p.cells = 1 → p.sent = 0 →
    (s.b.seat n).respCr = 0 →
    completes (.seatLinkFlit n frame 1 corr) s (fun b => (b.seat n).outq = [] ∧ (b.seat n).respCr = 0 ∧ (b.seat n).creditAt = none ∧
      Out.seatCell n p.hdr 0 [] ∈ b.out ∧ b.ctr (Map.telSeatOut n) = s.b.ctr (Map.telSeatOut n) + 1#32 ∧ b.memKept s.b)) ∧
  (∀ (s : State) (n frame credits corr : Nat), n < 8 → (s.b.seat n).state = .fault →
    completes (.seatLinkFlit n frame credits corr) s (fun b => b.seat n = { s.b.seat n with frame := frame, peerCorr := corr } ∧
      b.out = s.b.out ++ [.linkFlit n frame 0 0 0 .fault (s.b.ctr (Map.seatCorrCnt n))] ∧ b = { s.b with seats := b.seats, out := b.out, mem := b.mem } ∧ b.memKept s.b))

/-- A LOAD in range with a LOAD credit uses one credit and takes the memory stream's next number, modulo 2^48, and the last place in it. Where its bytes lie in one sound Felt sector and no earlier access waits on that sector, it has read exactly the bytes of memory. A LOAD whose reads have returned is answered: without a response credit its LOAD_DATA packet waits with the data, 1 + ⌈size ÷ 16⌉ cells, and the credit timeout is armed; one that failed is answered with its status and zeros, and SEAT_ERR bit 5 is set. In these two cases no byte of memory changes. (R42, R43, R44, R45, R48, R49, R388) -/
def Obligations.SeatLoads : Prop :=
  (∀ (s : State) (n : Nat) (h : SeatHdr), n < 8 → (s.b.seat n).state = .opened → h.kind = 1 → h.ok = true → 0 < (s.b.seat n).loadCr →
    completes (.seatLoad n h []) s (fun b => (b.seat n).loadCr = (s.b.seat n).loadCr - 1 ∧ (b.seat n).loadRet = (s.b.seat n).loadRet + 1 ∧
      (b.seat n).memNext = ((s.b.seat n).memNext + 1) % 2 ^ 48 ∧ (b.seat n).ops.map (fun o => o.num) = (s.b.seat n).ops.map (fun o => o.num) ++ [(s.b.seat n).memNext])) ∧
  (∀ (s : State) (n t pa : Nat) (h : SeatHdr), n < 8 → (s.b.seat n).state = .opened → h.kind = 1 → h.ok = true → 0 < (s.b.seat n).loadCr → s.b.owner n = some t →
    (s.b.seat n).ops = [] → h.addr % 64 + h.size ≤ 64 → s.b.vat.translate t h.addr .load = .ok pa → regionOf pa = 1 → s.b.stays t h.addr → s.b.feltBadIn pa h.size = [] →
    completes (.seatLoad n h []) s (fun b => (b.seat n).loadCr = (s.b.seat n).loadCr - 1 ∧ (b.seat n).loadRet = (s.b.seat n).loadRet + 1 ∧
      (b.seat n).memNext = ((s.b.seat n).memNext + 1) % 2 ^ 48 ∧
      (b.seat n).ops = [{ num := (s.b.seat n).memNext, store := false, addr := h.addr, size := h.size, tag := BitVec.ofNat 16 h.tag, ack := false, data := s.b.mem.readN pa h.size, acted := true, status := 0 }] ∧
      (∀ m, m ≠ n → b.seat m = s.b.seat m) ∧ b = { s.b with seats := b.seats, vat := b.vat, ctrs := b.ctrs, mem := b.mem } ∧ b.memKept s.b)) ∧
  (∀ (s : State) (n : Nat) (o : MemOp), n < 8 → (s.b.seat n).state = .opened → s.b.serving = true → (s.b.seat n).ops = [o] → o.store = false → o.acted = true → o.status = 0 →
    s.b.readsOut (.seat n o.num) = false → (s.b.seat n).outq = [] → (s.b.seat n).respCr = 0 → (s.b.seat n).creditAt = none →
    completes (.loadData n o.num) s (fun b => b.seat n = { s.b.seat n with ops := [], creditAt := some s.b.now, outq := [{ kind := 3, hdr := mkHdr 3 (ceilDiv o.size 16) o.tag.toNat 0 0 (o.size - 1) 0, data := padTo 16 o.data, cells := 1 + ceilDiv o.size 16, sent := 0, run := none }] } ∧
      (∀ m, m ≠ n → b.seat m = s.b.seat m) ∧ b = { s.b with seats := b.seats, out := b.out, mem := b.mem } ∧ b.memKept s.b)) ∧
  (∀ (s : State) (n : Nat) (o : MemOp), n < 8 → (s.b.seat n).state = .opened → s.b.serving = true → (s.b.seat n).ops = [o] → o.store = false → o.acted = true → o.status ≠ 0 →
    s.b.readsOut (.seat n o.num) = false → (s.b.seat n).outq = [] → (s.b.seat n).respCr = 0 → (s.b.seat n).creditAt = none →
    completes (.loadData n o.num) s (fun b => (b.seat n).ops = [] ∧ wbit (b.err (Map.seatErr n)) 5 = true ∧
      (b.seat n).outq = [{ kind := 3, hdr := mkHdr 3 (ceilDiv o.size 16) o.tag.toNat 0 0 (o.size - 1) o.status, data := padTo 16 (List.replicate o.size 0#8), cells := 1 + ceilDiv o.size 16, sent := 0, run := none }] ∧
      (∀ m, m ≠ n → b.seat m = s.b.seat m) ∧ b.memKept s.b))

/-- A STORE in range with its cells' credit, to a sound sector of Felt and with no earlier access waiting, writes exactly its bytes at their address: every other byte of memory reads as before. A completed STORE that asked for no answer and has no parity write waiting leaves the memory stream without one. A COMMAND in range with no STORE outstanding is handed to Flashing and its cells' credit is consumed. A STORE or COMMAND without credit for all its cells takes the link to FAULT with SEAT_ERR bit 1. (R43, R44, R45, R46, R48, R49, R50, R388, R422) -/
def Obligations.SeatStores : Prop :=
  (∀ (s : State) (n t pa : Nat) (h : SeatHdr) (cells : List Byte), s.memSound → n < 8 → (s.b.seat n).state = .opened → h.kind = 2 → h.ok = true → 1 + h.ncells ≤ (s.b.seat n).storeCr →
    s.b.owner n = some t → (s.b.seat n).ops = [] → h.addr % 64 + h.size ≤ 64 → h.size ≤ cells.length → s.b.vat.translate t h.addr .store = .ok pa → regionOf pa = 1 → s.b.stays t h.addr → s.b.feltBadIn pa h.size = [] →
    completes (.seatStore n h cells []) s (fun b => (b.seat n).storeCr = (s.b.seat n).storeCr - (1 + h.ncells) ∧ (b.seat n).storeRet = (s.b.seat n).storeRet + (1 + h.ncells) ∧
      (b.seat n).memNext = ((s.b.seat n).memNext + 1) % 2 ^ 48 ∧ (∀ m, m ≠ n → b.seat m = s.b.seat m) ∧
      (∀ a, b.byteAt a = if pa ≤ a ∧ a < pa + h.size then cells.getD (a - pa) 0#8 else s.b.byteAt a) ∧
      b = { s.b with seats := b.seats, vat := b.vat, ctrs := b.ctrs, mem := b.mem, feltBad := b.feltBad })) ∧
  (∀ (s : State) (n : Nat) (o : MemOp), n < 8 → (s.b.seat n).ops = [o] → o.store = true → o.acted = true → o.status = 0 → o.ack = false → (s.b.seat n).cmds = [] → (∀ t, s.b.owner n = some t → s.b.parWaits t o.addr o.size = false) →
    completes (.storeDone n o.num) s (fun b => b.seat n = { s.b.seat n with ops := [] } ∧ (∀ m, m ≠ n → b.seat m = s.b.seat m) ∧
      b = { s.b with seats := b.seats, mem := b.mem } ∧ b.memKept s.b)) ∧
  (∀ (s : State) (n : Nat) (h : SeatHdr) (cells : List Byte), n < 8 → (s.b.seat n).state = .opened → h.kind = 5 → h.ok = true → 1 + h.ncells ≤ (s.b.seat n).cmdCr →
    (s.b.seat n).ops = [] → (s.b.seat n).cmds = [] →
    completes (.seatCommand n h cells) s (fun b => b.seat n = { s.b.seat n with cmdCr := (s.b.seat n).cmdCr - (1 + h.ncells), cmdRet := (s.b.seat n).cmdRet + (1 + h.ncells) } ∧
      b.inq = s.b.inq ++ [parsePacket n (sliceBytes cells 0 (16 * h.ncells)) (fun plen => h.ncells = ceilDiv (64 + plen) 16)] ∧
      (∀ m, m ≠ n → b.seat m = s.b.seat m) ∧ b = { s.b with seats := b.seats, inq := b.inq, ctrs := b.ctrs, mem := b.mem } ∧ b.memKept s.b)) ∧
  (∀ (s : State) (n : Nat) (h : SeatHdr) (cells : List Byte), n < 8 → (s.b.seat n).state = .opened → (h.kind = 2 ∧ (s.b.seat n).storeCr < 1 + h.ncells ∨ h.kind = 5 ∧ (s.b.seat n).cmdCr < 1 + h.ncells) →
    completes (if h.kind = 2 then .seatStore n h cells [] else .seatCommand n h cells) s (fun b => (b.seat n).state = .fault ∧
      wbit (b.err (Map.seatErr n)) 1 = true ∧ b.inq = s.b.inq ∧ b.memKept s.b))

/-- A STAGE_ACK for a pending STAGE removes it, and the last one of a stage begins that stage of the run, with the completion of the RUN packet when it is stage 0; one that names no pending STAGE and no ended or killed run sets SEAT_ERR bit 4. A pending STAGE whose timeout has run sets SEAT_ERR bit 3 and kills its run with status 0x11, and the link keeps its state. Memory stays. (R10, R53, R179, R192) -/
def Obligations.SeatStages : Prop :=
  (∀ (s : State) (n t k : Nat) (h : SeatHdr) (w : StageWait) (r : Run), n < 8 → (s.b.seat n).state = .opened → h.kind = 7 → h.ok = true → s.b.owner n = some t →
    w.tenant = t → w.handle = h.w1 → w.stage = wfield h.w2 0 16 → (s.b.seat n).stages = [w] → wfield h.w2 0 16 = k + 1 →
    s.b.runs = [r] → r.ref = { tenant := t, handle := h.w1 } → r.phase = .staging (k + 1) [n] →
    completes (.stageAck n h) s (fun b => b.seat n = { s.b.seat n with stages := [] } ∧ b.runs = [{ r with phase := .active (k + 1) }] ∧
      (∀ m, m ≠ n → b.seat m = s.b.seat m) ∧ b = { s.b with seats := b.seats, runs := b.runs, ctrs := b.ctrs, mem := b.mem } ∧ b.memKept s.b)) ∧
  (∀ (s : State) (n t : Nat) (h : SeatHdr) (w : StageWait) (r : Run), n < 8 → (s.b.seat n).state = .opened → h.kind = 7 → h.ok = true → s.b.owner n = some t →
    w.tenant = t → w.handle = h.w1 → w.stage = 0 → wfield h.w2 0 16 = 0 → (s.b.seat n).stages = [w] →
    s.b.runs = [r] → r.ref = { tenant := t, handle := h.w1 } → r.phase = .staging 0 [n] → r.pkt.cpl = false →
    completes (.stageAck n h) s (fun b => b.seat n = { s.b.seat n with stages := [] } ∧ b.runs = [{ r with phase := .active 0 }] ∧
      (b.strm t r.pkt.stream).live = dropLive r.pkt.nums (s.b.strm t r.pkt.stream).live ∧ (∀ u v, (u, v) ≠ (t, r.pkt.stream) → b.strm u v = s.b.strm u v) ∧
      (∀ m, m ≠ n → b.seat m = s.b.seat m) ∧ b = { s.b with seats := b.seats, runs := b.runs, streams := b.streams, ctrs := b.ctrs, mem := b.mem } ∧ b.memKept s.b)) ∧
  (∀ (s : State) (n t : Nat) (h : SeatHdr), n < 8 → (s.b.seat n).state = .opened → h.kind = 7 → h.ok = true → s.b.owner n = some t → (s.b.seat n).stages = [] →
    s.b.ended = [] → s.b.runs = [] →
    completes (.stageAck n h) s (fun b => wbit (b.err (Map.seatErr n)) 4 = true ∧ b.seats = s.b.seats ∧ b.runs = [] ∧ b.memKept s.b)) ∧
  (∀ (s : State) (n t : Nat) (handle : Word) (w : StageWait) (r : Run), n < 8 → (s.b.seat n).state ≠ .fault → (s.b.seat n).stages = [w] → w.tenant = t → w.handle = handle →
    s.b.seatCreditTo ≤ s.b.ctlSince w.armed → s.b.runs = [r] → r.ref = { tenant := t, handle := handle } → r.killed = none →
    completes (.stageAckTimeout n t handle) s (fun b => wbit (b.err (Map.seatErr n)) 3 = true ∧ (b.seat n).state = (s.b.seat n).state ∧ (b.seat n).stages = [] ∧
      b.runs = [{ r with killed := some { cause := 0x11, station := 0xFF, ord := 0, detail := 0#32, stage := r.stageWord, at_ := s.b.now } }] ∧
      b.vat = s.b.vat ∧ b.start = s.b.start ∧ b.memKept s.b))

/-- Bytes written to an uncommitted slot land at their offset and nowhere else; a write to or a commit of a committed slot is discarded, sets GAB_ERR bit 0 and raises vector 2. A slot number or a range past the slot's bytes sets GAB_ERR bit 2, for a slot write by the model's choice (log entry 116). A commit in a serving block with no HELD admission queue and no held response record hands the slot's 4,096 bytes to Flashing as one packet, frees the slot and counts it. A Configuration Request is answered, with Retry Status until tenants are open. Memory stays. (R62, R63, R122, R146, R382) -/
def Obligations.GableSlots : Prop :=
  (∀ (s : State) (p k off : Nat) (l : List Byte), p < 12 → k < 4096 → off + l.length ≤ 4092 → s.b.hostOpen p = true → ((s.b.gable p).slot k).committed = false →
    completes (.gabSlotWrite p k off l) s (fun b => ((b.gable p).slot k).committed = false ∧
      (∀ i, ((b.gable p).slot k).bytes.getD i 0#8 = if off ≤ i ∧ i < off + l.length then l.getD (i - off) 0#8 else ((s.b.gable p).slot k).bytes.getD i 0#8) ∧
      (∀ j, j ≠ k → (b.gable p).slot j = (s.b.gable p).slot j) ∧ (∀ q, q ≠ p → b.gable q = s.b.gable q) ∧
      b = { s.b with gables := b.gables, mem := b.mem } ∧ b.memKept s.b)) ∧
  (∀ (s : State) (p k off : Nat) (l : List Byte) (w : Word), p < 12 → k < 4096 → off + l.length ≤ 4092 → s.b.hostOpen p = true → ((s.b.gable p).slot k).committed = true →
    ∀ c ∈ [Instr.gabSlotWrite p k off l, .gabCommit p k w],
    completes c s (fun b => b.gable p = { s.b.gable p with err := (s.b.gable p).err ||| 1#32 } ∧ b.out = s.b.out ++ [.msix p 2] ∧
      (∀ q, q ≠ p → b.gable q = s.b.gable q) ∧ b = { s.b with gables := b.gables, out := b.out, mem := b.mem } ∧ b.memKept s.b)) ∧
  (∀ (s : State) (p k off : Nat) (l : List Byte), s.b.hostOpen p = true → (4096 ≤ k ∨ 4092 < off + l.length) →
    completes (.gabSlotWrite p k off l) s (fun b => b.gable p = { s.b.gable p with err := (s.b.gable p).err ||| 4#32 } ∧ b.out = s.b.out ++ [.msix p 2] ∧
      (∀ q, q ≠ p → b.gable q = s.b.gable q) ∧ b = { s.b with gables := b.gables, out := b.out, mem := b.mem } ∧ b.memKept s.b)) ∧
  (∀ (s : State) (p k : Nat) (w : Word), p < 12 → k < 4096 → s.b.hostOpen p = true → s.b.serving = true → ((s.b.gable p).ringSize = 0 ∨ (s.b.gable p).held = []) → ((s.b.gable p).slot k).committed = false → (s.b.gable p).waiting = [] →
    (∀ t, s.b.owner (8 + p) = some t → s.b.admissionHeld t = false) →
    completes (.gabCommit p k w) s (fun b => ((b.gable p).slot k).committed = false ∧ (b.gable p).waiting = [] ∧ (b.gable p).taken = ((s.b.gable p).taken + 1) % 2 ^ 32 ∧
      b.inq = s.b.inq ++ [parsePacket (8 + p) (((s.b.gable p).slot k).put 4092 (leBytes 4 w.toNat)).all (fun plen => decide (64 + plen ≤ 4096))] ∧
      (∀ q, q ≠ p → b.gable q = s.b.gable q) ∧ b = { s.b with gables := b.gables, inq := b.inq, mem := b.mem } ∧ b.memKept s.b)) ∧
  (∀ (s : State) (p : Nat), p < 12 → s.b.hostOpen p = true →
    completes (.hostConfigRequest p) s (fun b => b = { s.b with out := s.b.out ++ [.configAnswer p (!s.b.serving)], mem := b.mem } ∧ b.memKept s.b))

/-- GAB_RING_SIZE takes 16 to 28, with the tail modulo the size (log entry 116); any other value leaves no ring and sets GAB_ERR bit 1. A write of GAB_RING_HEAD lets a held entry that now fits go: it is written at the ring's tail with vector 0, and with vector 1 for an event, and the tail moves past it. Once no record is held, slots that wait are taken again; nothing else changes. (R63, R64, R167) -/
def Obligations.GableRings : Prop :=
  (∀ (s : State) (p : Nat) (v : Word), p < 12 → s.b.hostOpen p = true → (s.b.gable p).held = [] → 16 ≤ v.toNat → v.toNat ≤ 28 →
    completes (.gabRingSizeWrite p v) s (fun b => (b.gable p).ringSize = v.toNat ∧ (b.gable p).ringTail = (s.b.gable p).ringTail % 2 ^ v.toNat ∧ (b.gable p).ringHead = (s.b.gable p).ringHead ∧
      (b.gable p).ringBase = (s.b.gable p).ringBase ∧ (b.gable p).err = (s.b.gable p).err ∧ (b.gable p).held = [] ∧ ((s.b.gable p).waiting = [] → b.inq = s.b.inq) ∧
      (∀ q, q ≠ p → b.gable q = s.b.gable q) ∧ b = { s.b with gables := b.gables, inq := b.inq, mem := b.mem } ∧ b.memKept s.b)) ∧
  (∀ (s : State) (p : Nat) (v : Word), p < 12 → s.b.hostOpen p = true → (v.toNat < 16 ∨ 28 < v.toNat) →
    completes (.gabRingSizeWrite p v) s (fun b => b.gable p = { s.b.gable p with ringSize := 0, err := (s.b.gable p).err ||| 2#32 } ∧ b.out = s.b.out ++ [.msix p 2] ∧
      (∀ q, q ≠ p → b.gable q = s.b.gable q) ∧ b = { s.b with gables := b.gables, out := b.out, mem := b.mem } ∧ b.memKept s.b)) ∧
  (∀ (s : State) (p : Nat) (v : Word) (e : RingEntry), p < 12 → s.b.hostOpen p = true → (s.b.gable p).held = [e] → 16 ≤ (s.b.gable p).ringSize →
    (s.b.gable p).ringTail + e.bytes.length < 2 ^ (s.b.gable p).ringSize → v.toNat = (s.b.gable p).ringTail → e.bytes.length < 2 ^ (s.b.gable p).ringSize - 1 →
    completes (.gabRingHeadWrite p v) s (fun b => (b.gable p).held = [] ∧ (b.gable p).ringHead = v.toNat ∧ (b.gable p).ringTail = (s.b.gable p).ringTail + e.bytes.length ∧
      (b.gable p).ringSize = (s.b.gable p).ringSize ∧ (b.gable p).ringBase = (s.b.gable p).ringBase ∧ (b.gable p).err = (s.b.gable p).err ∧ ((s.b.gable p).waiting = [] → b.inq = s.b.inq) ∧
      b.out = s.b.out ++ [.ringWrite p ((s.b.gable p).ringBase + BitVec.ofNat 64 (s.b.gable p).ringTail) e.bytes] ++ (if e.event then [.msix p 0, .msix p 1] else [.msix p 0]) ∧
      (∀ q, q ≠ p → b.gable q = s.b.gable q) ∧ b = { s.b with gables := b.gables, inq := b.inq, out := b.out, mem := b.mem } ∧ b.memKept s.b))

/-- A fall of GA_PERST_N on a host port closes it, drops its ring, its held entries and its untaken slots, and kills the runs with a GATE on it with status 0x10. A rise on an enabled port in service whose loop-back test has passed and that an enabled tenant owns opens it exactly when the link trained at x4 or wider, 16 GT/s or faster and in FLIT mode. An I3C target takes a dynamic address and answers at it; an SMBus target takes none. A TAP access to a stack in service is refused. Memory stays. (R61, R70, R72, R78, R117) -/
def Obligations.GableResets : Prop :=
  (∀ (s : State) (p : Nat), p < 12 → p < s.b.gables.length → (s.b.gable p).far = false →
    completes (.gaPerstNFall p) s (fun b => (b.gable p).opened = false ∧ (b.gable p).perstN = false ∧ (b.gable p).ringSize = 0 ∧ (b.gable p).held = [] ∧ (b.gable p).waiting = [] ∧
      (∀ k, ((b.gable p).slot k).committed = false) ∧ (∀ q, q ≠ p → b.gable q = s.b.gable q) ∧
      (∀ r ∈ b.runs, (descGates r.desc).contains (8 + p) = true → r.killed.isSome = true) ∧
      b.start = s.b.start ∧ b.vat = s.b.vat ∧ b.cal = s.b.cal ∧ b.memKept s.b)) ∧
  (∀ (s : State) (p : Nat) (l : LinkTrained) (g : Image), p < 12 → p < s.b.gables.length → (s.b.gable p).far = false → s.b.phyGPassed p = true → s.b.start.img = some g → g.gabEnable.getLsbD p = true →
    (s.b.owner (8 + p)).isSome = true → s.b.serving = true → (s.b.gable p).opened = false →
    completes (.gaPerstNRise p l) s (fun b => b.gable p = { s.b.gable p with perstN := true, width := l.width % 4, rate := l.rate % 4, flit := l.flit, opened := decide (1 ≤ l.width % 4) && decide (1 ≤ l.rate % 4) && l.flit } ∧
      (∀ q, q ≠ p → b.gable q = s.b.gable q) ∧ b = { s.b with gables := b.gables, mem := b.mem } ∧ b.memKept s.b)) ∧
  (∀ (s : State) (a : BitVec 7), s.b.pins.pwrGood = true → s.b.pins.mgMode = false →
    completes (.i3cDynamicAddress a) s (fun b => b = { s.b with pins := { s.b.pins with dynAddr := some a, mgTarget := a }, mem := b.mem } ∧ b.memKept s.b)) ∧
  (∀ (s : State) (a : BitVec 7), s.b.pins.mgMode = true → completes (.i3cDynamicAddress a) s (fun b => b = { s.b with mem := b.mem } ∧ b.memKept s.b)) ∧
  (∀ (s : State) (k : Nat), k < 24 →
    completes (.tap1500Access k) s (fun b => b = { s.b with out := s.b.out ++ [.tap k (s.b.eaveIn k)], mem := b.mem } ∧ b.memKept s.b))

/-- A write of ones to an RW1C register of a set that is not frozen clears exactly those bits and no other register, and may release MG_ALERT_N. A write to a read-only, clearing or image-set register, to no register, or of another width or alignment changes nothing, and neither does one to a set whose unit is out of service. MGT_IRQ_MASK takes all 32 bits; SCR_ARG takes its 16 bits. A host's write of ones to GAB_ERR of its port clears exactly those bits. A management write to the runtime-writable set is discarded, which the model reads from R14 (log entry 12). (R11, R12, R13, R14, R15, R508, R511) -/
def Obligations.RegisterWrites : Prop :=
  (∀ (s : State) (a : Nat) (v : Word), s.b.pins.pwrGood = true → a % 4 = 0 → regAccess a = some .rw1c → runtimeSet a = false → s.b.setFrozen a = false →
    completes (.registerWrite .mgmt a v 4) s (fun b => b.err a = s.b.err a &&& ~~~v ∧ (∀ x, x ≠ a → b.err x = s.b.err x) ∧
      b = { s.b with errs := b.errs, pins := { s.b.pins with mgAlertN := b.pins.mgAlertN }, mem := b.mem } ∧ (s.b.pins.mgAlertN = true → b.pins.mgAlertN = true) ∧ b.memKept s.b)) ∧
  (∀ (s : State) (a n : Nat) (v : Word), (n ≠ 4 ∨ a % 4 ≠ 0 ∨ regAccess a = none ∨ regAccess a = some .ro ∨ regAccess a = some .rc ∨ regAccess a = some .rwi ∨ runtimeSet a = true ∨ s.b.setFrozen a = true) →
    completes (.registerWrite .mgmt a v n) s (fun b => b = { s.b with mem := b.mem } ∧ b.memKept s.b)) ∧
  (∀ (s : State) (v : Word), s.b.pins.pwrGood = true →
    completes (.registerWrite .mgmt 0x6044 v 4) s (fun b => b = { s.b with tel := { s.b.tel with irqMask := v }, mem := b.mem } ∧ b.memKept s.b) ∧
    completes (.registerWrite .mgmt 0x4008 v 4) s (fun b => b.screen.cmdArg.toNat = v.toNat % 65536 ∧ b = { s.b with screen := { s.b.screen with cmdArg := b.screen.cmdArg }, mem := b.mem } ∧ b.memKept s.b)) ∧
  (∀ (s : State) (p : Nat) (v : Word), s.b.hostOpen p = true →
    completes (.registerWrite (.bar2 p) 0x18 v 4) s (fun b => b.gable p = { s.b.gable p with err := (s.b.gable p).err &&& ~~~v } ∧ (∀ q, q ≠ p → b.gable q = s.b.gable q) ∧
      b = { s.b with gables := b.gables, mem := b.mem } ∧ b.memKept s.b))

/-- A read of an RC counter gives its value, sets it to zero and leaves its twin and every other counter; the next read gives zero; a read of a TEL_MAX gives and clears that slot's maximum. A read of any other register gives its value and changes nothing, and a read of no register gives zero. A host reads the registers of its port in BAR2. (R13, R16, R502, R512) -/
def Obligations.ClearingReads : Prop :=
  (∀ (s : State) (a : Nat), s.b.pins.pwrGood = true → a % 4 = 0 → regAccess a = some .rc → telMaxSlot a = none →
    completes (.clearingRead .mgmt a 4) s (fun b => b.out = s.b.out ++ [.regRead a (s.b.ctr a)] ∧ b.ctr a = 0#32 ∧ b.reg a = 0#32 ∧ b.sampled a = s.b.sampled a ∧
      (∀ x, x ≠ a → b.ctr x = s.b.ctr x) ∧ b = { s.b with ctrs := b.ctrs, out := b.out, mem := b.mem } ∧ b.memKept s.b)) ∧
  (∀ (s : State) (a i : Nat), s.b.pins.pwrGood = true → a % 4 = 0 → regAccess a = some .rc → telMaxSlot a = some i →
    completes (.clearingRead .mgmt a 4) s (fun b => b.out = s.b.out ++ [.regRead a (s.b.tel.slots.getD i TelSlot.reset).max] ∧
      b = { s.b with tel := { s.b.tel with slots := modAt s.b.tel.slots i (fun x => { x with max := 0#32 }) }, out := b.out, mem := b.mem } ∧ b.memKept s.b)) ∧
  (∀ (s : State) (a : Nat), s.b.pins.pwrGood = true → a % 4 = 0 → regAccess a ≠ some .rc →
    completes (.clearingRead .mgmt a 4) s (fun b => b = { s.b with out := s.b.out ++ [.regRead a (s.b.reg a)], mem := b.mem } ∧ b.memKept s.b)) ∧
  (∀ (s : State) (a n : Nat), s.b.pins.pwrGood = true → (n ≠ 4 ∨ a % 4 ≠ 0) →
    completes (.clearingRead .mgmt a n) s (fun b => b = { s.b with out := s.b.out ++ [.regRead a 0#32], mem := b.mem } ∧ b.memKept s.b)) ∧
  (∀ (s : State) (p a : Nat), s.b.hostOpen p = true → a % 4 = 0 →
    completes (.clearingRead (.bar2 p) a 4) s (fun b => b = { s.b with out := s.b.out ++ [.bar2Read p a ((s.b.gable p).reg a)], mem := b.mem } ∧ b.memKept s.b))

/-- While the block serves tenants, a setting write sets a tenant's stack quota when it is at most 786,432 sheets, its Felt quota when it is at most 3,072, its far quota, its priority ceiling, or the sensor select, and nothing else: no object is moved and no queued item changes. A sampler write sets the period unless it is zero and restarts every slot's difference, sets a slot's address and restarts that slot, and sets the enable, whose rise restarts every slot. Outside OPEN and MAINTENANCE nothing changes. (R139, R140, R141, R504) -/
def Obligations.RuntimeSettings : Prop :=
  (∀ (s : State) (t : Nat) (v : Word), s.b.serving = true → t < 16 → s.b.vat.tenants.length = 16 →
    completes (.runtimeSettingWrite (0x5040 + 16 * t) v) s (fun b => b.tenant t = (if v.toNat ≤ 786432 then { s.b.tenant t with quotaHbm := v.toNat } else s.b.tenant t) ∧
      (∀ u, u ≠ t → b.tenant u = s.b.tenant u) ∧ b = { s.b with vat := { s.b.vat with tenants := b.vat.tenants }, mem := b.mem } ∧ b.memKept s.b) ∧
    completes (.runtimeSettingWrite (0x5044 + 16 * t) v) s (fun b => b.tenant t = (if v.toNat % 4096 ≤ 3072 then { s.b.tenant t with quotaFelt := v.toNat % 4096 } else s.b.tenant t) ∧
      (∀ u, u ≠ t → b.tenant u = s.b.tenant u) ∧ b = { s.b with vat := { s.b.vat with tenants := b.vat.tenants }, mem := b.mem } ∧ b.memKept s.b) ∧
    completes (.runtimeSettingWrite (0x5048 + 16 * t) v) s (fun b => b.tenant t = { s.b.tenant t with quotaFar := v.toNat % 65536 } ∧
      (∀ u, u ≠ t → b.tenant u = s.b.tenant u) ∧ b = { s.b with vat := { s.b.vat with tenants := b.vat.tenants }, mem := b.mem } ∧ b.memKept s.b) ∧
    completes (.runtimeSettingWrite (0x200040 + 4 * t) v) s (fun b => b.tenant t = { s.b.tenant t with prioMax := v.toNat % 8 } ∧
      (∀ u, u ≠ t → b.tenant u = s.b.tenant u) ∧ b = { s.b with vat := { s.b.vat with tenants := b.vat.tenants }, mem := b.mem } ∧ b.memKept s.b)) ∧
  (∀ (s : State) (v : Word), s.b.serving = true →
    completes (.runtimeSettingWrite 0x202C v) s (fun b => b = { s.b with cal := { s.b.cal with sel := v.toNat % 64 }, mem := b.mem } ∧ b.memKept s.b)) ∧
  (∀ (s : State) (v : Word), s.b.serving = true → v.toNat % 2 ^ 24 ≠ 0 →
    completes (.telemetryConfigWrite 0x6004 v) s (fun b => b = { s.b with tel := { s.b.tel with period := v.toNat % 2 ^ 24, sampleAt := s.b.now, slots := s.b.tel.slots.map (fun x => { x with prev := none }) }, mem := b.mem } ∧ b.memKept s.b)) ∧
  (∀ (s : State) (v : Word), s.b.serving = true → v.toNat % 2 = 1 → s.b.tel.enable = false →
    completes (.telemetryConfigWrite 0x6000 v) s (fun b => b = { s.b with tel := { s.b.tel with enable := true, sampleAt := s.b.now, slots := s.b.tel.slots.map (fun x => { x with prev := none }) }, mem := b.mem } ∧ b.memKept s.b)) ∧
  (∀ (s : State) (i : Nat) (v : Word), s.b.serving = true → i < 16 → v.toNat % 4 = 0 →
    completes (.telemetryConfigWrite (0x6100 + 16 * i) v) s (fun b => b = { s.b with tel := { s.b.tel with slots := modAt s.b.tel.slots i (fun x => { x with sel := BitVec.ofNat 32 (v.toNat % 2 ^ 22), prev := none }) }, mem := b.mem } ∧ b.memKept s.b)) ∧
  (∀ (s : State) (v : Word), s.b.serving = true → v.toNat % 2 = 0 →
    completes (.telemetryConfigWrite 0x6000 v) s (fun b => b = { s.b with tel := { s.b.tel with enable := false }, mem := b.mem } ∧ b.memKept s.b)) ∧
  (∀ (s : State) (a : Nat) (v : Word), s.b.serving = false → ∀ c ∈ [Instr.runtimeSettingWrite a v, .telemetryConfigWrite a v],
    completes c s (fun b => b = { s.b with mem := b.mem } ∧ b.memKept s.b))

/-- While enabled and once TEL_PERIOD × 2,000 CK_MGMT cycles have passed since the last sample, every slot that names an RC or RO register takes the twin's or the register's value at one edge into TEL_VAL, the difference from the previous sample modulo 2^32 into TEL_DELTA (zero for the first sample after a restart), and the larger of TEL_MAX and that difference into TEL_MAX; TEL_SEQ counts up by one and TEL_TIME is written. Any other slot reads zero in all three. Before the period has passed, and while disabled, nothing changes; no other part of the block changes. (R503) -/
def Obligations.TelemetrySample : Prop :=
  (∀ (s : State), s.b.tel.enable = true → s.b.tel.sampleAt + 2000 * s.b.tel.period ≤ s.b.now →
    completes .telemetrySample s (fun b => b.tel.seq = s.b.tel.seq + 1#32 ∧ b.tel.time = s.b.mgmtTime ∧ b.tel.slots.length = s.b.tel.slots.length ∧ b.tel.sampleAt = s.b.now ∧
      (∀ (i : Nat) (x : TelSlot), s.b.tel.slots[i]? = some x → ∃ y, b.tel.slots[i]? = some y ∧ y.sel = x.sel ∧
        (∀ w, s.b.sampled x.sel.toNat = some w → y.val = w ∧ y.prev = some w ∧ y.delta = (match x.prev with | some p => w - p | none => 0#32) ∧
          y.max.toNat = max x.max.toNat y.delta.toNat) ∧
        (s.b.sampled x.sel.toNat = none → y.val = 0#32 ∧ y.delta = 0#32 ∧ y.max = 0#32)) ∧
      b = { s.b with tel := b.tel, mem := b.mem } ∧ b.memKept s.b)) ∧
  (∀ (s : State), (s.b.tel.enable = false ∨ s.b.now < s.b.tel.sampleAt + 2000 * s.b.tel.period) →
    completes .telemetrySample s (fun b => b = { s.b with mem := b.mem } ∧ b.memKept s.b))

/-- A packet whose number is the stream's next, with no FENCE of its stream in the way, is admitted and its number is live: a plain packet takes its place behind those admitted, a link of a RUN or TILE chain joins the chain, a RUN with a free handle in an OPEN block without a drain opens its run, and a TILE of an open run takes its place. One that is ahead by less than 1,024, or that a FENCE holds, is held, with room in the tenant's Gutter; one below next or already held is discarded as a duplicate, one 1,024 or more ahead as out of range, one of a BROKEN stream, and one that fails its header checks with RANGE: none of those changes a stream. A packet from a source that no enabled tenant owns is dropped with bit 4 of FLS_SRC_ERR. Each leaves the arrivals, and memory, other runs and the other streams stay. (R143, R147, R148, R149, R150, R151, R154, R156, R158, R160, R165, R176) -/
def Obligations.PacketArrivals : Prop :=
  (∀ (s : State) (src t : Nat) (p : Pkt), s.b.inq.find? (fun q => q.src = src) = some p → s.b.owner src = some t → p.op ≠ 0x0B → s.b.headerOk t p = true →
    (s.b.strm t p.stream).broken = false → p.seq = (s.b.strm t p.stream).next → (s.b.strm t p.stream).fenced = false → (s.b.strm t p.stream).chain = [] → (s.b.strm t p.stream).held = [] →
    (p.more = false → joined p.op = false → (t = 0 ∨ (p.op ≠ 0x0C ∧ p.op ≠ 0x0D)) →
      completes (.packetArrival src []) s (fun b => b.inq = s.b.inq.erase p ∧ (b.strm t p.stream).next = p.seq + 1 ∧ (b.strm t p.stream).held = [] ∧ (b.strm t p.stream).chain = [] ∧
        (b.strm t p.stream).live = (s.b.strm t p.stream).live ++ [p.seq] ∧ (b.strm t p.stream).adm = (s.b.strm t p.stream).adm ++ [p] ∧
        (∀ u v, (u, v) ≠ (t, p.stream) → b.strm u v = s.b.strm u v) ∧ b = { s.b with inq := b.inq, streams := b.streams, mem := b.mem } ∧ b.memKept s.b)) ∧
    (p.more = true → (p.op = 0x04 ∨ p.op = 0x06) →
      completes (.packetArrival src []) s (fun b => b.inq = s.b.inq.erase p ∧ (b.strm t p.stream).next = p.seq + 1 ∧ (b.strm t p.stream).chain = [p] ∧
        (b.strm t p.stream).live = (s.b.strm t p.stream).live ++ [p.seq] ∧ (b.strm t p.stream).adm = (s.b.strm t p.stream).adm ∧
        (∀ u v, (u, v) ≠ (t, p.stream) → b.strm u v = s.b.strm u v) ∧ b = { s.b with inq := b.inq, streams := b.streams, mem := b.mem } ∧ b.memKept s.b)) ∧
    (p.more = false → p.op = 0x04 → s.b.start.state = .opened → s.b.start.drainAt = none → s.b.findRun { tenant := t, handle := p.arg 0 } = none →
      completes (.packetArrival src []) s (fun b => b.inq = s.b.inq.erase p ∧ (b.strm t p.stream).next = p.seq + 1 ∧ (b.strm t p.stream).adm = (s.b.strm t p.stream).adm ++ [p] ∧
        (b.strm t p.stream).live = (s.b.strm t p.stream).live ++ [p.seq] ∧ b.runOrder = s.b.runOrder + 1 ∧
        (∃ r, b.runs = s.b.runs ++ [r] ∧ r.ref = { tenant := t, handle := p.arg 0 } ∧ r.src = p.src0 ∧ r.desc = p.payload ∧ r.phase = .waiting ∧ r.queued = false ∧ r.killed = none ∧ r.order = s.b.runOrder ∧
          r.nstage = descStages p.payload ∧ r.prio = wfield (wordAt p.payload 2) 0 3 ∧ r.stations = []) ∧
        b = { s.b with inq := b.inq, streams := b.streams, runs := b.runs, runOrder := b.runOrder, ended := b.ended, mem := b.mem } ∧ b.memKept s.b)) ∧
    (p.more = false → p.op = 0x06 → (s.b.findRun { tenant := t, handle := p.arg 0 }).isSome = true →
      completes (.packetArrival src []) s (fun b => b.inq = s.b.inq.erase p ∧ (b.strm t p.stream).next = p.seq + 1 ∧ (b.strm t p.stream).adm = (s.b.strm t p.stream).adm ++ [p] ∧
        (b.strm t p.stream).live = (s.b.strm t p.stream).live ++ [p.seq] ∧ b = { s.b with inq := b.inq, streams := b.streams, mem := b.mem } ∧ b.memKept s.b))) ∧
  (∀ (s : State) (src t : Nat) (p : Pkt), s.b.inq.find? (fun q => q.src = src) = some p → s.b.owner src = some t → p.op ≠ 0x0B → s.b.headerOk t p = true →
    (s.b.strm t p.stream).broken = false → ((s.b.strm t p.stream).next < p.seq ∨ (p.seq = (s.b.strm t p.stream).next ∧ (s.b.strm t p.stream).fenced = true)) →
    p.seq < (s.b.strm t p.stream).next + 1024 → (s.b.strm t p.stream).held.any (fun h => h.seq = p.seq) = false → s.b.isHeld t (.admission p.stream) = false →
    1 + needsPage (s.b.strm t p.stream).held.length ((s.b.strm t p.stream).held.length + 1) ≤ s.b.gutterFree t →
    completes (.packetArrival src []) s (fun b => b.inq = s.b.inq.erase p ∧ (b.strm t p.stream).held = (s.b.strm t p.stream).held ++ [p] ∧
      (b.strm t p.stream).next = (s.b.strm t p.stream).next ∧ (b.strm t p.stream).adm = (s.b.strm t p.stream).adm ∧
      ((s.b.strm t p.stream).next < p.seq → (s.b.strm t p.stream).held = [] → (b.strm t p.stream).gapAt.isSome = true) ∧
      (∀ u v, (u, v) ≠ (t, p.stream) → b.strm u v = s.b.strm u v) ∧ b = { s.b with inq := b.inq, streams := b.streams, ctrs := b.ctrs, mem := b.mem } ∧ b.memKept s.b)) ∧
  (∀ (s : State) (src t : Nat) (p : Pkt), s.b.inq.find? (fun q => q.src = src) = some p → s.b.owner src = some t → p.op ≠ 0x0B →
    (s.b.headerOk t p = false ∨ (s.b.strm t p.stream).broken = true ∨ p.seq < (s.b.strm t p.stream).next ∨ (s.b.strm t p.stream).next + 1024 ≤ p.seq ∨
      ((s.b.strm t p.stream).next < p.seq ∧ (s.b.strm t p.stream).held.any (fun h => h.seq = p.seq) = true)) →
    completes (.packetArrival src []) s (fun b => b.inq = s.b.inq.erase p ∧ b.streams = s.b.streams ∧ b.runs = s.b.runs ∧ b.vat = s.b.vat ∧ b.reads = s.b.reads ∧ b.memKept s.b ∧
      (s.b.headerOk t p = false → wbit (b.err (Map.flsSrcErr src)) 0 = true ∧ b.ctr Map.flsRangeCnt = s.b.ctr Map.flsRangeCnt + 1#32) ∧
      (s.b.headerOk t p = true → (s.b.strm t p.stream).broken = false → wbit (b.err (Map.flsSrcErr src)) 1 = true ∧ b.ctr Map.flsSeqCnt = s.b.ctr Map.flsSeqCnt + 1#32))) ∧
  (∀ (s : State) (src : Nat) (p : Pkt), s.b.inq.find? (fun q => q.src = src) = some p → s.b.owner src = none →
    completes (.packetArrival src []) s (fun b => b.inq = s.b.inq.erase p ∧ wbit (b.err (Map.flsSrcErr src)) 4 = true ∧ b.streams = s.b.streams ∧ b.runs = s.b.runs ∧ b.memKept s.b))

/-- Each acts on the packet at the front of its stream when no FENCE holds it, and its numbers are then no longer live. A WRITE into one sound sector of Felt writes exactly its payload, and every other byte of memory reads as before; a NOP changes nothing. A READ of one sound sector of Felt takes up exactly the bytes of memory as its data; a READ whose reads the Eaves have all answered goes on by 4,032 bytes, and with at most that many left it ends, failed or not; while its source's response ring is full it waits. A NOP or a WRITE that asked for no record sends none. (R63, R152, R153, R164, R165, R385, R388, R513) -/
def Obligations.PacketDataMoves : Prop :=
  (∀ (s : State) (t strm : Nat) (p : Pkt), s.b.front t strm 0x0E = some p → p.cpl = false → p.stream = strm →
    completes (.nop t strm) s (fun b => (b.strm t strm).adm = (s.b.strm t strm).adm.drop 1 ∧
      (b.strm t strm).live = dropLive p.nums (s.b.strm t strm).live ∧
      (∀ u v, (u, v) ≠ (t, strm) → b.strm u v = s.b.strm u v) ∧ b = { s.b with streams := b.streams, mem := b.mem } ∧ b.memKept s.b)) ∧
  (∀ (s : State) (t strm pa : Nat) (p : Pkt), s.memSound → s.b.front t strm 0x01 = some p → p.cpl = false → p.stream = strm → 1 ≤ p.payload.length → p.addr % 64 + p.payload.length ≤ 64 →
    s.b.vat.translate t p.addr .store = .ok pa → regionOf pa = 1 → s.b.stays t p.addr → s.b.feltBadIn pa p.payload.length = [] → (∀ k, (s.b.eave k).par = []) →
    completes (.write t strm []) s (fun b => (∀ a, b.byteAt a = if pa ≤ a ∧ a < pa + p.payload.length then p.payload.getD (a - pa) 0#8 else s.b.byteAt a) ∧
      (b.strm t strm).adm = (s.b.strm t strm).adm.drop 1 ∧ (b.strm t strm).live = dropLive p.nums (s.b.strm t strm).live ∧
      (∀ u v, (u, v) ≠ (t, strm) → b.strm u v = s.b.strm u v) ∧
      b = { s.b with streams := b.streams, vat := b.vat, ctrs := b.ctrs, feltBad := b.feltBad, mem := b.mem })) ∧
  (∀ (s : State) (t strm pa : Nat) (p : Pkt), s.b.front t strm 0x02 = some p → 1 ≤ (p.arg 0).toNat → p.addr % 64 + (p.arg 0).toNat ≤ 64 →
    s.b.vat.translate t p.addr .load = .ok pa → regionOf pa = 1 → s.b.stays t p.addr → s.b.feltBadIn pa (p.arg 0).toNat = [] →
    completes (.read t strm []) s (fun b => b.reads = s.b.reads ++ [{ tenant := t, pkt := p, data := s.b.mem.readN pa (p.arg 0).toNat, off := 0, fail := none, todo := [] }] ∧
      (b.strm t strm).adm = (s.b.strm t strm).adm.drop 1 ∧ (b.strm t strm).live = (s.b.strm t strm).live ∧
      b = { s.b with streams := b.streams, reads := b.reads, vat := b.vat, ctrs := b.ctrs, mem := b.mem } ∧ b.memKept s.b)) ∧
  (∀ (s : State) (i : Nat) (j : ReadJob), s.b.reads[i]? = some j → j.todo = [] → s.b.readsOut j.req = false → s.b.ringDenies j.pkt.src = false → j.data.length ≤ j.off + 4032 →
    completes (.readData i) s (fun b => b.reads = s.b.reads.eraseIdx i ∧
      (b.strm j.tenant j.pkt.stream).live = dropLive j.pkt.nums (s.b.strm j.tenant j.pkt.stream).live ∧
      (∀ u v, (u, v) ≠ (j.tenant, j.pkt.stream) → b.strm u v = s.b.strm u v) ∧ b.runs = s.b.runs ∧ b.vat = s.b.vat ∧ b.memKept s.b)) ∧
  (∀ (s : State) (i : Nat) (j : ReadJob), s.b.reads[i]? = some j → j.todo = [] → s.b.readsOut j.req = false → s.b.ringDenies j.pkt.src = false → j.off + 4032 < j.data.length →
    completes (.readData i) s (fun b => b.reads[i]? = some { j with off := j.off + 4032 } ∧ b.reads.length = s.b.reads.length ∧ b.streams = s.b.streams ∧ b.runs = s.b.runs ∧ b.memKept s.b)) ∧
  (∀ (s : State) (i : Nat) (j : ReadJob), s.b.reads[i]? = some j → j.todo = [] → s.b.ringDenies j.pkt.src = true →
    completes (.readData i) s (fun b => b = { s.b with mem := b.mem } ∧ b.memKept s.b))

/-- A FENCE whose target has been reached leaves its stream, at once or as soon as the target is reached, and the packets that it held are admitted behind those admitted before; with none held and no record asked for, nothing else changes. One whose target has not been reached holds its stream and stays at the front. A FENCE on a BROKEN stream, or one that failed before it began, leaves at once. No byte of memory changes. (R48, R152, R153, R154, R155) -/
def Obligations.Fences : Prop :=
  (∀ (s : State) (t strm : Nat) (p : Pkt), s.b.front t strm 0x03 = some p → p.stream = strm → s.b.fenceReached t p = true → (s.b.strm t strm).fenceFail = false →
    (p.fenceSeat = true ∨ (s.b.strm t p.fenceTarget).broken = false) →
    completes (.fence t strm) s (fun b => (∃ l, (b.strm t strm).adm = (s.b.strm t strm).adm.drop 1 ++ l) ∧ (b.strm t strm).fencing = false ∧ b.memKept s.b ∧
      (p.cpl = false → (s.b.strm t strm).held = [] → (b.strm t strm).adm = (s.b.strm t strm).adm.drop 1 ∧ (b.strm t strm).live = dropLive p.nums (s.b.strm t strm).live ∧
        b = { s.b with streams := b.streams, mem := b.mem }))) ∧
  (∀ (s : State) (t strm : Nat) (p : Pkt), s.b.front t strm 0x03 = some p → s.b.fenceReached t p = false → (s.b.strm t strm).fenceFail = false → (p.fenceSeat = true ∨ (s.b.strm t p.fenceTarget).broken = false) →
    completes (.fence t strm) s (fun b => (b.strm t strm).adm = (s.b.strm t strm).adm ∧ (b.strm t strm).fencing = true ∧ (b.strm t strm).live = (s.b.strm t strm).live ∧
      b = { s.b with streams := b.streams, mem := b.mem } ∧ b.memKept s.b)) ∧
  (∀ (s : State) (t strm : Nat) (p : Pkt) (l : List Pkt), (s.b.strm t strm).adm = p :: l → (s.b.strm t strm).fencing = true → p.stream = strm → s.b.fenceReached t p = true →
    completes (.fenceTargetReached t strm) s (fun b => (∃ m, (b.strm t strm).adm = l ++ m) ∧ (b.strm t strm).fencing = false ∧ (b.strm t strm).fenceFail = false ∧ b.memKept s.b ∧
      (p.cpl = false → (s.b.strm t strm).held = [] → (b.strm t strm).adm = l ∧ (b.strm t strm).live = dropLive p.nums (s.b.strm t strm).live ∧ b = { s.b with streams := b.streams, mem := b.mem }))) ∧
  (∀ (s : State) (t strm : Nat) (p : Pkt) (l : List Pkt), (s.b.strm t strm).adm = p :: l → (s.b.strm t strm).fencing = true → s.b.fenceReached t p = false →
    completes (.fenceTargetReached t strm) s (fun b => b = { s.b with mem := b.mem } ∧ b.memKept s.b)) ∧
  (∀ (s : State) (t strm : Nat) (p : Pkt), s.b.front t strm 0x03 = some p → p.stream = strm → ((s.b.strm t strm).fenceFail = true ∨ (p.fenceSeat = false ∧ (s.b.strm t p.fenceTarget).broken = true)) →
    completes (.fence t strm) s (fun b => (∃ l, (b.strm t strm).adm = (s.b.strm t strm).adm.drop 1 ++ l) ∧ (b.strm t strm).fencing = false ∧ (b.strm t strm).fenceFail = false ∧ b.memKept s.b))

/-- When a stream's gap timer has run the stream is BROKEN, FLS_BREAK_CNT has counted, and every run of the tenant with a GATE input on it is killed; its held packets are gone, and packets already admitted stay. A STREAM_RESET in range takes its own number as the stream's next; the stream is whole again with nothing held and no chain, packets already admitted stay, and the reset holds no number. What happens to held packets and streams is stated where no FENCE names the stream: FENCEs that do end at the same time. No byte of memory changes. (R10, R155, R156, R157, R158, R159) -/
def Obligations.StreamBreaks : Prop :=
  (∀ (s : State) (t strm t0 : Nat) (g : Image), (s.b.strm t strm).gapAt = some t0 → s.b.start.img = some g → g.gapTo ≤ s.b.ctlSince t0 →
    completes (.streamGapTimeout t strm) s (fun b => (b.strm t strm).broken = true ∧ b.ctr Map.flsBreakCnt = s.b.ctr Map.flsBreakCnt + 1#32 ∧
      (∀ r ∈ b.runs, r.ref.tenant = t → (descGateStreams r.desc).contains strm = true → r.killed.isSome = true) ∧ b.vat = s.b.vat ∧ b.start = s.b.start ∧ b.memKept s.b ∧
      (s.b.unfenced t strm → (b.strm t strm).held = [] ∧ (b.strm t strm).gapAt = none ∧ (b.strm t strm).adm = (s.b.strm t strm).adm ∧ (b.strm t strm).next = (s.b.strm t strm).next ∧
        (∀ u v, (u, v) ≠ (t, strm) → b.strm u v = s.b.strm u v)))) ∧
  (∀ (s : State) (src t : Nat) (p : Pkt), s.b.inq.find? (fun q => q.src = src) = some p → s.b.owner src = some t → p.op = 0x0B → s.b.headerOk t p = true → p.more = false → s.b.unfenced t p.stream →
    completes (.streamReset src) s (fun b => (b.strm t p.stream).next = p.seq ∧ (b.strm t p.stream).broken = false ∧ (b.strm t p.stream).held = [] ∧ (b.strm t p.stream).chain = [] ∧
      (b.strm t p.stream).adm = (s.b.strm t p.stream).adm ∧ (∀ u v, (u, v) ≠ (t, p.stream) → b.strm u v = s.b.strm u v) ∧ b.inq = s.b.inq.erase p ∧ b.runs = s.b.runs ∧ b.vat = s.b.vat ∧ b.memKept s.b ∧
      ((s.b.strm t p.stream).held = [] → (s.b.strm t p.stream).chain = [] → p.cpl = false →
        (b.strm t p.stream).live = (s.b.strm t p.stream).live ∧ b = { s.b with inq := b.inq, streams := b.streams, mem := b.mem })))

/-- A REG_READ leaves its stream and clears an RC register that it reads, without its twin; it changes no other register. A REG_WRITE to a quota of the runtime-writable set writes it. A REG_WRITE of ENTER_MAINT to START_CMD in OPEN begins a drain. A REG_WRITE to any other register is denied: it writes nothing and sets bit 3 of FLS_SRC_ERR. Memory stays. (R139, R142, R145, R512) -/
def Obligations.RegisterPackets : Prop :=
  (∀ (s : State) (strm : Nat) (p : Pkt), s.b.front 0 strm 0x0C = some p → p.stream = strm → p.cpl = false → regAccess (p.arg 0).toNat = some .rc → telMaxSlot (p.arg 0).toNat = none →
    completes (.regRead strm) s (fun b => (b.strm 0 strm).adm = (s.b.strm 0 strm).adm.drop 1 ∧ b.ctr (p.arg 0).toNat = 0#32 ∧ b.sampled (p.arg 0).toNat = s.b.sampled (p.arg 0).toNat ∧
      (∀ x, x ≠ (p.arg 0).toNat → b.ctr x = s.b.ctr x) ∧ b = { s.b with streams := b.streams, ctrs := b.ctrs, mem := b.mem } ∧ b.memKept s.b)) ∧
  (∀ (s : State) (strm : Nat) (p : Pkt), s.b.front 0 strm 0x0C = some p → p.stream = strm → p.cpl = false → regAccess (p.arg 0).toNat ≠ some .rc →
    completes (.regRead strm) s (fun b => (b.strm 0 strm).adm = (s.b.strm 0 strm).adm.drop 1 ∧ b = { s.b with streams := b.streams, mem := b.mem } ∧ b.memKept s.b)) ∧
  (∀ (s : State) (strm u : Nat) (p : Pkt), s.b.front 0 strm 0x0D = some p → p.stream = strm → p.cpl = false → s.b.serving = true → u < 16 → s.b.vat.tenants.length = 16 →
    (p.arg 0).toNat = 0x5048 + 16 * u →
    completes (.regWrite strm) s (fun b => (b.strm 0 strm).adm = (s.b.strm 0 strm).adm.drop 1 ∧ b.tenant u = { s.b.tenant u with quotaFar := (p.arg 1).toNat % 65536 } ∧
      (∀ v, v ≠ u → b.tenant v = s.b.tenant v) ∧ b = { s.b with streams := b.streams, vat := { s.b.vat with tenants := b.vat.tenants }, mem := b.mem } ∧ b.memKept s.b)) ∧
  (∀ (s : State) (strm : Nat) (p : Pkt), s.b.front 0 strm 0x0D = some p → p.stream = strm → (p.arg 0).toNat = 0x1010 → p.arg 1 = 0x4B4C00A2#32 → s.b.pins.pwrGood = true →
    s.b.start.state = .opened → s.b.start.drainAt = none →
    completes (.regWrite strm) s (fun b => (b.strm 0 strm).adm = (s.b.strm 0 strm).adm.drop 1 ∧ b.start = { s.b.start with lastCmd := 1, drainAt := some s.b.now } ∧
      (∀ r ∈ b.runs, r.phase = .waiting → r.killed.isSome = true) ∧ b.vat = s.b.vat ∧ b.memKept s.b)) ∧
  (∀ (s : State) (strm : Nat) (p : Pkt), s.b.front 0 strm 0x0D = some p → p.stream = strm → (p.arg 0).toNat ≠ 0x1010 → runtimeSet (p.arg 0).toNat = false →
    completes (.regWrite strm) s (fun b => (b.strm 0 strm).adm = (s.b.strm 0 strm).adm.drop 1 ∧ wbit (b.err (Map.flsSrcErr p.src)) 3 = true ∧ b.start = s.b.start ∧ b.cal = s.b.cal ∧
      b.tel = s.b.tel ∧ b.vat = s.b.vat ∧ b.screen = s.b.screen ∧ b.memKept s.b))

/-- An ALLOC that the Vatman places adds one object with the base, pages, class and rights asked for, and its sheets; one that the Vatman refuses places nothing and sets VAT_ERR bit 3; one of class FELT that fits the tenant's quota, the preferred field's pool and the residency map is placed whole there. One that overlaps an object of the tenant or runs past 48 bits is DENIED, one whose layout is broken fails, and neither places anything. A FREE of an object's base takes the object and its sheets away, and with no page-in waiting for room nothing else of placement but empty rows, ranges and translations changes; another address is UNMAPPED and changes no object. A HINT record that breaks its layout or leaves the tenant's objects is counted as dropped and sets VAT_ERR bit 1; a prefetch record with an evicted sheet adds its range, a spar record within the bound spares the range's sheets, and an unspar record ends that. (R17, R394, R395, R396, R397, R399, R405, R407, R408) -/
def Obligations.ObjectPackets : Prop :=
  (∀ (s : State) (t strm pref : Nat) (p : Pkt), s.b.front t strm 0x07 = some p → p.stream = strm → allocBad p.addr p.payload = none →
    pref = (if wfield (wordAt p.payload 0) 4 4 = 15 then srcField p.src else wfield (wordAt p.payload 0) 4 4) →
    p.addr + ceilDiv (wordAt p.payload 1).toNat 512 * sheetBytes ≤ 2 ^ 48 → (wfield (wordAt p.payload 0) 0 4 = 6 → s.b.parityOn = true) →
    s.b.vat.objs.any (fun o => decide (o.tenant = t ∧ o.base < p.addr + ceilDiv (wordAt p.payload 1).toNat 512 * sheetBytes ∧ p.addr < o.top)) = false →
    (∀ b1 placed field outside, (s.b.popFront t strm).decideAlloc t p.addr (wordAt p.payload 0) (wordAt p.payload 1).toNat pref = .ok b1 placed field outside →
      completes (.alloc t strm) s (fun b => (b.strm t strm).adm = (s.b.strm t strm).adm.drop 1 ∧ b.vat = b1.vat ∧ b.runs = s.b.runs ∧
        (∃ o, b.vat.objs = s.b.vat.objs ++ [o] ∧ o.tenant = t ∧ o.base = p.addr ∧ o.pages = (wordAt p.payload 1).toNat ∧ o.cls = wfield (wordAt p.payload 0) 0 4 ∧
          o.rd = wbit (wordAt p.payload 0) 8 ∧ o.wr = wbit (wordAt p.payload 0) 9 ∧ o.ex = wbit (wordAt p.payload 0) 10) ∧
        b.vat.sheets.length = s.b.vat.sheets.length + ceilDiv (wordAt p.payload 1).toNat 512)) ∧
    (∀ reason, (s.b.popFront t strm).decideAlloc t p.addr (wordAt p.payload 0) (wordAt p.payload 1).toNat pref = .quota reason →
      completes (.alloc t strm) s (fun b => (b.strm t strm).adm = (s.b.strm t strm).adm.drop 1 ∧ b.vat = s.b.vat ∧ wbit (b.err Map.vatErr) 3 = true ∧ b.runs = s.b.runs ∧ b.memKept s.b)) ∧
    (∀ felt, wfield (wordAt p.payload 0) 0 4 = 3 → p.cpl = false →
      (wordAt p.payload 1).toNat ≤ s.b.poolFree pref → 0 < s.b.poolPages pref → pref < 8 → s.b.takeFelt pref (wordAt p.payload 1).toNat = some felt →
      s.b.useFelt t + (wordAt p.payload 1).toNat ≤ (s.b.tenant t).quotaFelt * 256 → s.b.mapUsed + ceilDiv (wordAt p.payload 1).toNat 512 ≤ 1048576 →
      completes (.alloc t strm) s (fun b => (∃ o, b.vat.objs = s.b.vat.objs ++ [o] ∧ o.placed = 3 ∧ o.felt = felt ∧ o.feltTouched = [] ∧ o.field = pref) ∧
        b = { s.b with streams := b.streams, vat := { s.b.vat with objs := b.vat.objs, sheets := b.vat.sheets }, mem := b.mem } ∧ b.memKept s.b))) ∧
  (∀ (s : State) (t strm : Nat) (p : Pkt), s.b.front t strm 0x07 = some p → p.stream = strm →
    ((allocBad p.addr p.payload).isSome = true ∨ 2 ^ 48 < p.addr + ceilDiv (wordAt p.payload 1).toNat 512 * sheetBytes ∨
      s.b.vat.objs.any (fun o => decide (o.tenant = t ∧ o.base < p.addr + ceilDiv (wordAt p.payload 1).toNat 512 * sheetBytes ∧ p.addr < o.top)) = true) →
    completes (.alloc t strm) s (fun b => (b.strm t strm).adm = (s.b.strm t strm).adm.drop 1 ∧ b.vat = s.b.vat ∧ b.runs = s.b.runs ∧ b.memKept s.b)) ∧
  (∀ (s : State) (t strm : Nat) (p : Pkt) (o : Obj), s.b.front t strm 0x08 = some p → p.stream = strm →
    s.b.vat.objs.find? (fun o => decide (o.tenant = t ∧ o.base = p.addr) && o.owned) = some o →
    completes (.free t strm) s (fun b => (b.strm t strm).adm = (s.b.strm t strm).adm.drop 1 ∧ o ∉ b.vat.objs ∧ (∀ x ∈ s.b.vat.objs, x ≠ o → x ∈ b.vat.objs) ∧
      (∀ x ∈ b.vat.sheets, ¬ (x.tenant = t ∧ o.base / sheetBytes ≤ x.num ∧ x.num < o.base / sheetBytes + ceilDiv o.pages 512)) ∧ b.runs = s.b.runs ∧
      (p.cpl = false → (∀ x ∈ s.b.vat.sheets, x.waits = false) → (∀ x ∈ b.vat.sheets, x ∈ s.b.vat.sheets) ∧
        b = { s.b with streams := b.streams, vat := { s.b.vat with objs := b.vat.objs, sheets := b.vat.sheets, ranges := b.vat.ranges, xlate := b.vat.xlate, rows := b.vat.rows }, mem := b.mem } ∧ b.memKept s.b))) ∧
  (∀ (s : State) (t strm : Nat) (p : Pkt), s.b.front t strm 0x08 = some p → p.stream = strm →
    s.b.vat.objs.find? (fun o => decide (o.tenant = t ∧ o.base = p.addr) && o.owned) = none →
    completes (.free t strm) s (fun b => (b.strm t strm).adm = (s.b.strm t strm).adm.drop 1 ∧ b.vat = s.b.vat ∧ b.memKept s.b)) ∧
  (∀ (s : State) (t strm base n : Nat) (p : Pkt), s.b.front t strm 0x09 = some p → p.stream = strm → p.cpl = false → p.payload.length = 32 →
    base = (wordAt p.payload 1).toNat + 2 ^ 32 * wfield (wordAt p.payload 2) 0 16 → n = wfield (wordAt p.payload 3) 0 16 →
    ((hintOk p.payload = false ∨ s.b.vat.covers t base n = false) →
      completes (.hint t strm) s (fun b => (b.strm t strm).adm = (s.b.strm t strm).adm.drop 1 ∧ b.vat = s.b.vat ∧ wbit (b.err Map.vatErr) 1 = true ∧
        b.ctr Map.vatHintDrop = s.b.ctr Map.vatHintDrop + 1#32 ∧ b.runs = s.b.runs ∧ b.memKept s.b)) ∧
    (hintOk p.payload = true → s.b.vat.covers t base n = true →
      ((wfield (wordAt p.payload 0) 0 8 ≤ 2 → s.b.vat.notResident t base n ≠ [] → (s.b.vat.ranges.filter (fun x => x.tenant = t)).length < 4096 →
        completes (.hint t strm) s (fun b => (b.strm t strm).adm = (s.b.strm t strm).adm.drop 1 ∧
          b.vat.ranges = s.b.vat.ranges ++ [{ tenant := t, base := base, len := n, conf := wfield (wordAt p.payload 0) 8 8, deadline := wordAt p.payload 4, order := s.b.vat.order }] ∧
          b.vat.objs = s.b.vat.objs ∧ b.ctr Map.vatHintCnt = s.b.ctr Map.vatHintCnt + 1#32 ∧ b.runs = s.b.runs ∧ b.memKept s.b)) ∧
      (wfield (wordAt p.payload 0) 0 8 = 3 → 8 * (s.b.vat.spars + (s.b.vat.newSpars t base n).length) ≤ 7 * s.b.stackSheets →
        completes (.hint t strm) s (fun b => (b.strm t strm).adm = (s.b.strm t strm).adm.drop 1 ∧ b.ctr Map.vatHintCnt = s.b.ctr Map.vatHintCnt + 1#32 ∧ b.vat.objs = s.b.vat.objs ∧ b.runs = s.b.runs ∧
          ∀ i x, base / sheetBytes ≤ i → i < base / sheetBytes + n → b.vat.sheet t i = some x → x.inFelt = false → x.spar = true)) ∧
      (wfield (wordAt p.payload 0) 0 8 = 4 →
        completes (.hint t strm) s (fun b => (b.strm t strm).adm = (s.b.strm t strm).adm.drop 1 ∧ b.ctr Map.vatHintCnt = s.b.ctr Map.vatHintCnt + 1#32 ∧ b.vat.objs = s.b.vat.objs ∧ b.runs = s.b.runs ∧ b.memKept s.b ∧
          ∀ x ∈ b.vat.sheets, x.tenant = t → base / sheetBytes ≤ x.num → x.num < base / sheetBytes + n → x.spar = true →
            (s.b.vat.findObj t (x.num * sheetBytes)).any (fun o => decide (o.cls = 4)) = true)))))

/-- A RUN at the front of its stream takes its place in the queue for launch, and its number stays live; one that is admitted outside OPEN or in a drain opens no run. A RUN_KILL of an open run kills it with status 0x15. A TILE of a run that has ended or been killed leaves its stream and changes no run; one for a station of a stage that has not begun, or whose GATE input still waits for its ring, stays at the front; a TILE that keeps its format reaches its GATE input, which counts it, and one that does not kills its run with status 0x21. Nothing else of the tenant's streams and no byte of memory changes. (R148, R152, R161, R162, R165, R176, R177, R179, R184, R189, R190, R191) -/
def Obligations.RunPackets : Prop :=
  (∀ (s : State) (t strm : Nat) (p : Pkt) (r : Run), s.b.front t strm 0x04 = some p → s.b.findRun { tenant := t, handle := p.arg 0 } = some r → r.pkt = p →
    completes (.run t strm) s (fun b => (b.strm t strm).adm = (s.b.strm t strm).adm.drop 1 ∧ (b.strm t strm).live = (s.b.strm t strm).live ∧ (b.strm t strm).next = (s.b.strm t strm).next ∧
      b.findRun { tenant := t, handle := p.arg 0 } = some { r with queued := true } ∧ (∀ x, x ≠ { tenant := t, handle := p.arg 0 } → b.findRun x = s.b.findRun x) ∧
      (∀ u v, (u, v) ≠ (t, strm) → b.strm u v = s.b.strm u v) ∧ b = { s.b with streams := b.streams, runs := b.runs, mem := b.mem } ∧ b.memKept s.b)) ∧
  (∀ (s : State) (src t : Nat) (p : Pkt), s.b.inq.find? (fun q => q.src = src) = some p → s.b.owner src = some t → p.op = 0x04 → p.more = false → s.b.headerOk t p = true →
    (s.b.strm t p.stream).broken = false → p.seq = (s.b.strm t p.stream).next → (s.b.strm t p.stream).fenced = false → (s.b.strm t p.stream).chain = [] → (s.b.strm t p.stream).held = [] →
    (s.b.start.state ≠ .opened ∨ s.b.start.drainAt.isSome = true) →
    completes (.packetArrival src []) s (fun b => b.inq = s.b.inq.erase p ∧ b.runs = s.b.runs ∧ b.runOrder = s.b.runOrder ∧ (b.strm t p.stream).next = p.seq + 1 ∧
      (b.strm t p.stream).adm = (s.b.strm t p.stream).adm ∧ b.vat = s.b.vat ∧ b.start = s.b.start ∧ b.memKept s.b)) ∧
  (∀ (s : State) (t strm : Nat) (p : Pkt) (r : Run), s.b.front t strm 0x05 = some p → p.stream = strm → s.b.runs = [r] → r.ref = { tenant := t, handle := p.arg 0 } → r.killed = none →
    completes (.runKill t strm) s (fun b => (b.strm t strm).adm = (s.b.strm t strm).adm.drop 1 ∧
      b.runs = [{ r with killed := some { cause := 0x15, station := 0xFF, ord := 0, detail := 0#32, stage := r.stageWord, at_ := s.b.now } }] ∧
      (∀ x ∈ b.ridge.items, x.run ≠ r.ref) ∧ (∀ x ∈ b.ridge.tokens, x.run ≠ r.ref) ∧ b.vat = s.b.vat ∧ b.start = s.b.start ∧ b.memKept s.b)) ∧
  (∀ (s : State) (t strm : Nat) (p : Pkt), s.b.front t strm 0x06 = some p → p.stream = strm → (∀ r, s.b.findRun { tenant := t, handle := p.arg 0 } = some r → r.killed.isSome = true) →
    completes (.tile t strm) s (fun b => (b.strm t strm).adm = (s.b.strm t strm).adm.drop 1 ∧ b.runs = s.b.runs ∧ b.vat = s.b.vat ∧ b.memKept s.b)) ∧
  (∀ (s : State) (t strm : Nat) (p : Pkt) (r : Run), s.b.front t strm 0x06 = some p → s.b.findRun { tenant := t, handle := p.arg 0 } = some r → r.killed = none → r.phase = .waiting →
    completes (.tile t strm) s (fun b => b = { s.b with mem := b.mem } ∧ b.memKept s.b)) ∧
  (∀ (s : State) (t strm i : Nat) (p : Pkt) (r : Run) (st : Station) (e : EdgeEntry) (g : GateSt), s.b.front t strm 0x06 = some p → p.stream = strm → (p.arg 1).toNat = i → i < 256 →
    s.b.live { tenant := t, handle := p.arg 0, station := i } = some (r, st) → r.ref = { tenant := t, handle := p.arg 0 } → r.outShape i 0 = some e → st.entry.type = .gate → st.entry.gout = false → st.entry.gstream = strm →
    st.body = .gate g → g.closed = false →
    (st.ready = false → completes (.tile t strm) s (fun b => b = { s.b with mem := b.mem } ∧ b.memKept s.b)) ∧
    (st.ready = true → gateTileOk st.entry.gfmt e p.payload (p.arg 2).toNat (p.arg 3).toNat g.taken = true →
      completes (.tile t strm) s (fun b => (b.strm t strm).adm = (s.b.strm t strm).adm.drop 1 ∧
        (b.stAt { tenant := t, handle := p.arg 0, station := i }).any (fun z => decide (z.body = .gate { seq := 0, taken := g.taken + 1, closed := (parseTile p.payload).last })) = true ∧
        b.vat = s.b.vat ∧ b.start = s.b.start ∧ b.cal = s.b.cal ∧ b.memKept s.b)) ∧
    (st.ready = true → gateTileOk st.entry.gfmt e p.payload (p.arg 2).toNat (p.arg 3).toNat g.taken = false →
      completes (.tile t strm) s (fun b => (b.strm t strm).adm = (s.b.strm t strm).adm.drop 1 ∧ b.killedWith { tenant := t, handle := p.arg 0 } 0x21 i 0#32 ∧ b.vat = s.b.vat ∧ b.memKept s.b)))

/-- A run that may launch, with queues in the pool, passed checks, and buffers within its quota and the pool, takes its buffers and queues and goes to stage 0: at once when it names no seat, else once each seat named has acknowledged it. Without enough queues it waits and RDG_ERR bit 2 is set; while the pool is short it waits with what it has read; over its quota it is killed with status 9, and a fault of its descriptor kills it with status 0x20. The end of a stage that is not the last frees that stage's buffers and begins the next; the end of the last stage closes the run and counts it. A killed run is closed, RUN_KILL_CNT counts it and RUN_LAST_KILL names it. No byte of memory changes but by the reads of the launch's own checks. (R177, R178, R179, R187, R188, R189, R190, R371, R389, R390, R515) -/
def Obligations.RunLifecycle : Prop :=
  (∀ (s : State) (t : Nat) (h : Word) (r r1 : Run) (b1 : Block), s.b.findRun { tenant := t, handle := h } = some r → s.b.mayLaunch r = true →
    descStations r.desc + descEdges r.desc ≤ s.b.queuesFree → s.b.launchChecks r = .ok (b1, r1) → b1.runs = s.b.runs →
    (b1.useFelt t + sumNat ((b1.bufsOf r1).map (fun x => x.2.2)) ≤ (b1.tenant t).quotaFelt * 256 →
      (b1.poolHas (b1.bufsOf r1) = true → r1.seatsNamed = [] →
        completes (.runLaunch t h []) s (fun b => (b.findRun { tenant := t, handle := h }).any (fun x => decide (x.phase = .active 0 ∧ x.bufs = b1.bufsOf r1 ∧ x.launchedAt = s.b.now ∧ x.waitQ = false ∧ x.killed = r1.killed) &&
            decide (x.stations.map (fun z => z.units) = r1.stations.map (fun z => z.units))) = true ∧
          (∀ x, x ≠ { tenant := t, handle := h } → b.findRun x = s.b.findRun x) ∧ b.start = b1.start ∧ b.vat = b1.vat ∧ (∀ a, b.byteAt a = b1.byteAt a))) ∧
      (b1.poolHas (b1.bufsOf r1) = true → r1.seatsNamed ≠ [] →
        completes (.runLaunch t h []) s (fun b => (b.findRun { tenant := t, handle := h }).any (fun x => decide (x.phase = .staging 0 r1.seatsNamed ∧ x.bufs = b1.bufsOf r1 ∧ x.launchedAt = s.b.now ∧ x.waitQ = false ∧ x.killed = r1.killed)) = true ∧
          (∀ n ∈ r1.seatsNamed, n < b1.seats.length → (b.seat n).stages.any (fun w => decide (w.tenant = t ∧ w.handle = h ∧ w.stage = 0)) = true) ∧
          (∀ x, x ≠ { tenant := t, handle := h } → b.findRun x = s.b.findRun x) ∧ b.start = b1.start ∧ b.vat = b1.vat ∧ (∀ a, b.byteAt a = b1.byteAt a))) ∧
      (b1.poolHas (b1.bufsOf r1) = false →
        completes (.runLaunch t h []) s (fun b => b.findRun { tenant := t, handle := h } = some { r1 with waitQ := true, waitPool := true } ∧
          (∀ x, x ≠ { tenant := t, handle := h } → b.findRun x = s.b.findRun x) ∧ b.start = b1.start ∧ b.vat = b1.vat ∧ (∀ a, b.byteAt a = b1.byteAt a)))) ∧
    ((b1.tenant t).quotaFelt * 256 < b1.useFelt t + sumNat ((b1.bufsOf r1).map (fun x => x.2.2)) →
      completes (.runLaunch t h []) s (fun b => b.killedWith { tenant := t, handle := h } 9 0xFF 0#32 ∧ b.vat = s.b.vat ∧ b.streams = s.b.streams ∧ b.memKept s.b))) ∧
  (∀ (s : State) (t : Nat) (h : Word) (r : Run), s.b.findRun { tenant := t, handle := h } = some r → s.b.mayLaunch r = true → r.waitQ = false →
    s.b.queuesFree < descStations r.desc + descEdges r.desc →
    completes (.runLaunch t h []) s (fun b => wbit (b.err Map.rdgErr) 2 = true ∧ b.findRun { tenant := t, handle := h } = some { r with waitQ := true, waitPool := false } ∧ b.vat = s.b.vat ∧ b.streams = s.b.streams ∧ b.memKept s.b)) ∧
  (∀ (s : State) (t i : Nat) (h : Word) (r : Run), s.b.runs = [r] → r.ref = { tenant := t, handle := h } → s.b.mayLaunch r = true → descStations r.desc + descEdges r.desc ≤ s.b.queuesFree →
    r.read = false → s.b.descFault t r.desc = some i →
    completes (.runLaunch t h []) s (fun b => b.runs = [{ r with killed := some { cause := 0x20, station := i, ord := 0, detail := 0#32, stage := r.stageWord, at_ := s.b.now } }] ∧ b.vat = s.b.vat ∧ b.streams = s.b.streams ∧ b.memKept s.b)) ∧
  (∀ (s : State) (t k : Nat) (h : Word) (r : Run), s.b.runs = [r] → r.ref = { tenant := t, handle := h } → r.phase = .active k → r.killed = none → r.stageOver k = true → k + 1 < r.nstage → r.seatsNamed = [] →
    completes (.stageEnd t h) s (fun b => b.runs = [{ r with phase := .active (k + 1), bufs := r.bufs.filter (fun y => y.1 ≠ k) }] ∧ b.ended = s.b.ended ∧ b.streams = s.b.streams ∧ b.memKept s.b)) ∧
  (∀ (s : State) (t k : Nat) (h : Word) (r : Run), s.b.runs = [r] → r.ref = { tenant := t, handle := h } → r.phase = .active k → r.killed = none → r.stageOver k = true → r.nstage ≤ k + 1 →
    completes (.stageEnd t h) s (fun b => b.runs = [] ∧ b.ended = s.b.ended ++ [r.ref] ∧ b.ctr Map.runEndCnt = s.b.ctr Map.runEndCnt + 1#32 ∧ b.streams = s.b.streams ∧ b.memKept s.b)) ∧
  (∀ (s : State) (t : Nat) (h : Word) (r : Run) (k : KillInfo), s.b.runs = [r] → r.ref = { tenant := t, handle := h } → r.killed = some k → s.b.ridge.items = [] →
    completes (.runKillDone t h) s (fun b => b.runs = [] ∧ b.ended = s.b.ended ++ [r.ref] ∧ b.ctr Map.runKillCnt = s.b.ctr Map.runKillCnt + 1#32 ∧
      b.lasts.getD Map.runLastKill 0#32 = BitVec.ofNat 32 (k.cause + 256 * (t % 16) + 4096 * (k.station % 256)) ∧ b.memKept s.b))

/-- A tile at the head of a SIZE station's input, with an entry of the matching store free, makes the station's next item, which fires at the run's priority under its tenant's ceiling; the tile leaves the ring but keeps its place. A LATH or VAT station with no input makes its next item in the same way, at most 64 undispatched. A fired item that is its station's next goes to a unit that has room and leaves the store; a LATH item begins in a slot of its core, and a GATE's is done at once. A done item completes; one of LATH whose threads have all exited leaves its slot and completes. An item that has run as long as the watchdog allows kills its run with status 0x12 and its ordinal. Apart from the reads of a YEALM's rays, no byte of memory changes. (R183, R335, R361, R364, R365, R367, R370, R374, R375) -/
def Obligations.RidgeItems : Prop :=
  (∀ (s : State) (a : StRef) (r : Run) (st : Station) (e : Edge) (j : Nat) (t : Tile) (l : List Tile), s.b.ridge.items = [] → s.b.ridge.held = [] → 0 < s.b.matchSize →
    s.b.live a = some (r, st) → st.entry.type = .size → r.inEdge a.station 0 = some (j, e) → e.tiles = t :: l → t.closing = false → st.completed ≤ st.made →
    completes (.operandArrival a 0 []) s (fun b => b.ridge.items = [{ run := stRun a, station := a.station, ordinal := st.made, slots := [(0, .tile t)], need := 1, fired := true, spilled := false, prio := s.b.capPrio r }] ∧
      (b.stAt a).any (fun z => decide (z.made = st.made + 1 ∧ z.dispatched = st.dispatched)) = true ∧
      ((b.findRun (stRun a)).bind (fun x => x.edges[j]?)).any (fun x => decide (x.tiles = l ∧ x.taken = e.taken + 1)) = true ∧ b.vat = s.b.vat ∧ b.start = s.b.start ∧ b.memKept s.b)) ∧
  (∀ (s : State) (a : StRef) (port : Nat) (r : Run) (st : Station), s.b.ridge.items = [] → s.b.ridge.held = [] → 0 < s.b.matchSize → s.b.live a = some (r, st) → (st.entry.type = .lath ∨ st.entry.type = .vat) →
    r.inEdge a.station port = none → r.noInput a.station = true → st.made < st.inputless → st.made < st.dispatched + 64 → st.completed ≤ st.made →
    completes (.operandArrival a port []) s (fun b => b.ridge.items = [{ run := stRun a, station := a.station, ordinal := st.made, slots := [], need := 0, fired := true, spilled := false, prio := s.b.capPrio r }] ∧
      (b.stAt a).any (fun z => decide (z.made = st.made + 1 ∧ z.dispatched = st.dispatched)) = true ∧ b.vat = s.b.vat ∧ b.start = s.b.start ∧ b.memKept s.b)) ∧
  (∀ (s : State) (f u k : Nat) (x : Item) (r : Run) (st : Station), s.b.ridge.items = [x] → s.b.live x.at_ = some (r, st) → x.fired = true → x.spilled = false → x.ordinal = st.dispatched →
    s.b.withheldPrio f x.prio = false → s.b.placeFor r x.station st f = some (u, k) → (st.entry.type = .lath → u < 72) →
    completes (.itemDispatch f []) s (fun b => b.ridge.items = [] ∧ (st.entry.type ≠ .yealm → st.entry.type ≠ .gate → b.ctr Map.rdgDispCnt = s.b.ctr Map.rdgDispCnt + 1#32) ∧
      (b.stAt x.at_).any (fun z => decide (z.dispatched = st.dispatched + 1)) = true ∧
      (st.entry.type ≠ .yealm → st.entry.type ≠ .gate → (b.stAt x.at_).any (fun z => decide (z.active = st.active ++ [{ ordinal := x.ordinal, field := f, unit := u, slots := x.slots, at_ := s.b.now, done := false, freed := false }])) = true) ∧
      (st.entry.type = .gate → x.slots ≠ [] → (b.stAt x.at_).any (fun z => decide (z.active = workDone (st.active ++ [{ ordinal := x.ordinal, field := f, unit := u, slots := x.slots, at_ := s.b.now, done := false, freed := false }]) x.ordinal)) = true) ∧
      (st.entry.type = .lath → (b.core (72 * f + u)).launch = some (r.launchOf x.station st) ∧ ((b.core (72 * f + u)).items.get k).any (fun y => y.ordinal = x.ordinal) = true) ∧
      (st.entry.type ≠ .yealm → (st.entry.type ≠ .lath → b.cores = s.b.cores) ∧ b.vat = s.b.vat ∧ b.start = s.b.start ∧ b.memKept s.b))) ∧
  (∀ (s : State) (a : StRef) (n : Nat) (r : Run) (st : Station) (x : Active), s.b.ridge.items = [] → s.b.live a = some (r, st) → st.item n = some x →
    (x.done = true → st.entry.type ≠ .lath →
      completes (.itemComplete a n) s (fun b => (b.stAt a).any (fun z => decide (z.completed = st.completed + 1 ∧ z.active = st.active.filter (fun y => y.ordinal ≠ x.ordinal))) = true ∧
        b.vat = s.b.vat ∧ b.start = s.b.start ∧ b.cores = s.b.cores ∧ b.memKept s.b)) ∧
    (∀ k it, st.entry.type = .lath → (s.b.core (72 * x.field + x.unit)).slotOf a n = some (k, it) → (s.b.core (72 * x.field + x.unit)).itemOver k it = true →
      completes (.itemComplete a n) s (fun b => (b.stAt a).any (fun z => decide (z.completed = st.completed + 1 ∧ z.active = st.active.filter (fun y => y.ordinal ≠ x.ordinal))) = true ∧
        (b.core (72 * x.field + x.unit)).items.get k = none ∧ (∀ j, j ≠ k → (b.core (72 * x.field + x.unit)).items.get j = (s.b.core (72 * x.field + x.unit)).items.get j) ∧
        (∀ c, c ≠ 72 * x.field + x.unit → b.core c = s.b.core c) ∧ b.vat = s.b.vat ∧ b.start = s.b.start ∧ b.memKept s.b)) ∧
    (x.done = false → st.entry.type ≠ .lath → completes (.itemComplete a n) s (fun b => b = { s.b with mem := b.mem } ∧ b.memKept s.b))) ∧
  (∀ (s : State) (a : StRef) (n : Nat) (r : Run) (st : Station) (x : Active) (g : Image), s.b.runs = [r] → r.ref = stRun a → s.b.live a = some (r, st) → s.b.start.img = some g → st.item n = some x →
    (g.watchdog ≤ s.b.coreSince x.at_ →
      completes (.watchdogTimeout a n) s (fun b => b.runs = [{ r with killed := some { cause := 0x12, station := a.station, ord := if st.entry.type = .lath then n else 0, detail := BitVec.ofNat 32 n, stage := r.stageWord, at_ := s.b.now } }] ∧
        (st.entry.type ≠ .lath → b.errs = s.b.errs ∧ b.lasts = s.b.lasts) ∧ b.vat = s.b.vat ∧ b.streams = s.b.streams ∧ b.memKept s.b)) ∧
    (s.b.coreSince x.at_ < g.watchdog → completes (.watchdogTimeout a n) s (fun b => b = { s.b with mem := b.mem } ∧ b.memKept s.b)))

/-- A posted token leaves the Ridge and reaches the YEALM or COUCH station that counts it; a station that no longer works gets nothing. With a Gutter page free, the queue of the tenant that entered HELD first resumes, and no other: an admission queue takes the packet that waited to be held, a station's queue the item that waited to fire. Host packets that waited in their slots may follow. With no page free nothing changes. Memory stays. (R291, R299, R368, R370, R374, R380, R381, R382, R383) -/
def Obligations.RidgeTokensAndHeld : Prop :=
  (∀ (s : State) (i : Nat) (t : Token) (a : StRef), s.b.ridge.tokens[i]? = some t → a = { tenant := t.run.tenant, handle := t.run.handle, station := t.station } →
    completes (.ridgeToken i) s (fun b => b.ridge = { s.b.ridge with tokens := s.b.ridge.tokens.eraseIdx i } ∧
      (s.b.live a = none → b.runs = s.b.runs) ∧
      (∀ r st, s.b.live a = some (r, st) → st.entry.type = .yealm → (b.stAt a).map (fun z => z.body) = some (.yealm (st.yealm.token t))) ∧
      (∀ r st, s.b.live a = some (r, st) → st.entry.type = .couch → (b.stAt a).map (fun z => z.body) = some (.couch (st.couch.token st.homeField t))) ∧
      b = { s.b with ridge := b.ridge, runs := b.runs, mem := b.mem } ∧ b.memKept s.b)) ∧
  (∀ (s : State) (t strm : Nat) (h : Nat × HeldQueue × Nat) (p : Pkt), s.b.ridge.held.find? (fun h => h.1 = t) = some h → h.2.1 = .admission strm → s.b.heldPacket t strm = some p → p.stream = strm →
    (∀ y ∈ s.b.ridge.held.erase h, ¬ (y.1 = t ∧ y.2.1 = h.2.1)) → (s.b.strm t strm).broken = false →
    ((s.b.strm t strm).next < p.seq ∨ (p.seq = (s.b.strm t strm).next ∧ (s.b.strm t strm).fenced = true)) → p.seq < (s.b.strm t strm).next + 1024 → (s.b.strm t strm).held.any (fun q => q.seq = p.seq) = false →
    1 + needsPage (s.b.strm t strm).held.length ((s.b.strm t strm).held.length + 1) ≤ s.b.gutterFree t →
    completes (.queueHeldResume t) s (fun b => b.ridge = { s.b.ridge with held := s.b.ridge.held.erase h } ∧ (b.strm t strm).held = (s.b.strm t strm).held ++ [p] ∧ (b.strm t strm).next = (s.b.strm t strm).next ∧
      (∀ u v, (u, v) ≠ (t, strm) → b.strm u v = s.b.strm u v) ∧ (∃ l, b.inq = s.b.inq.erase p ++ l) ∧
      b = { s.b with ridge := b.ridge, ctrs := b.ctrs, streams := b.streams, inq := b.inq, gables := b.gables, mem := b.mem } ∧ b.memKept s.b)) ∧
  (∀ (s : State) (t i : Nat) (h : Nat × HeldQueue × Nat) (r : Run) (x : Item), s.b.ridge.held.find? (fun h => h.1 = t) = some h → h.2.1 = .items x.run i → x.station = i → x.run.tenant = t → s.b.ridge.items = [x] →
    s.b.findRun x.run = some r → x.fired = false → x.spilled = false → x.need ≤ x.slots.length → (∀ y ∈ s.b.ridge.held.erase h, ¬ (y.1 = t ∧ y.2.1 = h.2.1)) → 0 < s.b.gutterFree t →
    completes (.queueHeldResume t) s (fun b => b.ridge = { s.b.ridge with held := s.b.ridge.held.erase h, items := [{ x with fired := true, prio := s.b.capPrio r }] } ∧
      b = { s.b with ridge := b.ridge, ctrs := b.ctrs, inq := b.inq, gables := b.gables, mem := b.mem } ∧ b.memKept s.b)) ∧
  (∀ (s : State) (t : Nat), s.b.gutterFree t = 0 → completes (.queueHeldResume t) s (fun b => b = { s.b with mem := b.mem } ∧ b.memKept s.b))

/-- An interval moves the governed draw by no more than the slew limit allows, and never above both the effective cap and the fall that the slew limit allows; ballast makes up what the units do not draw, VDD_CORE filled first, and without a step in hand only what the slew limit asks for. The estimate may take what hi leaves beside the ballast held for steps; one above that withholds admission and counts in CAL_LIMITED_CNT. The step that waits first is admitted when the draw with it stays within the cap and its pre-load finds ballast in its field, and not otherwise. In the stop ramp the draw follows the ramp. A calibration brings the estimate to within 2 % of the measured draw. Only the Calender, Screen's groups and that counter change. (R89, R91, R92, R93, R94, R95, R98, R100, R105, R486, R514) -/
def Obligations.CalenderIntervals : Prop :=
  (∀ (s : State) (est awake withhold fields : Nat) (drawn : List Nat), s.b.calOn = true → s.b.cal.lastInterval + 20 ≤ s.b.now → s.b.cal.ramp = none →
    completes (.calenderInterval est awake withhold fields drawn) s (fun b =>
      s.b.cal.gPrev - s.b.cal.slewStep ≤ b.cal.gPrev ∧ b.cal.gPrev ≤ s.b.cal.gPrev + s.b.cal.slewStep ∧
      b.cal.gPrev ≤ max (s.b.effCap * 1000000) (s.b.cal.gPrev - s.b.cal.slewStep) ∧ b.cal.held ≤ b.cal.hi ∧ b.cal.held ≤ b.cal.ballast ∧ b.cal.gPrev = min est (b.cal.hi - b.cal.held) + b.cal.ballast ∧
      b.cal.onCore = min b.cal.ballast s.b.coreCap ∧ b.cal.onCore + b.cal.onFelt = b.cal.ballast ∧
      b.ctr Map.calLimitedCnt = s.b.ctr Map.calLimitedCnt + (if b.cal.hi - b.cal.held < est then 1#32 else 0#32) ∧ (b.cal.withheld = 0 ↔ est ≤ b.cal.hi - b.cal.held) ∧
      (∀ a, a ≠ Map.calLimitedCnt → b.ctr a = s.b.ctr a) ∧
      b = { s.b with cal := { s.b.cal with gPrev := b.cal.gPrev, est := est, ballast := b.cal.ballast, onCore := b.cal.onCore, onFelt := b.cal.onFelt, hi := b.cal.hi, ceiling := b.cal.ceiling, withheld := b.cal.withheld, withheldAt := b.cal.withheldAt, turn := b.cal.turn, held := b.cal.held, steps := b.cal.steps, lastInterval := s.b.now }, screen := { s.b.screen with groups := b.screen.groups }, ctrs := b.ctrs, mem := b.mem } ∧ b.memKept s.b)) ∧
  (∀ (s : State) (est awake withhold fields : Nat) (drawn : List Nat), s.b.calOn = true → s.b.cal.lastInterval + 20 ≤ s.b.now → s.b.cal.ramp = none → s.b.cal.ceiling = none → s.b.cal.steps = [] →
    completes (.calenderInterval est awake withhold fields drawn) s (fun b => b.cal.hi = min (s.b.cal.gPrev + s.b.cal.slewStep) (s.b.effCap * 1000000) ∧
      b.cal.held = 0 ∧ b.cal.ballast = (s.b.cal.gPrev - s.b.cal.slewStep) - min est b.cal.hi)) ∧
  (∀ (s : State) (est awake withhold fields hi : Nat) (drawn : List Nat) (k : StepKind) (l : List StepKind), s.b.calOn = true → s.b.cal.lastInterval + 20 ≤ s.b.now → s.b.cal.ramp = none →
    s.b.cal.ceiling = none → s.b.cal.withheld = 0 → hi = min (s.b.cal.gPrev + s.b.cal.slewStep) (s.b.effCap * 1000000) →
    est ≤ hi - min (min (sumNat ((shedSteps s.b.cal.steps drawn).map (fun x => x.hold))) (s.b.cal.held + s.b.cal.slewStep)) hi → s.b.waitingSteps = k :: l →
    completes (.calenderInterval est awake withhold fields drawn) s (fun b =>
      (awake + s.b.declaredOn + declared k ≤ s.b.effCap * 1000000 → ({ s.b with cal := { s.b.cal with steps := shedSteps s.b.cal.steps drawn } } : Block).preloadFits k = true →
        ∃ rest, b.cal.steps = shedSteps s.b.cal.steps drawn ++ { kind := k, declared := declared k, field := stepField k, phase := if noPreload k then .loop s.b.now else .preload, shed := 0 } :: rest) ∧
      ((s.b.effCap * 1000000 < awake + s.b.declaredOn + declared k ∨ ({ s.b with cal := { s.b.cal with steps := shedSteps s.b.cal.steps drawn } } : Block).preloadFits k = false) →
        b.cal.steps = shedSteps s.b.cal.steps drawn))) ∧
  (∀ (s : State) (est awake withhold fields : Nat) (drawn : List Nat) (r : Ramp), s.b.cal.lastInterval + 20 ≤ s.b.now → s.b.cal.ramp = some r →
    completes (.calenderInterval est awake withhold fields drawn) s (fun b => b.cal.gPrev = r.draw s.b.now ∧ b.cal.gPrev = min est b.cal.gPrev + b.cal.ballast ∧ b.cal.ramp = some r ∧ b.cal.withheld = 0 ∧
      b = { s.b with cal := b.cal, mem := b.mem } ∧ b.memKept s.b)) ∧
  (∀ (s : State) (measured est : Nat), s.b.calOn = true → s.b.cal.lastCalib + 2000 ≤ s.b.now →
    completes (.calenderCalibration measured est) s (fun b => measured * 98 / 100 ≤ b.cal.est ∧ b.cal.est ≤ measured * 102 / 100 ∧
      (measured * 98 / 100 ≤ est → est ≤ measured * 102 / 100 → b.cal.est = est) ∧
      b = { s.b with cal := { s.b.cal with est := b.cal.est, lastCalib := s.b.now }, mem := b.mem } ∧ b.memKept s.b))

/-- Once the ballast held for steps covers what the loops in progress still hold, the pre-loads admitted before a step and its own declared power, the step starts and its fast loop closes: a field's gates begin to close, a stack begins to train out of reset, a maintenance window opens. With less nothing changes. After 200 cycles the loop of a step that is no waiting test group ends. A sample at 100.0 °C or more sets the ceiling to the governed draw, sets CAL_EVENTS bit 0 and counts; while a sensor in service reads 98.0 °C or more it stays and counts; a sample with every sensor in service below 98.0 °C removes it. (R94, R99, R100, R105, R430, R486) -/
def Obligations.CalenderSteps : Prop :=
  (∀ (s : State) (x : CalStep) (n : StepName) (l : List CalStep), s.b.cal.steps.find? (fun y => stepIs n y.kind && decide (y.phase = .preload)) = some x →
    loopHold s.b.cal.steps + preloadUpTo n s.b.cal.steps ≤ s.b.cal.held → l = s.b.cal.steps.map (fun y => if y.kind = x.kind then { y with phase := .loop s.b.now } else y) →
    (∀ f, n = .wake f →
      completes (.preloadDone n) s (fun b => b = { s.b with cal := { s.b.cal with steps := l }, start := { s.b.start with waking := some (f, s.b.now) }, mem := b.mem } ∧ b.memKept s.b)) ∧
    (∀ k, n = .train k → k < 24 → s.b.eaves.length = 24 →
      completes (.preloadDone n) s (fun b => b.cal.steps = l ∧ b.eave k = { s.b.eave k with start := true, resetN := true } ∧
        (∀ j, j ≠ k → b.eave j = s.b.eave j) ∧ b.start.training = s.b.start.training ++ [(k, s.b.now)] ∧ b.pins = s.b.pins ∧ b.screen = s.b.screen ∧ b.memKept s.b)) ∧
    (∀ k p, n = .window k → x.kind = .window k p → k < 24 → s.b.eaves.length = 24 →
      completes (.preloadDone n) s (fun b => b.cal.steps = l ∧
        b.eave k = { s.b.eave k with test := some (p, s.b.now), testTodo := (s.b.eave k).testTodo.drop 1, idleAt := s.b.now, selfRefresh := false } ∧
        (∀ j, j ≠ k → b.eave j = s.b.eave j) ∧ b.start = s.b.start ∧ b.memKept s.b)) ∧
    (∀ g, n = .group g →
      completes (.preloadDone n) s (fun b => b = { s.b with cal := { s.b.cal with steps := l }, mem := b.mem } ∧ b.memKept s.b))) ∧
  (∀ (s : State) (n : StepName), s.b.cal.held < loopHold s.b.cal.steps + preloadUpTo n s.b.cal.steps →
    completes (.preloadDone n) s (fun b => b = { s.b with mem := b.mem } ∧ b.memKept s.b)) ∧
  (∀ (s : State) (x : CalStep) (n : StepName) (t0 : Nat), s.b.cal.steps = [x] → stepIs n x.kind = true → x.phase = .loop t0 → t0 + 200 ≤ s.b.now → s.b.groupPending x.kind = false →
    completes (.fastLoopEnd n) s (fun b => b = { s.b with cal := { s.b.cal with steps := [] }, mem := b.mem } ∧ b.memKept s.b)) ∧
  (∀ (s : State) (temps : List (BitVec 12)), s.b.pins.pwrGood = true → s.b.cal.lastSample + 2000 ≤ s.b.now →
    (∀ i, i < 64 → i ∈ s.b.cal.hot → s.b.unitIn (i / 8) 11 (i % 8) = true → tempOf (temps.getD i 0#12) < 1680) →
    (∀ i, i < 64 → s.b.unitIn (i / 8) 11 (i % 8) = true → 1600 ≤ tempOf (temps.getD i 0#12) → s.b.cal.ceiling = none →
      completes (.thermalSample temps) s (fun b => b.cal.ceiling = some s.b.cal.gPrev ∧ wbit (b.err Map.calEvents) 0 = true ∧
        b.ctr Map.thmThrottleCnt = s.b.ctr Map.thmThrottleCnt + 1#32 ∧ b.cal.temps.getD i 0#12 = temps.getD i 0#12 ∧ b.cal.hottest.any (fun h => decide (tempOf (temps.getD i 0#12) ≤ tempOf h.1)) = true ∧
        b = { s.b with cal := { s.b.cal with ceiling := b.cal.ceiling, temps := b.cal.temps, hot := b.cal.hot, hottest := b.cal.hottest, sensIn := b.cal.sensIn, lastSample := s.b.now }, ctrs := b.ctrs, errs := b.errs, pins := { s.b.pins with mgAlertN := b.pins.mgAlertN }, out := b.out, mem := b.mem } ∧ b.memKept s.b)) ∧
    (∀ i c, i < 64 → s.b.unitIn (i / 8) 11 (i % 8) = true → 1568 ≤ tempOf (temps.getD i 0#12) → s.b.cal.ceiling = some c →
      completes (.thermalSample temps) s (fun b => b.cal.ceiling = some c ∧ b.ctr Map.thmThrottleCnt = s.b.ctr Map.thmThrottleCnt + 1#32 ∧
        b = { s.b with cal := { s.b.cal with temps := b.cal.temps, hot := b.cal.hot, hottest := b.cal.hottest, sensIn := b.cal.sensIn, lastSample := s.b.now }, ctrs := b.ctrs, mem := b.mem } ∧ b.memKept s.b)) ∧
    ((∀ i, i < 64 → s.b.unitIn (i / 8) 11 (i % 8) = true → tempOf (temps.getD i 0#12) < 1568) →
      completes (.thermalSample temps) s (fun b => b.cal.ceiling = none ∧ b.cal.hot = [] ∧
        b = { s.b with cal := { s.b.cal with ceiling := none, temps := b.cal.temps, hot := [], hottest := b.cal.hottest, sensIn := b.cal.sensIn, lastSample := s.b.now }, mem := b.mem } ∧ b.memKept s.b)))

/-- When one sensor in service reads 105.0 °C or more at a sample and again at the next, in whatever state the block is, the block drives THERMTRIP_N and FAULT_N low, records a block-fatal cause, sets CAL_EVENTS bit 1, stops all work into STOPPED and ramps the draw down. Memory stays. (R106, R95, R506, R507) -/
def Obligations.ThermalTrip : Prop :=
  ∀ (s : State) (temps1 temps2 : List (BitVec 12)) (i now2 : Nat), s.b.pins.pwrGood = true → s.b.cal.lastSample + 2000 ≤ s.b.now → i < 64 → s.b.unitIn (i / 8) 11 (i % 8) = true →
    1680 ≤ tempOf (temps1.getD i 0#12) → 1680 ≤ tempOf (temps2.getD i 0#12) → s.b.now + 2000 ≤ now2 →
    ∃ t, exec (.thermalSample temps1) s = .next t ∧
      completes (.thermalSample temps2) { t with b := { t.b with now := now2 } } (fun b => b.pins.thermTripN = false ∧ b.pins.faultN = false ∧ b.start.state = .stopped ∧
        wbit (b.err Map.calEvents) 1 = true ∧ wbit b.tel.fatalCause 16 = true ∧ b.cal.ramp.isSome = true ∧ b.runs = [] ∧ b.streams = [] ∧ b.cores = [] ∧ b.memKept s.b)

/-- The unit of a SIZE station whose turn it is converts the item's tile to the format of the output edge: the tile keeps its shape and order and takes the next tile number, the Sizing registers of its field count it, OVF and UNF collect in the run, and the item's work is done. A tile of a kind without a number format passes with its data as they were. Nothing else of the block and no byte of memory changes. (R183, R196, R205, R218, R219, R220, R221, R361) -/
def Obligations.SizingTiles : Prop :=
  (∀ (s : State) (a : StRef) (n j : Nat) (r : Run) (st : Station) (x : Active) (t : Tile) (ed : Edge), s.b.working a n = some (r, st, x) → st.entry.type = .size → x.tile 0 = some t →
    r.outEdge a.station 0 = some (j, ed) → s.b.canPush (stRun a) j ed → st.outbox = [] → st.turn n = true → x.field < 8 →
    completes (.sizingTile a n) s (fun b =>
      b.edgeAt (stRun a) j = some (ed.plus { (convertTile r.seed a.station ed.entry.fmt t).1 with flags := 0 }) ∧
      b.stAt a = some { st with active := workDone st.active n } ∧
      (b.findRun (stRun a)).any (fun z => decide (z.ovf = (r.ovf || (convertTile r.seed a.station ed.entry.fmt t).1.ovf) ∧ z.unf = (r.unf || (convertTile r.seed a.station ed.entry.fmt t).1.unf))) = true ∧
      b.ctr (Map.sizTileCnt x.field) = s.b.ctr (Map.sizTileCnt x.field) + 1#32 ∧
      b.ctr (Map.sizOvfCnt x.field) = s.b.ctr (Map.sizOvfCnt x.field) + BitVec.ofNat 32 (convertTile r.seed a.station ed.entry.fmt t).2.ovf ∧
      b.ctr (Map.sizUnfCnt x.field) = s.b.ctr (Map.sizUnfCnt x.field) + BitVec.ofNat 32 (convertTile r.seed a.station ed.entry.fmt t).2.unf ∧
      (∀ z, z ≠ stRun a → b.findRun z = s.b.findRun z) ∧ b = { s.b with runs := b.runs, ctrs := b.ctrs, mem := b.mem } ∧ b.memKept s.b)) ∧
  (∀ (seed : DWord) (station z : Nat) (t : Tile),
    (convertTile seed station z t).1.rows = t.rows ∧ (convertTile seed station z t).1.cols = t.cols ∧ (convertTile seed station z t).1.seq = t.seq ∧
    (convertTile seed station z t).1.last = t.last ∧ (convertTile seed station z t).1.fmt = z ∧
    (t.ovf = true → (convertTile seed station z t).1.ovf = true) ∧ (t.unf = true → (convertTile seed station z t).1.unf = true) ∧
    (fmtOf t.fmt = none → (convertTile seed station z t).1.data = t.data ∧ (convertTile seed station z t).1.ovf = t.ovf ∧ (convertTile seed station z t).1.unf = t.unf))

/-- A LOAD item whose slot can be read is loaded, converted and emitted with its number and order, the last one with last set; memory is what the loads leave. A STORE item whose tile fits its slot and whose stores succeed ends with memory as the stores leave it; where the slot is part of one sound sector of Felt, exactly its bytes take the converted data and every other byte reads as before. A HINT item gives its next record to the Vatman and is done with its last; a record that breaks its layout is dropped, counted and sets VAT_ERR bit 1. (R324, R388, R407, R409, R410, R411, R412) -/
def Obligations.VatTiles : Prop :=
  (∀ (s : State) (a : StRef) (n j : Nat) (r : Run) (st : Station) (x : Active) (ed : Edge) (b1 : Block) (l : List Byte), s.b.working a n = some (r, st, x) → st.entry.type = .vat →
    (vatPar st.params).mode = vatLoad → r.outEdge a.station 0 = some (j, ed) → s.b.canPush (stRun a) j ed → st.outbox = [] → st.turn n = true →
    (∀ p ∈ (vatPar st.params).slot n (vatPar st.params).rows (vatPar st.params).cols, s.b.canRead r.ref.tenant p.1 p.2 = true) →
    Block.loadAll x.field r.ref.tenant ((vatPar st.params).slot n (vatPar st.params).rows (vatPar st.params).cols) s.b [] = (b1, l, stOk) →
    completes (.vatLoadTile a n []) s (fun b =>
      b.edgeAt (stRun a) j = some (ed.plus (convertTile r.seed a.station ed.entry.fmt { fmt := (vatPar st.params).mfmt, ovf := false, unf := false, last := decide (n + 1 = (vatPar st.params).count), flags := 0, rows := (vatPar st.params).rows, cols := (vatPar st.params).cols, no := n, dbytes := l.length, seq := ((vatPar st.params).ord + n) % 2 ^ 48, data := l }).1) ∧
      b.stAt a = some { st with active := workDone st.active n } ∧ (∀ z, z ≠ stRun a → b.findRun z = s.b.findRun z) ∧ b.vat = b1.vat ∧ b.start = s.b.start ∧
      b.cal = s.b.cal ∧ b.streams = s.b.streams ∧ (∀ q, b.byteAt q = b1.byteAt q))) ∧
  (∀ (s : State) (a : StRef) (n : Nat) (r : Run) (st : Station) (x : Active) (t : Tile) (b1 : Block), s.b.working a n = some (r, st, x) → st.entry.type = .vat → x.tile 0 = some t →
    (vatPar st.params).mode = vatStore → t.rows ≤ (vatPar st.params).rows → t.cols ≤ (vatPar st.params).cols →
    s.b.canWriteAll r.ref.tenant ((vatPar st.params).slot t.no t.rows t.cols) = true →
    Block.storeAll x.field r.ref.tenant (cutRanges ((vatPar st.params).slot t.no t.rows t.cols) (convertTile r.seed a.station (vatPar st.params).mfmt t).1.data)
      ((s.b.countSizing x.field (convertTile r.seed a.station (vatPar st.params).mfmt t).2).modRun r.ref (fun z =>
        { z with ovf := z.ovf || (convertTile r.seed a.station (vatPar st.params).mfmt t).1.ovf, unf := z.unf || (convertTile r.seed a.station (vatPar st.params).mfmt t).1.unf })) = (b1, stOk) →
    completes (.vatStoreTile a n []) s (fun b => b.stAt a = some { st with active := workDone st.active n } ∧ (∀ z, z ≠ stRun a → b.findRun z = s.b.findRun z) ∧ b.vat = b1.vat ∧
      b.start = s.b.start ∧ b.cal = s.b.cal ∧ b.streams = s.b.streams ∧ (∀ q, b.byteAt q = b1.byteAt q))) ∧
  (∀ (s : State) (a : StRef) (n va len pa : Nat) (r : Run) (st : Station) (x : Active) (t : Tile), s.memSound → s.b.working a n = some (r, st, x) → st.entry.type = .vat → x.tile 0 = some t →
    (vatPar st.params).mode = vatStore → t.rows ≤ (vatPar st.params).rows → t.cols ≤ (vatPar st.params).cols → (vatPar st.params).slot t.no t.rows t.cols = [(va, len)] →
    0 < len → va % 64 + len ≤ 64 → (convertTile r.seed a.station (vatPar st.params).mfmt t).1.data.length = len → s.b.vat.translate r.ref.tenant va .store = .ok pa → regionOf pa = 1 → s.b.stays r.ref.tenant va → s.b.feltBadIn pa len = [] → (∀ k, (s.b.eave k).par = []) →
    completes (.vatStoreTile a n []) s (fun b => b.stAt a = some { st with active := workDone st.active n } ∧
      (∀ q, b.byteAt q = if pa ≤ q ∧ q < pa + len then (convertTile r.seed a.station (vatPar st.params).mfmt t).1.data.getD (q - pa) 0#8 else s.b.byteAt q) ∧
      b = { s.b with runs := b.runs, vat := b.vat, ctrs := b.ctrs, mem := b.mem, feltBad := b.feltBad })) ∧
  (∀ (s : State) (a : StRef) (n : Nat) (r : Run) (st : Station) (x : Active) (t : Tile) (h : Kv Nat Nat), s.b.working a n = some (r, st, x) → st.entry.type = .vat → x.tile 0 = some t →
    (vatPar st.params).mode = vatHint → st.turn n = true → st.body = .vat h →
    completes (.vatHintRecord a n) s (fun b =>
      (h.getD n 0 + 1 < t.rows → b.stAt a = some { st with body := .vat (h.set n (h.getD n 0 + 1)) }) ∧
      (t.rows ≤ h.getD n 0 + 1 → b.stAt a = some { st with body := .vat (h.del n), active := workDone st.active n }) ∧
      b.vat = (s.b.hintRecord r.ref.tenant (t.row 32 (h.getD n 0))).1.vat ∧ (∀ q, b.byteAt q = (s.b.hintRecord r.ref.tenant (t.row 32 (h.getD n 0))).1.byteAt q) ∧
      (hintOk (t.row 32 (h.getD n 0)) = false → b.vat = s.b.vat ∧ b.ctr Map.vatHintDrop = s.b.ctr Map.vatHintDrop + 1#32 ∧ wbit (b.err Map.vatErr) 1 = true) ∧
      b.start = s.b.start ∧ b.cal = s.b.cal ∧ b.streams = s.b.streams ∧ ((∀ y ∈ s.b.vat.sheets, y.evict = none) → b.memKept s.b)))

/-- A STORE tile whose rows or cols exceed the slot's kills the run with cause VAT_SHAPE, 0x2F. A load or store of a tile that receives a status other than OK receives UNMAPPED, DENIED, UNCORRECTABLE or FAR_LOST, and kills the run with that status as its cause. In every case the detail is the tile_no. (R411) -/
def Obligations.VatTileKills : Prop :=
  (∀ (s : State) (a : StRef) (n : Nat) (r : Run) (st : Station) (x : Active) (t : Tile), s.b.working a n = some (r, st, x) → st.entry.type = .vat → x.tile 0 = some t →
    (vatPar st.params).mode = vatStore → ((vatPar st.params).rows < t.rows ∨ (vatPar st.params).cols < t.cols) →
    completes (.vatStoreTile a n []) s (fun b => b.killedWith (stRun a) 0x2F a.station (BitVec.ofNat 32 t.no) ∧ b.memKept s.b)) ∧
  (∀ (s : State) (a : StRef) (n status : Nat) (r : Run) (st : Station) (x : Active) (e : EdgeEntry) (b1 : Block) (l : List Byte), s.b.working a n = some (r, st, x) → st.entry.type = .vat →
    (vatPar st.params).mode = vatLoad → r.outShape a.station 0 = some e → st.outbox = [] → st.turn n = true →
    (∀ p ∈ (vatPar st.params).slot n (vatPar st.params).rows (vatPar st.params).cols, s.b.canRead r.ref.tenant p.1 p.2 = true) →
    Block.loadAll x.field r.ref.tenant ((vatPar st.params).slot n (vatPar st.params).rows (vatPar st.params).cols) s.b [] = (b1, l, status) → status ≠ stOk →
    status ∈ [0x01, 0x02, 0x03, 0x0D] ∧ completes (.vatLoadTile a n []) s (fun b => b.killedWith (stRun a) status a.station (BitVec.ofNat 32 n) ∧ (∀ q, b.byteAt q = b1.byteAt q))) ∧
  (∀ (s : State) (a : StRef) (n status : Nat) (r : Run) (st : Station) (x : Active) (t : Tile) (b1 : Block), s.b.working a n = some (r, st, x) → st.entry.type = .vat → x.tile 0 = some t →
    (vatPar st.params).mode = vatStore → t.rows ≤ (vatPar st.params).rows → t.cols ≤ (vatPar st.params).cols →
    s.b.canWriteAll r.ref.tenant ((vatPar st.params).slot t.no t.rows t.cols) = true →
    Block.storeAll x.field r.ref.tenant (cutRanges ((vatPar st.params).slot t.no t.rows t.cols) (convertTile r.seed a.station (vatPar st.params).mfmt t).1.data)
      ((s.b.countSizing x.field (convertTile r.seed a.station (vatPar st.params).mfmt t).2).modRun r.ref (fun z =>
        { z with ovf := z.ovf || (convertTile r.seed a.station (vatPar st.params).mfmt t).1.ovf, unf := z.unf || (convertTile r.seed a.station (vatPar st.params).mfmt t).1.unf })) = (b1, status) →
    status ≠ stOk →
    status ∈ [0x01, 0x02, 0x03, 0x0D] ∧ completes (.vatStoreTile a n []) s (fun b => b.killedWith (stRun a) status a.station (BitVec.ofNat 32 t.no) ∧ (∀ q, b.byteAt q = b1.byteAt q)))

/-- An access to an evicted sheet begins a page-in where none is in progress, and VAT_PAGE_STALL counts: with a slot of its field free, and no other page-in waiting, it takes that slot, which reads zero, and the read of the page needed goes out first; with none, a victim's eviction begins; with no victim and no slot anywhere it waits. An access to a page that a page-in in progress has not brought joins it. A far read that completes frees its place for the next read. One that comes poisoned, or has taken the timeout, kills every run that needs the sheet, with status 0x0D, loses the sheet and sets VAT_ERR bit 0. A page that arrives is written to its slot, byte for byte, and the last one makes the sheet resident. With no demand page-in waiting, a prefetch range has the page-in of its first sheet begun while its tenant is below its quota and the port has room, and a range with none left goes, counted when late. (R10, R65, R140, R402, R403, R404, R408) -/
def Obligations.VatPagesIn : Prop :=
  (∀ (s : State) (t va dev slot : Nat) (need : Option Need) (o : Obj) (sh : Sheet) (b0 : Block), s.b.serving = true → s.b.vat.findObj t va = some o → s.b.vat.sheet t (va / sheetBytes) = some sh →
    sh.place = .far dev slot → sh.paging = none → s.b.noneWaits → s.b.vat.inFlight (s.b.vat.portOf dev) < 64 → s.b.vat.kindAt sh = some (kindOf o.placed o.field o.spread) →
    b0 = (s.b.bump Map.vatPageStall 1).modSheet t (va / sheetBytes) (fun x => { x with paging := some (askedPage (va % sheetBytes / pageBytes) s.b.now need.toList) }) →
    (∀ b1 d, s.b.hbmFree ≠ 0 → b0.takeSlot (kindOf o.placed o.field o.spread) = some (b1, d) → (∀ z ∈ b1.vat.rows, z.kind ≠ .parity) →
      completes (.demandPageIn t va need) s (fun b =>
        b.vat.sheet t (va / sheetBytes) = some { sh with dirty := false, paging := some { askedPage (va % sheetBytes / pageBytes) s.b.now need.toList with dst := some d, out := [(va % sheetBytes / pageBytes, s.b.now)] } } ∧
        b.ctr Map.vatPageStall = s.b.ctr Map.vatPageStall + 1#32 ∧ (∀ q, b.byteAt q = if b1.vat.inSlot d.1 d.2 q = true then 0#8 else b1.byteAt q) ∧
        b = { s.b with vat := b.vat, poison := b.poison, ctrs := b.ctrs, mem := b.mem })) ∧
    (∀ v d, (s.b.hbmFree = 0 ∨ b0.takeSlot (kindOf o.placed o.field o.spread) = none) → (∀ x ∈ s.b.vat.sheets, x.evict = none) → b0.vat.useHbm t < (b0.tenant t).quotaHbm →
      b0.victim (kindOf o.placed o.field o.spread) none = some v → b0.vat.sheet v.tenant v.num = some v → v.farCopy = none → b0.vat.takeFar = some d → s.b.vat.inFlight (s.b.vat.portOf d.1) < 64 →
      completes (.demandPageIn t va need) s (fun b =>
        b.vat.sheet v.tenant v.num = some { v with evict := some { dev := d.1, slot := d.2, since := s.b.now, removed := false, clean := false } } ∧
        b.ctr Map.vatPageStall = s.b.ctr Map.vatPageStall + 1#32 ∧ b = { s.b with vat := b.vat, ctrs := b.ctrs, mem := b.mem } ∧ b.memKept s.b)) ∧
    ((s.b.hbmFree = 0 ∨ b0.takeSlot (kindOf o.placed o.field o.spread) = none) → b0.victim (kindOf o.placed o.field o.spread) none = none → b0.takeSheet (kindOf o.placed o.field o.spread) = none →
      completes (.demandPageIn t va need) s (fun b => b = { b0 with mem := b.mem } ∧ b.memKept s.b))) ∧
  (∀ (s : State) (t va dev slot : Nat) (need : Option Need) (o : Obj) (sh : Sheet) (p : Paging), s.b.serving = true → s.b.vat.findObj t va = some o → s.b.vat.sheet t (va / sheetBytes) = some sh →
    sh.place = .far dev slot → sh.paging = some p → p.dst.isSome = true → p.arrived.contains (va % sheetBytes / pageBytes) = false → s.b.noneWaits →
    completes (.demandPageIn t va need) s (fun b => b.vat.sheet t (va / sheetBytes) = some { sh with paging := some (p.join (va % sheetBytes / pageBytes) s.b.now need.toList) } ∧
      b.ctr Map.vatPageStall = s.b.ctr Map.vatPageStall + 1#32 ∧ b = { s.b with vat := { s.b.vat with sheets := b.vat.sheets }, ctrs := b.ctrs, mem := b.mem } ∧ b.memKept s.b)) ∧
  (∀ (s : State) (t num page dev t0 : Nat) (sh : Sheet) (p : Paging), s.b.farRead t num page = some (sh, dev, t0) → sh.paging = some p →
    completes (.farReadCompletion t num page false) s (fun b =>
      b.vat.sheet t num = some { sh with paging := some (({ p with out := p.out.filter (fun o => o.1 ≠ page), got := p.got ++ [page] } : Paging).send s.b.now) } ∧
      b = { s.b with vat := { s.b.vat with sheets := b.vat.sheets }, mem := b.mem } ∧ b.memKept s.b)) ∧
  (∀ (s : State) (t num page dev t0 : Nat) (sh : Sheet) (p : Paging) (g : Image), s.b.farRead t num page = some (sh, dev, t0) → sh.paging = some p → s.b.noneWaits →
    s.b.start.img = some g → g.gcplTo ≤ s.b.ctlSince t0 →
    ∀ c ∈ [Instr.farReadCompletion t num page true, .gableCompletionTimeout t num page],
    completes c s (fun b => (∀ n ∈ p.needs, ∀ x, b.findRun { tenant := t, handle := n.handle } = some x → x.killed.isSome = true) ∧
      (∀ n r, p.needs = [n] → s.b.findRun { tenant := t, handle := n.handle } = some r → r.killed = none → b.killedWith { tenant := t, handle := n.handle } 0x0D n.station n.detail) ∧
      (b.vat.sheet t num).any (fun x => decide (x.place = .lost ∧ x.paging = none ∧ x.farCopy = none)) = true ∧ wbit (b.err Map.vatErr) 0 = true ∧
      (∀ e ∈ b.vat.xlate, (t, num) ∉ e.2) ∧ b.start = s.b.start ∧ b.memKept s.b)) ∧
  (∀ (s : State) (t num page dev t0 : Nat) (sh : Sheet) (g : Image), s.b.farRead t num page = some (sh, dev, t0) → s.b.start.img = some g → s.b.ctlSince t0 < g.gcplTo →
    completes (.gableCompletionTimeout t num page) s (fun b => b = { s.b with mem := b.mem } ∧ b.memKept s.b)) ∧
  (∀ (s : State) (t num page dev slot : Nat) (d : Nat × Nat) (sh : Sheet) (p : Paging) (row : ZRow) (rest : List Nat), s.memSound → s.b.vat.sheet t num = some sh → sh.place = .far dev slot → sh.paging = some p →
    p.dst = some d → p.got = page :: rest → s.b.vat.row d.1 = some row → (∀ z ∈ s.b.vat.rows, z.kind ≠ .parity) → s.b.noneWaits →
    (∀ x y, x < sheetBytes → y < sheetBytes → row.phys d.2 x = row.phys d.2 y → x = y) → (page + 1) * pageBytes ≤ sheetBytes →
    completes (.pageArrival t num) s (fun b =>
      (∀ off, page * pageBytes ≤ off → off < (page + 1) * pageBytes →
        b.byteAt (row.phys d.2 off) = if s.b.byteAt (s.b.physFar dev slot off) = 0#8 then s.b.byteAt (row.phys d.2 off) else s.b.byteAt (s.b.physFar dev slot off)) ∧
      (∀ q, (∀ off, page * pageBytes ≤ off → off < (page + 1) * pageBytes → row.phys d.2 off ≠ q) → b.byteAt q = s.b.byteAt q) ∧
      (p.arrived.length + 1 ≠ 512 → b.vat.sheet t num = some { sh with paging := some { p with got := rest, arrived := page :: p.arrived } }) ∧
      (p.arrived.length + 1 = 512 → b.vat.sheet t num = some { sh with place := .stack d.1 d.2, paging := none, farCopy := some (dev, slot), touched := true, lastUse := 5 * s.b.now / 1024 } ∧
        b.ctr Map.vatPageinCnt = s.b.ctr Map.vatPageinCnt + 1#32) ∧
      b = { s.b with vat := { s.b.vat with sheets := b.vat.sheets }, ctrs := b.ctrs, mem := b.mem })) ∧
  (∀ (s : State) (r : PrefetchRange), s.b.vat.ranges = [r] → s.b.vat.sheets.any (fun x => x.paging.any (fun p => p.dst.isNone && !p.prefetch)) = false →
    ((s.b.vat.notResident r.tenant r.base r.len).filter (fun x => x.paging.isNone) = [] →
      completes .prefetchServe s (fun b => b.vat.ranges = [] ∧ b.ctr Map.vatHintLate = s.b.ctr Map.vatHintLate + (if (r.deadline - s.b.recTime).toInt < 0 then 1#32 else 0#32) ∧
        b = { s.b with vat := { s.b.vat with ranges := [] }, ctrs := b.ctrs, mem := b.mem } ∧ b.memKept s.b)) ∧
    (∀ sh l dev slot, (s.b.vat.notResident r.tenant r.base r.len).filter (fun x => x.paging.isNone) = sh :: l → sh.place = .far dev slot →
      (s.b.vat.useHbm r.tenant + s.b.vat.sheets.countP (fun x => decide (x.tenant = r.tenant) && x.waits) < (s.b.tenant r.tenant).quotaHbm → s.b.vat.inFlight (s.b.vat.portOf dev) < 64 →
        completes .prefetchServe s (fun b => (b.vat.sheet r.tenant sh.num).any (fun x => x.paging.any (fun p => decide (p.prefetch = true ∧ p.first = 0 ∧ p.since = s.b.now))) = true ∧
          b.vat.ranges = [r] ∧ b.runs = s.b.runs ∧ b.start = s.b.start ∧ b.streams = s.b.streams)) ∧
      (((s.b.tenant r.tenant).quotaHbm ≤ s.b.vat.useHbm r.tenant + s.b.vat.sheets.countP (fun x => decide (x.tenant = r.tenant) && x.waits) ∨ 64 ≤ s.b.vat.inFlight (s.b.vat.portOf dev)) →
        completes .prefetchServe s (fun b => b = { s.b with mem := b.mem } ∧ b.memKept s.b))))

/-- A first touch of a page of a FELT object or of a stack sheet makes it read zero, every other byte as before, and VAT_FILL_CNT counts. A lookup that misses counts and takes an entry where the sheet is there; one that hits becomes the most recently used and does not count. The cycle at which an eviction has stood for 32 CK_CTL cycles removes its translations from every cache. An eviction whose translations are gone ends with the sheet's bytes in its far slot, zeros for one never touched, and VAT_PAGEOUT_CNT counts; one whose translations stand is cancelled, and the sheet keeps its place. (R396, R398, R400, R403, R404, R406) -/
def Obligations.VatSheets : Prop :=
  (∀ (s : State) (t va pa : Nat) (o : Obj), s.b.serving = true → s.b.vat.findObj t va = some o → o.placed = 3 → o.felt[(va - o.base) / pageBytes]? = some pa → o.feltTouched.contains ((va - o.base) / pageBytes) = false →
    completes (.firstTouchFill t va) s (fun b => b.vat.findObj t va = some { o with feltTouched := ((va - o.base) / pageBytes) :: o.feltTouched } ∧
      (∀ q, b.byteAt q = if pa ≤ q ∧ q < pa + pageBytes then 0#8 else s.b.byteAt q) ∧ b.ctr Map.vatFillCnt = s.b.ctr Map.vatFillCnt + 1#32 ∧
      b = { s.b with vat := { s.b.vat with objs := b.vat.objs }, ctrs := b.ctrs, feltBad := b.feltBad, mem := b.mem })) ∧
  (∀ (s : State) (t va r j : Nat) (o : Obj) (sh : Sheet), s.b.serving = true → s.b.vat.findObj t va = some o → o.placed ≠ 3 → s.b.vat.sheet t (va / sheetBytes) = some sh → sh.place = .stack r j → sh.touched = false →
    sh.evict = none → (∀ z ∈ s.b.vat.rows, z.kind ≠ .parity) →
    completes (.firstTouchFill t va) s (fun b => b.vat.sheet t (va / sheetBytes) = some { sh with touched := true, dirty := true } ∧
      (∀ q, b.byteAt q = if s.b.vat.inSlot r j q = true then 0#8 else s.b.byteAt q) ∧ b.ctr Map.vatFillCnt = s.b.ctr Map.vatFillCnt + 1#32 ∧
      b = { s.b with vat := { s.b.vat with sheets := b.vat.sheets }, ctrs := b.ctrs, poison := b.poison, mem := b.mem })) ∧
  (∀ (s : State) (f t va : Nat), s.b.serving = true →
    completes (.translationMiss f t va) s (fun b =>
      ((s.b.vat.xlate.getD f []).contains (t, va / sheetBytes) = true → b.vat.xlate.getD f [] = (t, va / sheetBytes) :: (s.b.vat.xlate.getD f []).erase (t, va / sheetBytes) ∧ b.ctrs = s.b.ctrs) ∧
      ((s.b.vat.xlate.getD f []).contains (t, va / sheetBytes) = false → b.ctr Map.vatXlateMiss = s.b.ctr Map.vatXlateMiss + 1#32 ∧
        ((s.b.vat.sheet t (va / sheetBytes)).isSome = true → (b.vat.xlate.getD f []).head? = some (t, va / sheetBytes)) ∧
        (s.b.vat.sheet t (va / sheetBytes) = none → b.vat = s.b.vat)) ∧
      (∀ g, g ≠ f → b.vat.xlate.getD g [] = s.b.vat.xlate.getD g []) ∧
      b = { s.b with vat := { s.b.vat with xlate := b.vat.xlate }, ctrs := b.ctrs, mem := b.mem } ∧ b.memKept s.b)) ∧
  (∀ (s : State) (sh : Sheet) (e : Evict), s.pending = [] → s.b.pins.pwrGood = true → s.b.vat.sheets = [sh] → sh.evict = some e → e.removed = false → e.clean = false → sh.paging = none → 32 ≤ 5 * (s.b.now + 1 - e.since) →
    ∃ t, step s = .next t ∧ t.b.vat.sheets = [{ sh with evict := some { e with removed := true } }] ∧ (∀ x ∈ t.b.vat.xlate, (sh.tenant, sh.num) ∉ x.2) ∧ t.b.memKept s.b) ∧
  (∀ (s : State) (t num r j : Nat) (sh : Sheet) (e : Evict), s.memSound → s.b.vat.sheet t num = some sh → sh.place = .stack r j → sh.evict = some e → e.removed = true → e.clean = false → s.b.noneWaits →
    (∀ q q' off, s.b.vat.slotOf q = some (r, j, off) → s.b.vat.slotOf q' = some (r, j, off) → q = q') →
    completes (.farSlotWriteDone t num) s (fun b => b.vat.sheet t num = some { sh with place := .far e.dev e.slot, evict := none, farCopy := none, dirty := false, touched := true } ∧
      (sh.touched = true → ∀ q off, s.b.vat.slotOf q = some (r, j, off) → b.byteAt (s.b.physFar e.dev e.slot off) = s.b.byteAt q) ∧
      (sh.touched = false → ∀ off, off < sheetBytes → b.byteAt (s.b.physFar e.dev e.slot off) = 0#8) ∧
      (∀ q, (q < s.b.physFar e.dev e.slot 0 ∨ s.b.physFar e.dev e.slot 0 + sheetBytes ≤ q) → b.byteAt q = s.b.byteAt q) ∧
      b.ctr Map.vatPageoutCnt = s.b.ctr Map.vatPageoutCnt + 1#32 ∧
      b = { s.b with vat := { s.b.vat with sheets := b.vat.sheets }, ctrs := b.ctrs, mem := b.mem })) ∧
  (∀ (s : State) (t num : Nat) (sh : Sheet) (e : Evict), s.b.vat.sheet t num = some sh → sh.evict = some e →
    (e.removed = false → s.b.noneWaits →
      completes (.evictionCancel t num) s (fun b => b.vat.sheet t num = some { sh with evict := none, lastUse := 5 * s.b.now / 1024, farCopy := if e.clean then some (e.dev, e.slot) else none } ∧
        b = { s.b with vat := { s.b.vat with sheets := b.vat.sheets }, mem := b.mem } ∧ b.memKept s.b)) ∧
    (e.removed = true → completes (.evictionCancel t num) s (fun b => b = { s.b with mem := b.mem } ∧ b.memKept s.b)) ∧
    (e.removed = false → completes (.farSlotWriteDone t num) s (fun b => b = { s.b with mem := b.mem } ∧ b.memKept s.b)))

/-- A camera station gets the entries of its next window and forms its rays at once, its work done with the last; without enough free entries, or behind a window that asked before, it waits in the order of asking and nothing else changes. A station with rows to form gets an empty window and forms them into it. A full window is put in an order that is a permutation of its rays, ascending by key and then by ordinal. The next yealm of a window in order whose rays have had the pass before goes out as a tile and is counted. A whole cohort whose passes are done gives back its windows; with close records asked for they go out in one tile, in ascending sequence number. (R279, R285, R287, R288, R289, R290, R291, R293, R294) -/
def Obligations.YealmWindows : Prop :=
  (∀ (s : State) (a : StRef) (r : Run) (st : Station) (need n : Nat), s.b.live a = some (r, st) → st.entry.type = .yealm → (yealmPar st.params).src = 3 → st.yealm.windows = [] → st.active.any (fun x => !x.done) = true →
    st.yealm.formed < camW st.params * camH st.params → need = min (yealmPar st.params).winRays (camW st.params * camH st.params - st.yealm.formed) → n = st.yealm.asked.getD s.b.nextAsk →
    (∀ slots, s.b.asksBefore n = false → s.b.allocRays st.homeField (yealmPar st.params).ents need = some slots →
      completes (.yealmWindowAlloc a []) s (fun b => (b.stAt a).any (fun z => decide (
          z.yealm.windows = [{ no := st.yealm.opened, slots := slots, rays := (List.range need).map (fun i => cameraRay (yealmPar st.params) st.params (st.yealm.formed + i)), full := true, order := none, tokens := [] }] ∧
          z.yealm.formed = st.yealm.formed + need ∧ z.yealm.opened = st.yealm.opened + 1 ∧ z.yealm.asked = none ∧ (z.yealm.total = some (st.yealm.opened + 1) ↔ st.yealm.formed + need = camW st.params * camH st.params))) = true ∧
        (st.yealm.formed + need = camW st.params * camH st.params → (b.stAt a).any (fun z => z.active.all (fun x => x.done)) = true) ∧
        b.ctr (Map.yeaRayCnt st.homeField) = s.b.ctr (Map.yeaRayCnt st.homeField) + BitVec.ofNat 32 need ∧ b = { s.b with runs := b.runs, ctrs := b.ctrs, mem := b.mem } ∧ b.memKept s.b)) ∧
    ((s.b.asksBefore n = true ∨ s.b.allocRays st.homeField (yealmPar st.params).ents need = none) →
      completes (.yealmWindowAlloc a []) s (fun b => b.stAt a = some { st with body := .yealm { st.yealm with asked := some n } } ∧ b = { s.b with runs := b.runs, mem := b.mem } ∧ b.memKept s.b))) ∧
  (∀ (s : State) (a : StRef) (r : Run) (st : Station) (slots : List Nat), s.b.live a = some (r, st) → st.entry.type = .yealm → (yealmPar st.params).src = 1 ∨ (yealmPar st.params).src = 2 →
    st.yealm.windows = [] → st.yealm.rows ≠ [] → st.yealm.rows.length ≤ (yealmPar st.params).winRays → st.portClosed 0 = false → s.b.asksBefore (st.yealm.asked.getD s.b.nextAsk) = false →
    s.b.allocRays st.homeField (yealmPar st.params).ents (yealmPar st.params).winRays = some slots →
    completes (.yealmWindowAlloc a []) s (fun b => (b.stAt a).any (fun z => decide (z.yealm.rows = [] ∧ z.yealm.formed = st.yealm.formed + st.yealm.rows.length ∧ z.yealm.opened = st.yealm.opened + 1 ∧ z.yealm.asked = none ∧
          z.yealm.windows = [{ no := st.yealm.opened, slots := slots, rays := (List.range st.yealm.rows.length).map (fun i => rowEntry (yealmPar st.params) (((r.inShape a.station 0).map (fun e => e.fmt)).getD 1) [] (st.yealm.formed + i) (st.yealm.rows.getD i [])), full := decide ((yealmPar st.params).winRays ≤ st.yealm.rows.length), order := none, tokens := [] }]) && z.active.all (fun x => x.done)) = true ∧
      b = { s.b with runs := b.runs, ctrs := b.ctrs, mem := b.mem } ∧ b.memKept s.b)) ∧
  (∀ (s : State) (a : StRef) (r : Run) (st : Station) (w : YWindow), s.b.live a = some (r, st) → st.entry.type = .yealm → st.yealm.windows = [w] → w.full = true → w.order = none →
    ∃ o : List Nat, o.Perm (List.range w.rays.length) ∧
      o.Pairwise (fun x y => rayKey (yealmPar st.params).kind (w.rays.getD x []) < rayKey (yealmPar st.params).kind (w.rays.getD y []) ∨
        rayKey (yealmPar st.params).kind (w.rays.getD x []) = rayKey (yealmPar st.params).kind (w.rays.getD y []) ∧ x < y) ∧
      completes (.yealmWindowSort a) s (fun b =>
        b.stAt a = some { st with body := .yealm { st.yealm with windows := [{ w with order := some o, tokens := List.replicate (ceilDiv w.rays.length 16) 0 }] } } ∧
        b = { s.b with runs := b.runs, mem := b.mem } ∧ b.memKept s.b)) ∧
  (∀ (s : State) (a : StRef) (r : Run) (st : Station) (w : YWindow) (j : Nat) (ed : Edge) (c : Cursor), s.b.live a = some (r, st) → st.entry.type = .yealm → st.outbox = [] → st.homeField < 8 →
    c = (if st.yealm.yealm = 0 then ({ cohort := st.yealm.cohort, pass := st.yealm.pass, window := st.yealm.window } : Cursor).roll (yealmPar st.params) st.yealm.total
         else { cohort := st.yealm.cohort, pass := st.yealm.pass, window := st.yealm.window }) →
    st.yealm.windows = [w] → w.no = c.window → w.order.isSome = true →
    (c.pass ≤ w.tokens.getD st.yealm.yealm 0 → r.outEdge a.station 0 = some (j, ed) → s.b.canPush (stRun a) j ed →
      completes (.yealmEmit a) s (fun b => b.edgeAt (stRun a) j = some (ed.plus (yealmTile (yealmPar st.params) c w st.yealm.yealm)) ∧
        b.stAt a = some { st with body := .yealm { st.yealm with cohort := c.cohort, pass := c.pass, window := if w.count ≤ st.yealm.yealm + 1 then c.window + 1 else c.window, yealm := if w.count ≤ st.yealm.yealm + 1 then 0 else st.yealm.yealm + 1 } } ∧
        b.ctr (Map.yeaYealmCnt st.homeField) = s.b.ctr (Map.yeaYealmCnt st.homeField) + 1#32 ∧ b = { s.b with runs := b.runs, ctrs := b.ctrs, mem := b.mem } ∧ b.memKept s.b)) ∧
    (w.tokens.getD st.yealm.yealm 0 < c.pass → completes (.yealmEmit a) s (fun b => b = { s.b with mem := b.mem } ∧ b.memKept s.b))) ∧
  (∀ (s : State) (a : StRef) (r : Run) (st : Station) (w0 : YWindow) (l : List YWindow), s.b.live a = some (r, st) → st.entry.type = .yealm → st.outbox = [] → st.yealm.windows = w0 :: l → st.yealm.total = none →
    (∀ w ∈ st.yealm.windows, w.no / (yealmPar st.params).cohort = w0.no / (yealmPar st.params).cohort ∧ w.order.isSome = true ∧ ∀ n ∈ w.tokens, (yealmPar st.params).passes ≤ n) →
    st.yealm.windows.length = (yealmPar st.params).cohort →
    ((yealmPar st.params).close = false → completes (.cohortClose a) s (fun b => b.stAt a = some { st with body := .yealm { st.yealm with windows := [] } } ∧ b = { s.b with runs := b.runs, mem := b.mem } ∧ b.memKept s.b)) ∧
    (∀ (j : Nat) (ed : Edge) (rays : List (List Word)), (yealmPar st.params).close = true → r.outEdge a.station 1 = some (j, ed) → s.b.canPush (stRun a) j ed → rays.Perm (st.yealm.windows.flatMap (fun w => w.rays)) →
      rays.Pairwise (fun x y => entrySeq x < entrySeq y) → rays ≠ [] → rays.length ≤ ed.entry.rows →
      completes (.cohortClose a) s (fun b => b.edgeAt (stRun a) j = some (ed.plus (rowsTile 32 (entrySeq (rays.headD [])) 0 (rays.map closeRow))) ∧
        b.stAt a = some { st with body := .yealm { st.yealm with windows := [] } } ∧ b.memKept s.b)))

/-- A sound tree descriptor on port 1 is held under the next ordinal; one that breaks its table kills the run with status 0x24 and sets RAF_ERR bit 1. A unit walks its yealm's tree lane by lane: the hits go out in one tile in order, and what the lanes' entries become is kept for the completion; a bad node kills the run with status 0x23 and sets RAF_ERR bit 0, and a failing read with its status. No walk gives more hits than the station's cap. The completion writes the entries back to the YEALM station, posts a token to it and one to the COUCH that takes the hits, and ends the unit's work. (R227, R228, R237, R238, R248, R249, R250, R251, R252, R258, R281, R368) -/
def Obligations.RafterWalks : Prop :=
  (∀ (s : State) (a : StRef) (r : Run) (st : Station) (t : Tile), s.b.live a = some (r, st) → st.entry.type = .rafter → r.head a.station 1 = some t → t.closing = false → t.last = false → st.rafter.trees = [] →
    st.rafter.high = none → s.b.ridge.items = [] → st.active = [] →
    ((parseTree t.data).ok (r.rafterKind a.station) = true → completes (.treeDescriptorArrival a []) s (fun b =>
      (b.stAt a).any (fun z => decide (z.rafter = { st.rafter with trees := [{ ord := st.rafter.got, desc := t.data, marked := false, users := 0 }], got := st.rafter.got + 1 })) = true ∧
      b.start = s.b.start ∧ b.streams = s.b.streams ∧
      (s.b.canRead r.ref.tenant (parseTree t.data).nodeAddr (nodeSize (parseTree t.data).kind) = false → b.vat = s.b.vat ∧ b.memKept s.b))) ∧
    ((parseTree t.data).ok (r.rafterKind a.station) = false → completes (.treeDescriptorArrival a []) s (fun b =>
      b.killedWith (stRun a) 0x24 a.station (BitVec.ofNat 32 st.rafter.got) ∧ wbit (b.err (Map.rafErr st.homeField)) 1 = true ∧ b.vat = s.b.vat ∧ b.memKept s.b))) ∧
  (∀ (s : State) (a : StRef) (n j : Nat) (r : Run) (st : Station) (x : Active) (t : Tile) (d : TreeDesc) (desc : List Byte) (tree : Nat) (ed : Edge) (rd : Reader), s.b.working a n = some (r, st, x) →
    st.entry.type = .rafter → x.tile 0 = some t → st.rafter.done = [] → st.outbox = [] → st.treeHere t = true →
    desc = (if (rafterPar st.params).treeSrc then ((st.rafter.trees.find? (fun h => h.ord = yealmTree t)).map (fun h => h.desc)).getD [] else (s.b.peek x.field r.ref.tenant (rafterPar st.params).treeAddr 64).1) →
    d = parseTree desc → tree = (if (rafterPar st.params).treeSrc then yealmTree t else 0) →
    rd = (fun addr len => if s.b.canRead r.ref.tenant addr len then some (s.b.peek x.field r.ref.tenant addr len) else none) →
    ((rafterPar st.params).treeSrc = false → s.b.canRead r.ref.tenant (rafterPar st.params).treeAddr 64 = true ∧ (s.b.peek x.field r.ref.tenant (rafterPar st.params).treeAddr 64).2 = stOk ∧ d.ok (r.rafterKind a.station) = true) →
    (∀ l, runLanes rd d (rafterPar st.params) tree (yealmRays d.kind t) [] = .ok l → (rafterPar st.params).results = false → r.outEdge a.station 0 = some (j, ed) → s.b.canPush (stRun a) j ed →
      l.flatMap (fun o => o.2.hits) ≠ [] → (l.flatMap (fun o => o.2.hits)).length ≤ ed.entry.rows →
      completes (.yealmTraversal a n []) s (fun b => b.edgeAt (stRun a) j = some (ed.plus (rowsTile 32 (yealmSeq t) 0 (l.flatMap (fun o => o.2.hits)))) ∧
        (b.stAt a).any (fun z => decide (z.rafter.done = [{ ordinal := n, tree := tree, window := yealmWindowNo t, yidx := yealmIdx t, ycount := yealmCount t, hits := (l.flatMap (fun o => o.2.hits)).length, lanes := l.map (fun o => (o.1, o.2.entry)) }])) = true ∧ b.start = s.b.start ∧ b.streams = s.b.streams ∧ b.cal = s.b.cal)) ∧
    (∀ k, runLanes rd d (rafterPar st.params) tree (yealmRays d.kind t) [] = .node k →
      completes (.yealmTraversal a n []) s (fun b => b.killedWith (stRun a) 0x23 a.station (BitVec.ofNat 32 k) ∧ wbit (b.err (Map.rafErr x.field)) 0 = true ∧ b.vat = s.b.vat ∧ b.memKept s.b)) ∧
    (∀ k, runLanes rd d (rafterPar st.params) tree (yealmRays d.kind t) [] = .mem k →
      completes (.yealmTraversal a n []) s (fun b => b.killedWith (stRun a) k a.station 0#32 ∧ b.vat = s.b.vat ∧ b.memKept s.b))) ∧
  (∀ (rd : Reader) (t : TreeDesc) (p : RafterPar) (r : Ray) (w : Walk) (tr : Bool), 0 < p.cap → Ray.walk rd t p r = .done w tr → w.hits.length ≤ p.cap) ∧
  (∀ (s : State) (a : StRef) (n y : Nat) (r : Run) (st sy : Station) (x : Active) (d : YealmDone) (ys : YealmSt), s.b.working a n = some (r, st, x) → st.entry.type = .rafter → st.outbox = [] → st.rafter.done = [d] →
    d.ordinal = n → r.yealmOf a.station = some y → y ≠ a.station → r.stations[y]? = some sy → sy.body = .yealm ys →
    completes (.yealmComplete a n) s (fun b =>
      b.ridge.tokens = s.b.ridge.tokens ++ (y :: (r.couchOf a.station).toList).map (fun k => { run := r.ref, station := k, ordinal := n, tree := d.tree, window := d.window, yidx := d.yidx, ycount := d.ycount, hits := d.hits }) ∧
      b.stAt { a with station := y } = some { sy with body := .yealm (ys.writeBack (if r.rafterKind a.station = 2 then 2 else 1) d.lanes) } ∧
      (b.stAt a).any (fun z => decide (z.rafter.done = [] ∧ z.active = workDone st.active n)) = true ∧
      b = { s.b with runs := b.runs, ridge := { s.b.ridge with tokens := b.ridge.tokens }, nodeCaches := b.nodeCaches, mem := b.mem } ∧ b.memKept s.b))

/-- The entries of a hit tile that fit the buffer join their batch and are counted; more than buffer and Gutter can hold kills the run with status 0x26 and sets COU_ERR bit 0. A batch with its tokens and entries goes out as leaf-major records, the tile that ends it with flag [11] set; of a course its records and its directory entry are stored as well, and one beyond rec_len kills the run with status 0x27. Once every batch is out the course header is written. A replay emits the next batch of a sound course, from the end where reversed; with the last its work is done, and a header that is not the course's kills the run. (R299, R300, R302, R303, R304, R305, R306, R307) -/
def Obligations.CouchBatches : Prop :=
  (∀ (s : State) (a : StRef) (n : Nat) (r : Run) (st : Station) (x : Active) (t : Tile) (yi : Nat) (y : YealmPar) (ents : List (List Word)), s.b.working a n = some (r, st, x) → st.entry.type = .couch →
    x.tile 0 = some t → r.boundYealm a.station = some (yi, y) → s.b.isHeld a.tenant (r.heldEdge a.station 0) = false → st.couch.batches = [] → x.field < 8 → ents = (List.range t.rows).map (fun i => hitWords (t.row 32 i)) →
    (t.rows ≤ (couchPar st.params).buf * 4096 → completes (.hitTileIngest a n) s (fun b =>
      (b.stAt a).any (fun z => decide (z.couch.batches = [{ window := y.windowOf (hitSeq (ents.headD [])), tree := ((ents.headD []).getD 3 0#32).toNat, entries := ents, spilled := 0, tokens := 0, ycount := 0, declared := 0, field := x.field }] ∧ z.active = workDone st.active n)) = true ∧
      b.ctr (Map.couHitCnt x.field) = s.b.ctr (Map.couHitCnt x.field) + BitVec.ofNat 32 t.rows ∧ b = { s.b with runs := b.runs, ctrs := b.ctrs, mem := b.mem } ∧ b.memKept s.b)) ∧
    ((couchPar st.params).buf * 4096 < t.rows → s.b.gutterSize r.ref.tenant * 128 ≤ t.rows - (couchPar st.params).buf * 4096 → completes (.hitTileIngest a n) s (fun b =>
      b.killedWith (stRun a) 0x26 a.station (BitVec.ofNat 32 (y.windowOf (hitSeq (ents.headD [])))) ∧ wbit (b.err (Map.couErr x.field)) 0 = true ∧ b.vat = s.b.vat ∧ b.memKept s.b))) ∧
  (∀ (s : State) (a : StRef) (r : Run) (st : Station) (yi : Nat) (y : YealmPar) (j : Nat) (ed : Edge) (x : Batch) (cur : Cursor) (recs : List (List Byte)), s.b.live a = some (r, st) → st.entry.type = .couch →
    st.outbox = [] → r.boundYealm a.station = some (yi, y) → r.outEdge a.station 0 = some (j, ed) → cur = st.couch.cursor y (r.yealmTotal a.station) → st.couch.batches = [x] → x.window = cur.window →
    x.tree = r.batchTree a.station y cur → 0 < x.tokens → x.ycount ≤ x.tokens → x.declared ≤ x.entries.length → recs = batchRecords (couchPar st.params).bitmap s.b.freeKind y x →
    ((couchPar st.params).course = false → (couchPar st.params).replay = false → r.drained a.station = false → s.b.canPush (stRun a) j ed → (recs.flatMap (fun z => z)).length ≤ 32 * ed.entry.rows →
      completes (.batchEmit a []) s (fun b =>
        b.edgeAt (stRun a) j = some (ed.plus (rowsTile 32 x.tree 1 (chunk 32 (recs.flatMap (fun z => z)).length (recs.flatMap (fun z => z))))) ∧
        (b.stAt a).any (fun z => decide (z.couch.batches = [] ∧ z.couch.window = cur.window + 1 ∧ z.couch.nbatch = st.couch.nbatch + 1 ∧ z.finished = false)) = true ∧
        b = { s.b with runs := b.runs, ctrs := b.ctrs, mem := b.mem, free := if x.entries.isEmpty then s.b.free + 1 else s.b.free } ∧ b.memKept s.b)) ∧
    (∀ b1, (couchPar st.params).course = true → st.couch.off + (recs.flatMap (fun z => z)).length ≤ (couchPar st.params).recLen → 80 + 16 * st.couch.nbatch ≤ (couchPar st.params).dirLen →
      s.b.canWrite r.ref.tenant ((couchPar st.params).rec_ + st.couch.off) (recs.flatMap (fun z => z)).length = true → s.b.canWrite r.ref.tenant ((couchPar st.params).dir + (64 + 16 * st.couch.nbatch)) 16 = true →
      Block.storeAll x.field r.ref.tenant [((couchPar st.params).rec_ + st.couch.off, recs.flatMap (fun z => z)), ((couchPar st.params).dir + (64 + 16 * st.couch.nbatch),
        wordsBytes [BitVec.ofNat 32 x.tree, BitVec.ofNat 32 x.window, BitVec.ofNat 32 st.couch.off, BitVec.ofNat 32 (recs.flatMap (fun z => z)).length])] s.b = (b1, stOk) →
      completes (.batchEmit a []) s (fun b => (b.stAt a).any (fun z => decide (z.couch.batches = [] ∧ z.couch.window = cur.window + 1 ∧ z.couch.nbatch = st.couch.nbatch + 1 ∧
          z.couch.off = st.couch.off + (recs.flatMap (fun z => z)).length)) = true ∧ b.vat = b1.vat ∧ b.start = s.b.start ∧ (∀ q, b.byteAt q = b1.byteAt q))) ∧
    ((couchPar st.params).course = true → (couchPar st.params).recLen < st.couch.off + (recs.flatMap (fun z => z)).length →
      completes (.batchEmit a []) s (fun b => b.killedWith (stRun a) 0x27 a.station (BitVec.ofNat 32 (st.couch.nbatch % 2 ^ 31)) ∧ wbit (b.err (Map.couErr x.field)) 1 = true ∧ b.vat = s.b.vat ∧ b.memKept s.b))) ∧
  (∀ (s : State) (a : StRef) (r : Run) (st : Station) (b1 : Block), s.b.live a = some (r, st) → st.entry.type = .couch → (couchPar st.params).course = true → st.couch.header = false → r.couchOver a.station st = true →
    s.b.canWrite r.ref.tenant (couchPar st.params).dir 64 = true →
    Block.storeAll st.homeField r.ref.tenant [((couchPar st.params).dir, wordsBytes ([BitVec.ofNat 32 (0x4843 + 65536 * b2n (couchPar st.params).bitmap), BitVec.ofNat 32 st.couch.nbatch, BitVec.ofNat 32 st.couch.off,
      BitVec.ofNat 32 (((r.boundYealm a.station).map (fun y => y.2.lg)).getD 0)] ++ List.replicate 12 0#32))] s.b = (b1, stOk) →
    completes (.courseHeaderWrite a []) s (fun b => (b.stAt a).any (fun z => decide (z.couch = { st.couch with header := true })) = true ∧ b.vat = b1.vat ∧ b.start = s.b.start ∧ (∀ q, b.byteAt q = b1.byteAt q))) ∧
  (∀ (s : State) (a : StRef) (r : Run) (st : Station) (x : Active) (j n : Nat) (ed : Edge) (h : List Byte), s.b.live a = some (r, st) → st.entry.type = .couch → (couchPar st.params).replay = true → st.outbox = [] →
    st.couch.total.any (fun z => decide (z ≤ st.couch.replayed)) = false → st.active.find? (fun z => !z.done) = some x →
    r.outEdge a.station 0 = some (j, ed) → s.b.canRead r.ref.tenant (couchPar st.params).dir 64 = true → s.b.peek x.field r.ref.tenant (couchPar st.params).dir 64 = (h, stOk) → n = (wordAt h 1).toNat →
    (wfield (wordAt h 0) 0 16 ≠ 0x4843 → completes (.replay a []) s (fun b => b.killedWith (stRun a) 0x27 a.station 0x80000000#32 ∧ wbit (b.err (Map.couErr x.field)) 1 = true ∧ b.vat = s.b.vat ∧ b.memKept s.b)) ∧
    (wfield (wordAt h 0) 0 16 = 0x4843 → wbit (wordAt h 0) 16 = (couchPar st.params).bitmap → wfield (wordAt h 0) 17 1 = 0 → 64 + 16 * n ≤ (couchPar st.params).dirLen → n ≤ st.couch.replayed →
      completes (.replay a []) s (fun b => (b.stAt a).any (fun z => decide (z.couch.total = some n ∧ z.active = workDone st.active x.ordinal)) = true ∧ b = { s.b with runs := b.runs, mem := b.mem } ∧ b.memKept s.b)) ∧
    (∀ (k at_ : Nat) (d l : List Byte) (recs : List (List Byte)), wfield (wordAt h 0) 0 16 = 0x4843 → wbit (wordAt h 0) 16 = (couchPar st.params).bitmap → wfield (wordAt h 0) 17 1 = 0 →
      64 + 16 * n ≤ (couchPar st.params).dirLen → st.couch.replayed < n → k = (if (couchPar st.params).reverse then n - 1 - st.couch.replayed else st.couch.replayed) → at_ = (couchPar st.params).dir + 64 + 16 * k →
      s.b.canRead r.ref.tenant at_ 16 = true → s.b.peek x.field r.ref.tenant at_ 16 = (d, stOk) → (wordAt d 2).toNat + (wordAt d 3).toNat ≤ (couchPar st.params).recLen →
      s.b.canRead r.ref.tenant ((couchPar st.params).rec_ + (wordAt d 2).toNat) (wordAt d 3).toNat = true →
      s.b.peek x.field r.ref.tenant ((couchPar st.params).rec_ + (wordAt d 2).toNat) (wordAt d 3).toNat = (l, stOk) →
      recs = cutRecords (couchPar st.params).bitmap (2 ^ wfield (wordAt h 3) 0 5 / 8) (wordAt d 3).toNat l → recs.flatMap (fun z => z) ≠ [] → (recs.flatMap (fun z => z)).length ≤ 32 * ed.entry.rows →
      s.b.canPush (stRun a) j ed →
      completes (.replay a []) s (fun b => b.edgeAt (stRun a) j = some (ed.plus (rowsTile 32 (wordAt d 0).toNat 1 (chunk 32 (recs.flatMap (fun z => z)).length (recs.flatMap (fun z => z))))) ∧
        (b.stAt a).any (fun z => decide (z.couch.replayed = st.couch.replayed + 1 ∧ z.couch.total = some n ∧ z.finished = false)) = true ∧
        (n ≤ st.couch.replayed + 1 → (b.stAt a).any (fun z => decide (z.active = workDone st.active x.ordinal)) = true) ∧ b.start = s.b.start ∧ b.streams = s.b.streams)))

/-- A BUILD, REFIT or CHECK job that succeeds stores what it writes, in order, counts its keys, primitives and nodes, and stands built in the front slot with the flags of its operation; a CHECK writes nothing. One that fails a check kills the run with status 0x25, a detail of reason and index, which MLD_LAST_ERR keeps, and sets that reason's bit of MLD_ERR; a job that breaks its table has reason 0. A built job leaves the front slot, which is then free, unless the back slot still holds one, and its descriptor goes out as a one-row tile of 64 columns in the order of the jobs. (R256, R257, R258, R259, R260, R273, R275, R276, R277) -/
def Obligations.MouldJobs : Prop :=
  (∀ (s : State) (a : StRef) (n op : Nat) (r : Run) (st : Station) (x : Active) (t : Tile) (c : Instr) (work : (Nat → Nat → Option (List Byte × Nat)) → BuildJob → Except JobStop JobOut)
    (rd : Nat → Nat → Option (List Byte × Nat)), s.b.working a n = some (r, st, x) → st.entry.type = .mould → x.tile 0 = some t → x.freed = false → (∀ m ∈ st.mould.jobs, m.ordinal ≠ n) →
    (c = .build a n [] ∧ op = 0 ∧ (work = fun rd j => buildTree rd j (n % 2 ^ 23) s.b.free) ∧ (wfield (wordAt t.data 0) 0 2 = 0 ∨ wfield (wordAt t.data 0) 0 2 = 3) ∨
     c = .refit a n [] ∧ op = 1 ∧ (work = fun rd j => refitTree rd j n) ∧ wfield (wordAt t.data 0) 0 2 = 1 ∨
     c = .check a n [] ∧ op = 2 ∧ (work = fun rd j => checkTree rd j n) ∧ wfield (wordAt t.data 0) 0 2 = 2) →
    rd = (fun addr len => if s.b.canRead r.ref.tenant addr len then some (s.b.peek x.field r.ref.tenant addr len) else none) →
    (∀ (o : JobOut) (b1 : Block), (s.b.jobChecks r.ref.tenant n t.data).bind (work rd) = .ok o → s.b.canWriteAll r.ref.tenant (o.writes.map (fun w => (w.1, w.2.length))) = true →
      Block.storeAll x.field r.ref.tenant o.writes { (s.b.readAll x.field r.ref.tenant o.reads) with free := (s.b.readAll x.field r.ref.tenant o.reads).free + sumNat (o.writes.map (fun w => w.2.length)) } = (b1, stOk) →
      completes c s (fun b =>
        b.stAt a = some { st with body := .mould { st.mould with jobs := st.mould.jobs ++ [{ ordinal := n, flags := op, seq := t.seq, desc := o.desc, back := false, field := x.field }] } } ∧
        b.ctr (Map.mldJobCnt x.field) = b1.ctr (Map.mldJobCnt x.field) + 1#32 ∧ b.ctr (Map.mldKeyCnt x.field) = b1.ctr (Map.mldKeyCnt x.field) + BitVec.ofNat 32 o.keys ∧
        b.ctr (Map.mldPrimCnt x.field) = b1.ctr (Map.mldPrimCnt x.field) + BitVec.ofNat 32 o.prims ∧ b.ctr (Map.mldNodeCnt x.field) = b1.ctr (Map.mldNodeCnt x.field) + BitVec.ofNat 32 o.nodes ∧
        (∀ z, z ≠ stRun a → b.findRun z = s.b.findRun z) ∧ b.vat = b1.vat ∧ b.start = s.b.start ∧ b.cal = s.b.cal ∧ b.streams = s.b.streams ∧ (∀ q, b.byteAt q = b1.byteAt q))) ∧
    (∀ (reason i : Nat), (s.b.jobChecks r.ref.tenant n t.data).bind (work rd) = .error (.kill reason i) →
      completes c s (fun b => b.killedWith (stRun a) 0x25 a.station (BitVec.ofNat 32 (reason * 2 ^ 28 + i % 2 ^ 23)) ∧ b.lasts.getD (Map.mldLastErr x.field) 0#32 = BitVec.ofNat 32 (reason * 2 ^ 28 + i % 2 ^ 23) ∧
        (reason < 32 → wbit (b.err (Map.mldErr x.field)) reason = true) ∧ b.vat = s.b.vat ∧ b.start = s.b.start ∧ b.memKept s.b)) ∧
    (∀ (status : Nat), (s.b.jobChecks r.ref.tenant n t.data).bind (work rd) = .error (.mem status) →
      completes c s (fun b => b.killedWith (stRun a) status a.station 0#32 ∧ b.vat = s.b.vat ∧ b.start = s.b.start ∧ b.memKept s.b))) ∧
  (∀ (rd : Nat → Nat → Option (List Byte × Nat)) (j : BuildJob) (n : Nat) (o : JobOut), checkTree rd j n = .ok o → o.writes = []) ∧
  (∀ (s : State) (a : StRef) (n : Nat) (r : Run) (st : Station) (x : Active) (t : Tile), s.b.working a n = some (r, st, x) → st.entry.type = .mould → x.tile 0 = some t → x.freed = false →
    (∀ m ∈ st.mould.jobs, m.ordinal ≠ n) → wfield (wordAt t.data 0) 0 2 = 3 →
    completes (.build a n []) s (fun b => b.killedWith (stRun a) 0x25 a.station (BitVec.ofNat 32 (n % 2 ^ 23)) ∧ wbit (b.err (Map.mldErr x.field)) 0 = true ∧ b.memKept s.b)) ∧
  (∀ (s : State) (f n : Nat) (a : StRef) (r : Run) (st : Station) (m : MouldJob), s.b.frontJob f = some (a, n) → s.b.findRun (stRun a) = some r → r.killed = none → r.stations[a.station]? = some st → st.mould.jobs = [m] → m.ordinal = n → s.b.backHolds f = false →
    completes (.mouldJobToBack f) s (fun b =>
      b.stAt a = some { st with body := .mould { st.mould with jobs := [{ m with back := true }] }, active := st.active.map (fun y => if y.ordinal = n then { y with freed := true } else y) } ∧
      b = { s.b with runs := b.runs, mem := b.mem } ∧ b.memKept s.b)) ∧
  (∀ (s : State) (f : Nat), s.b.backHolds f = true → completes (.mouldJobToBack f) s (fun b => b = { s.b with mem := b.mem } ∧ b.memKept s.b)) ∧
  (∀ (s : State) (a : StRef) (r : Run) (st : Station) (m : MouldJob) (j : Nat) (ed : Edge), s.b.live a = some (r, st) → st.entry.type = .mould → st.outbox = [] → st.mould.jobs = [m] → m.ordinal = st.mould.next → m.back = true →
    r.outEdge a.station 0 = some (j, ed) → s.b.canPush (stRun a) j ed →
    completes (.mouldTileOut a) s (fun b => b.edgeAt (stRun a) j = some (ed.plus (rowsTile 64 m.seq m.flags [m.desc])) ∧
      b.stAt a = some { st with body := .mould { jobs := [], next := m.ordinal + 1 }, active := workDone st.active m.ordinal } ∧ b = { s.b with runs := b.runs, ctrs := b.ctrs, mem := b.mem } ∧ b.memKept s.b))

/-- INT, FVEC, CVT and RDSR that may issue give each acting lane the operation's result, move all lanes of the group behind the instruction and are counted; FVEC and CVT join their overflow and underflow to the item's flags; a sum, product or logic operation is that of 32-bit words. A convert's overflows and underflows count in the field's Sizing registers. At an MX convert the group waits until every thread of the sheaf has arrived; then each acting lane takes its element (stated for nearest rounding) and the scale of the whole sheaf, its clamps count, and the sheaf goes on. Other threads and every byte of memory stay. (R205, R222, R223, R224, R336, R339, R340, R341, R342) -/
def Obligations.LathArithmetic : Prop :=
  (∀ (s : State) (a : LathAt) (i : LInstr) (op : IntOp) (g : LGroup), s.b.willIssue a i op.use (op.regs i) (op.ok i) = some g →
    completes (.int a i op) s (fun b => b.laneDo s.b a g i (op.thread i) ∧ b.issued s.b a.core g.lanes.length ∧ b.lathKept s.b a ∧ b = { s.b with cores := b.cores, ctrs := b.ctrs, mem := b.mem } ∧ b.memKept s.b)) ∧
  (∀ (i : LInstr) (t : Thread), (IntOp.add.thread i t).reg i.dst = t.reg i.a + t.reg i.b ∧ (IntOp.sub.thread i t).reg i.dst = t.reg i.a - t.reg i.b ∧
    (IntOp.mulLo.thread i t).reg i.dst = t.reg i.a * t.reg i.b ∧ (IntOp.and.thread i t).reg i.dst = (t.reg i.a &&& t.reg i.b) ∧ (IntOp.xor.thread i t).reg i.dst = (t.reg i.a ^^^ t.reg i.b) ∧
    (IntOp.not.thread i t).reg i.dst = ~~~(t.reg i.a) ∧ ((t.reg i.b).toNat < 32 → (IntOp.shl.thread i t).reg i.dst = t.reg i.a <<< (t.reg i.b).toNat) ∧
    (i.dst < 7 → ((IntOp.cmp .lt false).thread i t).pred i.dst = decide ((t.reg i.a).toNat < (t.reg i.b).toNat)) ∧
    (∀ q, q ≠ i.dst → (IntOp.add.thread i t).reg q = t.reg q) ∧ (IntOp.add.thread i t).preds = t.preds) ∧
  (∀ (s : State) (a : LathAt) (i : LInstr) (op : FvecOp) (fmt : FvecFmt) (g : LGroup), s.b.willIssue a i op.use (op.regs i) (op.ok i) = some g →
    completes (.fvec a i op fmt) s (fun b =>
      (∀ c, op = .cmp c → b.laneDo s.b a g i (fun t => t.setPred i.dst (c.num (t.num fmt.fmt i.a) (t.num fmt.fmt i.b)))) ∧
      ((∀ c, op ≠ .cmp c) → b.laneDo s.b a g i (fun t => t.setReg i.dst (BitVec.ofNat 32 (op.enc fmt.fmt i t).code)) ∧
        ((b.core a.core).item a.slot).any (fun it => decide (it.ovf = (g.item.ovf || g.act.any (fun k => (op.enc fmt.fmt i (g.thread k)).ovf)) ∧
          it.unf = (g.item.unf || g.act.any (fun k => (op.enc fmt.fmt i (g.thread k)).unf)))) = true) ∧
      b.issued s.b a.core g.lanes.length ∧ b.lathKept s.b a ∧ b = { s.b with cores := b.cores, ctrs := b.ctrs, mem := b.mem } ∧ b.memKept s.b)) ∧
  (∀ (s : State) (a : LathAt) (i : LInstr) (fa fz : Fmt) (g : LGroup), fmtOf (i.c % 16) = some fa → fmtOf (i.c / 16 % 16) = some fz →
    s.b.willIssue a i (cvtUse false) ([i.dst, i.a] ++ (if fa.isMx || fz.isMx then [i.b] else [])) ((fa.isMx || fz.isMx) || decide (i.b = 0)) = some g →
    completes (.cvt a i) s (fun b => b.laneDo s.b a g i (fun t => ({ t with gen := (cvtThread fa fz i i.stochastic i.saturate t).2 } : Thread).setReg i.dst (BitVec.ofNat 32 (cvtThread fa fz i i.stochastic i.saturate t).1.code)) ∧
      ((b.core a.core).item a.slot).any (fun it => decide (it.ovf = (g.item.ovf || g.act.any (fun k => (cvtThread fa fz i i.stochastic i.saturate (g.thread k)).1.ovf)) ∧
        it.unf = (g.item.unf || g.act.any (fun k => (cvtThread fa fz i i.stochastic i.saturate (g.thread k)).1.unf)))) = true ∧
      b.ctr (Map.sizOvfCnt (a.core / 72)) = s.b.ctr (Map.sizOvfCnt (a.core / 72)) + BitVec.ofNat 32 (g.act.countP (fun k => (cvtThread fa fz i i.stochastic i.saturate (g.thread k)).1.ovf)) ∧
      b.ctr (Map.sizUnfCnt (a.core / 72)) = s.b.ctr (Map.sizUnfCnt (a.core / 72)) + BitVec.ofNat 32 (g.act.countP (fun k => (cvtThread fa fz i i.stochastic i.saturate (g.thread k)).1.unf)) ∧
      b.issued s.b a.core g.lanes.length ∧ b.lathKept s.b a ∧ b = { s.b with cores := b.cores, ctrs := b.ctrs, mem := b.mem } ∧ b.memKept s.b)) ∧
  (∀ (s : State) (a : LathAt) (i : LInstr) (sr : SpecReg) (g : LGroup), s.b.willIssue a i specUse [i.dst] (decide (sr ≠ .undef)) = some g →
    completes (.rdsr a i sr) s (fun b => (∀ k ∈ g.act, (b.threadAt a k).any (fun t => decide (t.reg i.dst = BitVec.ofNat 32 (sr.value a.core a.sheaf k g.item g.launch.ws) ∧ t.pc = g.pc + i.bytes)) = true) ∧
      (∀ k, k ∉ g.lanes → b.threadAt a k = s.b.threadAt a k) ∧ b.issued s.b a.core g.lanes.length ∧ b.lathKept s.b a ∧ b = { s.b with cores := b.cores, ctrs := b.ctrs, mem := b.mem } ∧ b.memKept s.b)) ∧
  (∀ (s : State) (a : LathAt) (i : LInstr) (fa fz : Fmt) (g : LGroup) (k : Nat) (t : Thread), fmtOf (i.c % 16) = some fa → fmtOf (i.c / 16 % 16) = some fz → fz.isMx = true →
    s.b.willIssue a i (cvtUse true) ([i.dst, i.dst + 1, i.a] ++ (if fa.isMx then [i.b] else [])) (fz.isMx && (fa.isMx || decide (i.b = 0))) = some g → s.b.threadAt a k = some t → t.state = .running → k ∉ g.lanes →
    completes (.mxConvertSheaf a i) s (fun b => (∀ j, b.threadAt a j = (s.b.threadAt a j).map (fun u => if j ∈ g.lanes then { u with state := .atSheaf } else u)) ∧
      b.issued s.b a.core g.lanes.length ∧ b.lathKept s.b a ∧ b = { s.b with cores := b.cores, ctrs := b.ctrs, mem := b.mem } ∧ b.memKept s.b)) ∧
  (∀ (s : State) (a : LathAt) (i : LInstr) (fa fz : Fmt) (g : LGroup) (v : Nat → Sys2Proof.Machine.Num), fmtOf (i.c % 16) = some fa → fmtOf (i.c / 16 % 16) = some fz → s.b.lathGroup a i = none → s.b.gathered a i = some g →
    g.blocked i ([i.dst, i.dst + 1, i.a] ++ (if fa.isMx then [i.b] else [])) = false →
    (∀ k, v k = if g.act.contains k then cvtSource fa (((g.thread k).reg i.a).toNat % 2 ^ (8 * fa.bytes)) (((g.thread k).reg i.b).toNat % 256) else Sys2Proof.Machine.Num.zero) →
    completes (.mxConvertSheaf a i) s (fun b =>
      (∀ k ∈ g.act, (b.threadAt a k).any (fun t => decide (t.state = .running ∧ t.pc = g.pc + i.bytes ∧ t.reg (i.dst + 1) = BitVec.ofNat 32 (mxScale fz ((List.range 32).map v)) ∧
        (i.stochastic = false → t.reg i.dst = BitVec.ofNat 32 (mxElem fz (mxScale fz ((List.range 32).map v)) (v k) .rne).1))) = true) ∧
      (∀ k, k ∉ g.lanes → b.threadAt a k = s.b.threadAt a k) ∧ b.lathKept s.b a ∧
      (i.stochastic = false → b.ctr (Map.sizClampCnt (a.core / 72)) = s.b.ctr (Map.sizClampCnt (a.core / 72)) + BitVec.ofNat 32 (g.act.foldl (fun n k => n + (mxElem fz (mxScale fz ((List.range 32).map v)) (v k) .rne).2.clamp) 0)) ∧
      b = { s.b with cores := b.cores, ctrs := b.ctrs, mem := b.mem } ∧ b.memKept s.b))

/-- A branch sends its acting lanes to the target and the others of the group on; a jump sends them to the offset in their register. An exit ends its acting threads and BAR.ITEM makes them wait; while a thread of the item still runs, nobody is released, and once all others have exited or wait, the waiting threads run on. A NOP only goes on. A TRAP kills the run with status 0x2C, an instruction beyond the kernel or at an offset that is no multiple of 8 with status 0x29, as an exit, barrier or NOP whose class is not CTRL or that has a field it does not use set, and a sheaf-wide instruction that has waited 2^20 CK_CORE cycles with status 0x28. (R336, R339, R343, R344, R362) -/
def Obligations.LathControl : Prop :=
  (∀ (s : State) (a : LathAt) (i : LInstr) (g : LGroup), s.b.willIssue a i { ctrlUse with long := true } [] i.long = some g →
    completes (.bra a i) s (fun b => (∀ k, b.threadAt a k = (s.b.threadAt a k).map (fun t => if k ∈ g.act then { t with pc := (g.pc + i.imm.toNat) % 2 ^ 64 } else if k ∈ g.lanes then { t with pc := g.pc + i.bytes } else t)) ∧
      b.issued s.b a.core g.lanes.length ∧ b.lathKept s.b a ∧ b = { s.b with cores := b.cores, ctrs := b.ctrs, mem := b.mem } ∧ b.memKept s.b)) ∧
  (∀ (s : State) (a : LathAt) (i : LInstr) (g : LGroup), s.b.willIssue a i (ctrlUse.regs false true false false) [i.a] true = some g →
    completes (.jmpr a i) s (fun b => (∀ k, b.threadAt a k = (s.b.threadAt a k).map (fun t => if k ∈ g.act then { t with pc := (t.reg i.a).toNat } else if k ∈ g.lanes then { t with pc := g.pc + i.bytes } else t)) ∧
      b.issued s.b a.core g.lanes.length ∧ b.lathKept s.b a ∧ b = { s.b with cores := b.cores, ctrs := b.ctrs, mem := b.mem } ∧ b.memKept s.b)) ∧
  (∀ (s : State) (a x : LathAt) (i : LInstr) (g : LGroup) (k : Nat) (t : Thread), s.b.willIssue a i ctrlUse [] true = some g → x.core = a.core → x.slot = a.slot → s.b.threadAt x k = some t → t.state = .running → (x ≠ a ∨ k ∉ g.act) →
    completes (.exit a i) s (fun b => b.laneDo s.b a g i (fun u => { u with state := .exited }) ∧ b.issued s.b a.core g.lanes.length ∧ b.lathKept s.b a ∧
      b = { s.b with cores := b.cores, ctrs := b.ctrs, mem := b.mem } ∧ b.memKept s.b) ∧
    completes (.barItem a i) s (fun b => b.laneDo s.b a g i (fun u => { u with state := .atBar }) ∧ b.issued s.b a.core g.lanes.length ∧ b.lathKept s.b a ∧
      b = { s.b with cores := b.cores, ctrs := b.ctrs, mem := b.mem } ∧ b.memKept s.b)) ∧
  (∀ (s : State) (a : LathAt) (i : LInstr) (g : LGroup), s.b.willIssue a i ctrlUse [] true = some g →
    (∀ x k t, x.core = a.core → x.slot = a.slot → s.b.threadAt x k = some t → ¬(x = a ∧ k ∈ g.act) → t.state = .exited ∨ t.state = .atBar) →
    completes (.exit a i) s (fun b => ∀ x k, x.core = a.core → x.slot = a.slot → b.threadAt x k = (s.b.threadAt x k).map (fun t =>
      if x = a ∧ k ∈ g.act then { t with state := .exited, pc := g.pc + i.bytes } else if t.state = .atBar then { t with state := .running } else t)) ∧
    completes (.barItem a i) s (fun b => ∀ x k, x.core = a.core → x.slot = a.slot → b.threadAt x k = (s.b.threadAt x k).map (fun t =>
      if x = a ∧ k ∈ g.act then { t with state := .running, pc := g.pc + i.bytes } else if t.state = .atBar then { t with state := .running } else t))) ∧
  (∀ (s : State) (a : LathAt) (i : LInstr) (g : LGroup), s.b.willIssue a i ctrlUse [] true = some g →
    completes (.lathNop a i) s (fun b => b.laneDo s.b a g i (fun t => t) ∧ b.issued s.b a.core g.lanes.length ∧ b.lathKept s.b a ∧ b = { s.b with cores := b.cores, ctrs := b.ctrs, mem := b.mem } ∧ b.memKept s.b)) ∧
  (∀ (s : State) (a : LathAt) (i : LInstr) (g : LGroup), s.b.willIssue a i (ctrlUse.regs false false false true) [] true = some g →
    (g.act = [] → completes (.trap a i) s (fun b => b.laneDo s.b a g i (fun t => t) ∧ b.lathKept s.b a ∧ b.memKept s.b)) ∧
    (g.act ≠ [] → completes (.trap a i) s (fun b => b.killedWith g.launch.run 0x2C g.launch.station (BitVec.ofNat 32 (i.c % 256 + 256 * (a.sheaf % 16))) ∧ wbit (b.err (Map.lthErr (a.core / 72))) 4 = true ∧
      b.lasts.getD (Map.lthLastErr (a.core / 72)) 0#32 = BitVec.ofNat 32 (0x2C + 256 * (a.core % 72)) ∧ b.cores = s.b.cores ∧ b.vat = s.b.vat ∧ b.memKept s.b))) ∧
  (∀ (s : State) (a : LathAt) (i : LInstr) (g : LGroup) (sr : SpecReg), s.b.lathGroup a i = some g → (g.launch.codeLen < g.pc + i.bytes ∨ g.pc % 8 ≠ 0) →
    ∀ c ∈ [Instr.bra a i, .jmpr a i, .exit a i, .barItem a i, .trap a i, .lathNop a i, .rdsr a i sr],
    completes c s (fun b => b.killedWith g.launch.run 0x29 g.launch.station (formA g.pc a.sheaf) ∧ wbit (b.err (Map.lthErr (a.core / 72))) 1 = true ∧ b.cores = s.b.cores ∧ b.vat = s.b.vat ∧ b.memKept s.b)) ∧
  (∀ (s : State) (a : LathAt) (i : LInstr) (g : LGroup), s.b.lathGroup a i = some g → g.pc + i.bytes ≤ g.launch.codeLen → g.pc % 8 = 0 → g.blocked i [] = false → g.act ≠ [] → i.ok ctrlUse = false →
    ∀ c ∈ [Instr.exit a i, .barItem a i, .lathNop a i],
    completes c s (fun b => b.killedWith g.launch.run 0x29 g.launch.station (formA g.pc a.sheaf) ∧ b.cores = s.b.cores ∧ b.vat = s.b.vat ∧ b.memKept s.b)) ∧
  (∀ (i : LInstr), i.ok ctrlUse = true ↔ (i.cls = 3 ∧ i.scope = false ∧ i.mods = 0 ∧ i.dst = 0 ∧ i.a = 0 ∧ i.b = 0 ∧ i.c = 0 ∧ i.setTok = 0 ∧ i.long = false ∧ i.imm = 0#64)) ∧
  (∀ (s : State) (a : LathAt) (r : Run) (st : Station) (l : LLaunch) (it : LItem) (sh : Sheaf) (t0 : Nat) (x : Nat × List Nat), s.b.sheafAt a = some (r, st, l, it, sh) → sh.waitAt = some t0 → sh.lowest .atSheaf = some x →
    (2 ^ 20 ≤ s.b.coreSince t0 → completes (.divergedMatrix a) s (fun b => b.killedWith l.run 0x28 l.station (formA x.1 a.sheaf) ∧ wbit (b.err (Map.lthErr (a.core / 72))) 0 = true ∧ b.cores = s.b.cores ∧ b.memKept s.b)) ∧
    (s.b.coreSince t0 < 2 ^ 20 → completes (.divergedMatrix a) s (fun b => b = { s.b with mem := b.mem } ∧ b.memKept s.b)))

/-- A global load or store that may issue, aligned and with memory ready, acts at once and stands as an operation until it completes; a misaligned one kills the run with status 0x2A. A single lane's store to sound Felt writes exactly its bytes, and its atomic writes the operation's result and keeps the old value to give back; of two merged contributions each finds what the one before it leaves, and sums in FP32 form one tree; every other byte reads as before. Local and parameter accesses act at once on the item's window and registers. A fence stands until the earlier operations it names are gone, those of the field's seat among FENCE_F's, and CINV clears the run's lines. A completed load gives its lane its bytes; one that memory failed kills the run with its status. (R337, R348, R349, R350, R351, R352, R353, R354, R355, R357, R361, R388) -/
def Obligations.LathMemory : Prop :=
  (∀ (s : State) (a : LathAt) (i : LInstr) (size : Nat) (cached : Bool) (g : LGroup), s.b.willIssue a i globalLoad ([i.a, i.a + 1] ++ regSpan i.dst size) (lathSize size) = some g →
    ((∃ p ∈ g.addrs i.a, p.2 % size ≠ 0) → completes (if cached then .ldG a i size [] else .ldGNc a i size []) s (fun b =>
      b.killedWith g.launch.run 0x2A g.launch.station (formA g.pc a.sheaf) ∧ wbit (b.err (Map.lthErr (a.core / 72))) 2 = true ∧ b.cores = s.b.cores ∧ b.memKept s.b)) ∧
    (∀ (b1 : Block) (vals : List (Nat × Nat × List Byte)) (st : Nat), (∀ p ∈ g.addrs i.a, p.2 % size = 0 ∧ s.b.rangeReady g.launch.run.tenant p.2 size .load = true) → s.b.readRoom (s.b.loadSectors a g cached i.a size) (s.b.loadSectors a g cached i.a size) = true →
      Block.laneLoads a.core g.launch cached size i.dst (g.addrs i.a) [] (s.b.counted a g) [] stOk = (b1, vals, st) →
      completes (if cached then .ldG a i size [] else .ldGNc a i size []) s (fun b =>
        (b.core a.core).ops = (s.b.core a.core).ops ++ [{ id := (s.b.core a.core).nextOp, slot := a.slot, sheaf := a.sheaf, lanes := g.act, tok := 0, kind := .load vals, ranges := (g.addrs i.a).map (fun p => (p.1, p.2, size)), status := st, pc := g.pc, global := true }] ∧
        (b.core a.core).nextOp = (s.b.core a.core).nextOp + 1 ∧ b.laneDo s.b a g i (fun t => { t.addTok i.setTok with busy := t.busy ++ regSpan i.dst size }) ∧ b.lathKept s.b a ∧
        b.runs = s.b.runs ∧ b.vat = b1.vat ∧ b.start = s.b.start ∧ (∀ q, b.byteAt q = b1.byteAt q)))) ∧
  (∀ (s : State) (a : LathAt) (i : LInstr) (size k pa : Nat) (g : LGroup), s.memSound → s.b.willIssue a i globalStore ([i.a, i.a + 1] ++ regSpan i.b size) (lathSize size) = some g → g.act = [k] → lathSize size = true →
    (g.thread k).pair i.a % size = 0 → g.run.windowAt g.launch.station ((g.thread k).pair i.a) = none → s.b.vat.translate g.launch.run.tenant ((g.thread k).pair i.a) .store = .ok pa → regionOf pa = 1 → s.b.stays g.launch.run.tenant ((g.thread k).pair i.a) → s.b.feltBadIn pa size = [] →
    completes (.stG a i size []) s (fun b => b.wrote s.b pa ((g.thread k).regBytes i.b size) ∧
      (b.core a.core).ops = (s.b.core a.core).ops ++ [{ id := (s.b.core a.core).nextOp, slot := a.slot, sheaf := a.sheaf, lanes := [k], tok := i.setTok, kind := .store, ranges := [(k, (g.thread k).pair i.a, size)], status := stOk, pc := g.pc, global := true }] ∧
      b.laneDo s.b a g i (fun t => t.addTok i.setTok) ∧ b.lathKept s.b a ∧ b = { s.b with cores := b.cores, vat := b.vat, ctrs := b.ctrs, feltBad := b.feltBad, mem := b.mem })) ∧
  (∀ (s : State) (a : LathAt) (i : LInstr) (size : Nat) (g : LGroup) (b1 : Block) (st : Nat), s.b.willIssue a i globalStore ([i.a, i.a + 1] ++ regSpan i.b size) (lathSize size) = some g →
    (∀ p ∈ g.addrs i.a, p.2 % size = 0 ∧ s.b.rangeReady g.launch.run.tenant p.2 size .store = true ∧ g.run.windowAt g.launch.station p.2 = none) →
    Block.laneStores a.core g.launch ((g.addrs i.a).map (fun p => (p.2, (g.thread p.1).regBytes i.b size))) (s.b.counted a g) stOk = (b1, st) →
    completes (.stG a i size []) s (fun b => (∀ q, b.byteAt q = b1.byteAt q) ∧ b.vat = b1.vat ∧
      (b.core a.core).ops = (s.b.core a.core).ops ++ [{ id := (s.b.core a.core).nextOp, slot := a.slot, sheaf := a.sheaf, lanes := g.act, tok := i.setTok, kind := .store, ranges := (g.addrs i.a).map (fun p => (p.1, p.2, size)), status := st, pc := g.pc, global := true }] ∧
      b.laneDo s.b a g i (fun t => t.addTok i.setTok) ∧ b.lathKept s.b a ∧ b.runs = s.b.runs ∧ b.start = s.b.start)) ∧
  (∀ (s : State) (a : LathAt) (i : LInstr) (size : Nat) (g : LGroup), s.b.willIssue a i globalLoad (i.a :: regSpan i.dst size) (lathSize size) = some g →
    ((∀ k ∈ g.act, ((g.thread k).reg i.a).toNat % size = 0) → completes (.ldp a i size) s (fun b => b.laneDo s.b a g i (fun t => t.putBytes i.dst (s.b.paramBytes g.st.params (t.reg i.a).toNat size)) ∧
      b.issued s.b a.core g.lanes.length ∧ b.lathKept s.b a ∧ b = { s.b with cores := b.cores, ctrs := b.ctrs, free := b.free, mem := b.mem } ∧ b.memKept s.b)) ∧
    ((∃ k ∈ g.act, ((g.thread k).reg i.a).toNat % size ≠ 0) → completes (.ldp a i size) s (fun b => b.killedWith g.launch.run 0x2A g.launch.station (formA g.pc a.sheaf) ∧ b.cores = s.b.cores ∧ b.memKept s.b))) ∧
  (∀ (s : State) (a : LathAt) (i : LInstr) (size : Nat) (g : LGroup), s.b.willIssue a i localLoad (i.a :: regSpan i.dst size) (lathSize size) = some g →
    (g.localBad i.a size = none → completes (.ldL a i size) s (fun b => b.laneDo s.b a g i (fun t => t.putBytes i.dst (s.b.localRead a.core a.slot (t.reg i.a).toNat size)) ∧
      b.issued s.b a.core g.lanes.length ∧ b.lathKept s.b a ∧ b = { s.b with cores := b.cores, ctrs := b.ctrs, free := b.free, mem := b.mem } ∧ b.memKept s.b)) ∧
    (∀ c, g.localBad i.a size = some c → completes (.ldL a i size) s (fun b => b.killedWith g.launch.run c g.launch.station (formA g.pc a.sheaf) ∧ b.cores = s.b.cores ∧ b.memKept s.b))) ∧
  (∀ (b : Block) (params : List Byte) (core slot off n : Nat), (off + n ≤ params.length → b.paramBytes params off n = sliceBytes params off n) ∧
    ((b.core core).mat = [] → b.localRead core slot off n = (List.range n).map (fun k => (b.core core).localByte slot (off + k)))) ∧
  (∀ (s : State) (a : LathAt) (i : LInstr) (size : Nat) (g : LGroup) (w : Window), s.b.willIssue a i localStore (i.a :: regSpan i.b size) (lathSize size) = some g → g.localBad i.a size = none → (s.b.core a.core).windows.get a.slot = some w →
    completes (.stL a i size) s (fun b => (∀ q, (b.core a.core).localByte a.slot q = g.act.foldl (fun v k =>
        if ((g.thread k).reg i.a).toNat ≤ q ∧ q < ((g.thread k).reg i.a).toNat + size then ((g.thread k).regBytes i.b size).getD (q - ((g.thread k).reg i.a).toNat) 0#8 else v) ((s.b.core a.core).localByte a.slot q)) ∧
      (∀ x q, x ≠ a.slot → (b.core a.core).localByte x q = (s.b.core a.core).localByte x q) ∧ b.laneDo s.b a g i (fun t => t) ∧ b.lathKept s.b a ∧
      b = { s.b with cores := b.cores, ctrs := b.ctrs, mem := b.mem } ∧ b.memKept s.b)) ∧
  (∀ (s : State) (a : LathAt) (i : LInstr) (op : AtomOp) (ty : AtomTy) (k pa : Nat) (g : LGroup) (old : Word), s.memSound → i.atomTy = some ty → s.b.willIssue a i op.use (op.regs i true) (op.ok ty) = some g → g.act = [k] → (g.thread k).pair i.a % 4 = 0 →
    s.b.vat.translate g.launch.run.tenant ((g.thread k).pair i.a) .store = .ok pa → regionOf pa = 1 → s.b.stays g.launch.run.tenant ((g.thread k).pair i.a) → s.b.feltBadIn pa 4 = [] → old = wordAt (s.b.mem.readN pa 4) 0 →
    completes (.atom [{ at_ := a, i := i, op := op }] true []) s (fun b => b.wrote s.b pa (leBytes 4 (op.step ty old ((g.thread k).reg i.b) ((g.thread k).reg i.c)).toNat) ∧
      (b.core a.core).ops = (s.b.core a.core).ops ++ [{ id := (s.b.core a.core).nextOp, slot := a.slot, sheaf := a.sheaf, lanes := [k], tok := i.setTok, kind := .atomic [(k, i.dst, leBytes 4 old.toNat)], ranges := [(k, (g.thread k).pair i.a, 4)], status := stOk, pc := g.pc, global := true }] ∧
      b.laneDo s.b a g i (fun t => { t.addTok i.setTok with busy := t.busy ++ [i.dst] }) ∧ b.lathKept s.b a ∧ b.runs = s.b.runs ∧ b.start = s.b.start ∧ b.eaves = s.b.eaves)) ∧
  (∀ (s : State) (a : LathAt) (i : LInstr) (op : AtomOp) (ty : AtomTy) (k : Nat) (g : LGroup) (old : Word) (w : Window), i.atomTy = some ty → s.b.willIssue a i op.use (op.regs i false) (op.ok ty) = some g → g.act = [k] → g.localBad i.a 4 = none →
    (s.b.core a.core).windows.get a.slot = some w → (s.b.core a.core).mat = [] → old = wordAt ((s.b.core a.core).localBytes a.slot ((g.thread k).reg i.a).toNat 4) 0 →
    completes (.atom [{ at_ := a, i := i, op := op }] false []) s (fun b =>
      (b.core a.core).localBytes a.slot ((g.thread k).reg i.a).toNat 4 = leBytes 4 (op.step ty old ((g.thread k).reg i.b) ((g.thread k).reg i.c)).toNat ∧
      b.laneDo s.b a g i (fun t => t.setReg i.dst old) ∧ b.lathKept s.b a ∧ b = { s.b with cores := b.cores, ctrs := b.ctrs, free := b.free, mem := b.mem } ∧ b.memKept s.b)) ∧
  (∀ (o : AtomOp) (ty : AtomTy) (p q : AtomPart) (old : Word), (¬(o = .add ∧ ty = .f32) → o.merge ty [p, q] old = ([old, o.step ty old p.val p.cmp], o.step ty (o.step ty old p.val p.cmp) q.val q.cmp)) ∧
    AtomOp.add.merge .f32 [p, q] old = ([old, addF old p.val], addF old (addF p.val q.val))) ∧
  (∀ (s : State) (a : LathAt) (i : LInstr) (g : LGroup), s.b.willIssue a i fenceUse [] true = some g →
    completes (.fenceC a i) s (fun b => (∃ o, (b.core a.core).ops = (s.b.core a.core).ops ++ [o] ∧ o.lanes = g.act ∧ o.tok = i.setTok ∧ ∃ l, o.kind = .fence l [] ∧
        ∀ c n, (c, n) ∈ l ↔ c = a.core ∧ ∃ x ∈ (s.b.core a.core).ops, x.id = n ∧ x.global = true ∧ x.slot = a.slot ∧ x.sheaf = a.sheaf ∧ (∃ k ∈ x.lanes, k ∈ g.act) ∧ (x.kind = .store ∨ ∃ v, x.kind = .atomic v)) ∧
      b.laneDo s.b a g i (fun t => t.addTok i.setTok) ∧ b.lathKept s.b a ∧ b = { s.b with cores := b.cores, ctrs := b.ctrs, mem := b.mem } ∧ b.memKept s.b) ∧
    completes (.fenceF a i) s (fun b => (∃ o, (b.core a.core).ops = (s.b.core a.core).ops ++ [o] ∧ o.lanes = g.act ∧ o.tok = i.setTok ∧ ∃ l q, o.kind = .fence l q ∧
        (∀ c n, (c, n) ∈ l ↔ c / 72 = a.core / 72 ∧ ∃ y, (c, y) ∈ s.b.cores ∧ ∃ x ∈ y.ops, x.id = n ∧ x.global = true) ∧
        ∀ c n, (c, n) ∈ q ↔ c = a.core / 72 ∧ ∃ x ∈ (s.b.seat c).ops, x.num = n) ∧
      b.laneDo s.b a g i (fun t => t.addTok i.setTok) ∧ b.lathKept s.b a ∧ b = { s.b with cores := b.cores, ctrs := b.ctrs, mem := b.mem } ∧ b.memKept s.b) ∧
    completes (.cinv a i) s (fun b => (g.act ≠ [] → ∀ x, x ∈ (b.core a.core).lines ↔ x ∈ (s.b.core a.core).lines ∧ x.run ≠ g.launch.run) ∧ (g.act = [] → (b.core a.core).lines = (s.b.core a.core).lines) ∧
      b.laneDo s.b a g i (fun t => t) ∧ b.lathKept s.b a ∧ b = { s.b with cores := b.cores, ctrs := b.ctrs, mem := b.mem } ∧ b.memKept s.b)) ∧
  (∀ (s : State) (core id : Nat) (l : LLaunch) (o : LOp), (s.b.core core).launch = some l → (s.b.core core).ops.find? (fun x => x.id = id) = some o → (s.b.live l.ref).isSome = true → s.b.opReady core l o = true →
    (o.status ≠ stOk → completes (.memoryAccessDone core id) s (fun b => b.killedWith l.run o.status l.station (formA o.pc o.sheaf) ∧ b.cores = s.b.cores ∧ b.memKept s.b)) ∧
    (o.status = stOk → (o.kind = .store ∨ ∃ f q, o.kind = .fence f q) → completes (.memoryAccessDone core id) s (fun b => (b.core core).ops = (s.b.core core).ops.filter (fun x => x.id ≠ id) ∧
      (∀ k, b.threadAt { core := core, slot := o.slot, sheaf := o.sheaf } k = (s.b.threadAt { core := core, slot := o.slot, sheaf := o.sheaf } k).map (fun t => if k ∈ o.lanes then t.subTok o.tok else t)) ∧
      b.lathKept s.b { core := core, slot := o.slot, sheaf := o.sheaf } ∧ b = { s.b with cores := b.cores, mem := b.mem } ∧ b.memKept s.b)) ∧
    (∀ (k reg : Nat) (bytes : List Byte), o.status = stOk → (o.kind = .load [(k, reg, bytes)] ∨ o.kind = .atomic [(k, reg, bytes)]) → o.lanes = [k] → completes (.memoryAccessDone core id) s (fun b =>
      (b.core core).ops = (s.b.core core).ops.filter (fun x => x.id ≠ id) ∧
      (∀ j, b.threadAt { core := core, slot := o.slot, sheaf := o.sheaf } j = (s.b.threadAt { core := core, slot := o.slot, sheaf := o.sheaf } j).map (fun t =>
        if j = k then ({ (t.putBytes reg bytes) with busy := t.busy.filter (fun r => !(regSpan reg bytes.length).contains r) } : Thread).subTok o.tok else t)) ∧
      b.lathKept s.b { core := core, slot := o.slot, sheaf := o.sheaf } ∧ b = { s.b with cores := b.cores, mem := b.mem } ∧ b.memKept s.b)))

/-- TIN copies bytes of the item's tile into its window. EMIT of a well-formed tile stands as an operation with the tile's bytes; when it completes the port's tile before it goes out and it is held in its place. MMA.T takes its operands into the matrix queue, in lane order while there is room, and waits when there is none. At MMA.SHEAF the group waits until every thread of the sheaf has arrived, and then it enters the queue. The operation at the head completes into its local C or its lanes' accumulators and is counted. Nothing outside the core, its counters and its station's tiles changes, and no byte of memory. (R216, R337, R342, R345, R346, R347, R358, R359, R360) -/
def Obligations.LathTilesAndMatrix : Prop :=
  (∀ (s : State) (a : LathAt) (i : LInstr) (g : LGroup) (t : Tile) (w : Window), s.b.willIssue a i (tileUse.regs true true true true) [i.a, i.b, i.dst] (decide (i.c < 4)) = some g → g.item.tiles.find? (fun p => p.1 = i.c) = some (i.c, t) →
    (∀ k ∈ g.act, tinFault g.launch.window t.dbytes ((g.thread k).reg i.a).toNat ((g.thread k).reg i.b).toNat ((g.thread k).reg i.dst).toNat = none) → (s.b.core a.core).windows.get a.slot = some w → t.data.length = t.dbytes →
    completes (.tin a i) s (fun b => (∀ q, (b.core a.core).localByte a.slot q = g.act.foldl (fun v k =>
        if ((g.thread k).reg i.dst).toNat ≤ q ∧ q < ((g.thread k).reg i.dst).toNat + ((g.thread k).reg i.b).toNat then (t.header ++ t.data).getD (((g.thread k).reg i.a).toNat + (q - ((g.thread k).reg i.dst).toNat)) 0#8 else v)
        ((s.b.core a.core).localByte a.slot q)) ∧ b.laneDo s.b a g i (fun u => u) ∧ b.lathKept s.b a ∧ b = { s.b with cores := b.cores, ctrs := b.ctrs, mem := b.mem } ∧ b.memKept s.b)) ∧
  (∀ (s : State) (a : LathAt) (i : LInstr) (g : LGroup) (k at_ n : Nat) (e : EdgeEntry), s.b.willIssue a i (tileUse.regs false true false true) [i.a] (decide (i.c < 4)) = some g → g.act = [k] → g.st.entry.stepCheck = false → g.run.outShape g.launch.station i.c = some e →
    at_ = ((g.thread k).reg i.a).toNat → n = (parseTile (s.b.localRead a.core a.slot at_ 32)).dbytes → s.b.emitFault a.core a.slot g.launch.window at_ (some e) = none →
    completes (.emit a i) s (fun b => (b.core a.core).ops = (s.b.core a.core).ops ++ [{ id := (s.b.core a.core).nextOp, slot := a.slot, sheaf := a.sheaf, lanes := [k], tok := i.setTok, kind := .emit i.c at_ (s.b.localRead a.core a.slot at_ (32 + n)), ranges := [], status := stOk, pc := g.pc, global := false }] ∧
      b.laneDo s.b a g i (fun t => t.addTok i.setTok) ∧ b.lathKept s.b a ∧ b = { s.b with cores := b.cores, ctrs := b.ctrs, free := b.free, mem := b.mem } ∧ b.memKept s.b)) ∧
  (∀ (s : State) (core id port addr : Nat) (snap : List Byte) (l : LLaunch) (o : LOp) (r : Run) (st : Station) (ls : LathSt) (it : LItem), (s.b.core core).launch = some l → (s.b.core core).ops.find? (fun x => x.id = id) = some o →
    o.kind = .emit port addr snap → o.status = stOk → s.b.live l.ref = some (r, st) → s.b.opReady core l o = true → st.entry.stepCheck = false → st.body = .lath ls → (s.b.core core).item o.slot = some it →
    (ls.held.get port = none → completes (.memoryAccessDone core id) s (fun b => b.stAt l.ref = some { st with body := .lath { ls with held := ls.held.set port (s.b.emitTile core o.slot addr snap it) } } ∧
      (b.core core).ops = (s.b.core core).ops.filter (fun x => x.id ≠ id) ∧ b = { s.b with cores := b.cores, runs := b.runs, free := b.free, mem := b.mem } ∧ b.memKept s.b)) ∧
    (∀ (old : Tile) (j : Nat) (ed : Edge), ls.held.get port = some old → r.outEdge l.station port = some (j, ed) → s.b.canPush l.run j ed → completes (.memoryAccessDone core id) s (fun b => b.edgeAt l.run j = some (ed.plus old) ∧
      b.stAt l.ref = some { st with body := .lath { ls with held := ls.held.set port (s.b.emitTile core o.slot addr snap it) } } ∧ (b.core core).ops = (s.b.core core).ops.filter (fun x => x.id ≠ id) ∧ b.memKept s.b))) ∧
  (∀ (s : State) (a : LathAt) (i : LInstr) (g : LGroup), s.b.willIssue a i (mmaUse false) [i.a, i.b, i.c, i.dst] true = some g → g.act.length + (s.b.core a.core).mat.length ≤ 4 →
    (∀ k ∈ g.act, mmaFault g.launch.window (g.thread k) i = none) →
    completes (.mmaT a i) s (fun b => (b.core a.core).mat = (s.b.core a.core).mat ++ g.act.map (fun k => (s.b.core a.core).tileOp a k (g.thread k) i) ∧
      b.laneDo s.b a g i (fun t => t.addTok i.setTok) ∧ b.issued s.b a.core g.lanes.length ∧ b.lathKept s.b a ∧ b = { s.b with cores := b.cores, ctrs := b.ctrs, mem := b.mem } ∧ b.memKept s.b)) ∧
  (∀ (s : State) (a : LathAt) (i : LInstr) (g : LGroup), s.b.willIssue a i (mmaUse false) [i.a, i.b, i.c, i.dst] true = some g → g.act = g.lanes → 4 ≤ (s.b.core a.core).mat.length →
    completes (.mmaT a i) s (fun b => b = { s.b with mem := b.mem } ∧ b.memKept s.b)) ∧
  (∀ (s : State) (a : LathAt) (i : LInstr) (g : LGroup), s.b.lathGroup a i = none → s.b.gathered a i = some g → g.blocked i [i.a, i.a + 1, i.b, i.b + 1, i.c, i.dst, i.dst + 1] = false → (s.b.core a.core).mat.length < 4 →
    completes (.mmaSheaf a i) s (fun b => (∃ op, (b.core a.core).mat = (s.b.core a.core).mat ++ [op] ∧ op.slot = a.slot ∧ op.sheaf = a.sheaf ∧ op.accumulate = i.modBit 11 ∧ op.aE5 = i.modBit 12 ∧ op.bE5 = i.modBit 13 ∧ op.tok = 0 ∧
        ∃ la lb lc accs, op.kind = .sheaf i.dst g.act la lb lc accs ∧ (∀ k ∈ g.act, k < 32 → lc.getD k 0#32 = (g.thread k).reg i.c)) ∧
      (∀ k, b.threadAt a k = (s.b.threadAt a k).map (fun t => if k ∈ g.act then { t with busy := t.busy ++ [i.dst, i.dst + 1], state := .running, pc := g.pc + i.bytes }
        else if k ∈ g.lanes then { t with state := .running, pc := g.pc + i.bytes } else t)) ∧ b.lathKept s.b a ∧ b = { s.b with cores := b.cores, mem := b.mem } ∧ b.memKept s.b)) ∧
  (∀ (s : State) (a : LathAt) (i : LInstr) (g : LGroup) (k : Nat) (t : Thread), s.b.willIssue a i (mmaUse true) [i.a, i.a + 1, i.b, i.b + 1, i.c, i.dst, i.dst + 1] true = some g → s.b.threadAt a k = some t → t.state = .running → k ∉ g.lanes →
    completes (.mmaSheaf a i) s (fun b => (∀ j, b.threadAt a j = (s.b.threadAt a j).map (fun u => if j ∈ g.lanes then { u with state := .atSheaf } else u)) ∧
      b.issued s.b a.core g.lanes.length ∧ b.lathKept s.b a ∧ b = { s.b with cores := b.cores, ctrs := b.ctrs, mem := b.mem } ∧ b.memKept s.b)) ∧
  (∀ (s : State) (core : Nat) (l : LLaunch) (op : MatOp) (rest : List MatOp) (lane pa pb pc m n k : Nat) (la lb lc : List Byte) (es : List Enc) (w : Window), (s.b.core core).launch = some l → (s.b.core core).mat = op :: rest →
    (s.b.live l.ref).isSome = true → op.kind = .tile lane pa pb pc m n k la lb lc → (s.b.core core).windows.get op.slot = some w →
    es = mmaTile op m n k (s.b.operand core op.slot pa la) (s.b.operand core op.slot pb lb) (s.b.operand core op.slot pc lc) →
    completes (.mmaComplete core) s (fun b => es.length = 64 * (m * n) ∧ (b.core core).localBytes op.slot pc (256 * (m * n)) = es.flatMap (fun e => leBytes 4 e.code) ∧ (b.core core).mat.length = rest.length ∧
      (∀ q, (q < pc ∨ pc + 256 * (m * n) ≤ q) → (b.core core).localByte op.slot q = (s.b.core core).localByte op.slot q) ∧
      (∀ j, b.threadAt { core := core, slot := op.slot, sheaf := op.sheaf } j = (s.b.threadAt { core := core, slot := op.slot, sheaf := op.sheaf } j).map (fun t => if j = lane then t.subTok op.tok else t)) ∧
      b.lathKept s.b { core := core, slot := op.slot, sheaf := op.sheaf } ∧ b.ctr (Map.lthMmaCnt (core / 72)) = s.b.ctr (Map.lthMmaCnt (core / 72)) + BitVec.ofNat 32 (m * n * (8 * k)) ∧
      b = { s.b with cores := b.cores, ctrs := b.ctrs, free := b.free, mem := b.mem } ∧ b.memKept s.b)) ∧
  (∀ (s : State) (core dst : Nat) (l : LLaunch) (op : MatOp) (rest : List MatOp) (lanes : List Nat) (la lb : List (List Byte)) (lc acc : List Word), (s.b.core core).launch = some l → (s.b.core core).mat = op :: rest →
    (s.b.live l.ref).isSome = true → op.kind = .sheaf dst lanes la lb lc acc →
    completes (.mmaComplete core) s (fun b => (b.core core).mat = rest ∧
      (∀ j ∈ lanes, (s.b.threadAt { core := core, slot := op.slot, sheaf := op.sheaf } j).isSome = true → (b.threadAt { core := core, slot := op.slot, sheaf := op.sheaf } j).any (fun t => decide (
        t.reg (dst + 1) = BitVec.ofNat 32 ((((mmaSheafTile op la lb lc acc)[2 * j + 1]?).map (fun e => e.code)).getD 0) ∧ dst ∉ t.busy ∧ dst + 1 ∉ t.busy)) = true) ∧
      (∀ j, j ∉ lanes → b.threadAt { core := core, slot := op.slot, sheaf := op.sheaf } j = s.b.threadAt { core := core, slot := op.slot, sheaf := op.sheaf } j) ∧
      b.lathKept s.b { core := core, slot := op.slot, sheaf := op.sheaf } ∧ b.ctr (Map.lthMmaCnt (core / 72)) = s.b.ctr (Map.lthMmaCnt (core / 72)) + 8#32 ∧
      b = { s.b with cores := b.cores, ctrs := b.ctrs, mem := b.mem } ∧ b.memKept s.b))

/-- A read that can issue and whose turn in its bank it is leaves the Eave's list and opens its row, the older reads of the bank that it passes marked, with no byte of memory changed, and one of a sector in the write queue meets no error; one of a poisoned or dead sector answers status 0x03; a pattern the code corrects counts in EAV_CORR_CNT and towards a retraining event, and an uncorrectable one poisons the sector, counts, sets EAV_ERR bit 0 and answers status 0x03. At its first timeout a read is held and an event starts; at its second it is answered 0x03, counted in EAV_TIMEOUT_CNT, and a FAILING pseudo-channel is DEAD. A store writes exactly its bytes and its sector enters the write queue. A parity difference is XORed into its sector and nowhere else, once that sector's write queue has a place. The oldest sector of the write queue that no window and no row copy holds goes out. A packet, launch, item or station that accesses memory and meets errors does what it does after them. (R388, R415, R417, R421, R422, R424, R425, R432, R434, R437, R501) -/
def Obligations.EaveAccesses : Prop :=
  (∀ (s : State) (k index : Nat) (errs : SymErrs) (sticks : Bool) (mates : List StackErr) (r : EaveRead), (s.b.eave k).reads[index]? = some r → (s.b.eave k).canIssue r = true → (s.b.eave k).myTurn index r = true → s.b.sectorBad r.addr = false →
    (errs = [] ∨ (s.b.eave k).wq.contains (sectorOf r.addr) = true) →
    completes (.eaveRead k index errs sticks mates) s (fun b =>
      (∃ rows l, b.eave k = { (s.b.eave k) with reads := (s.b.eave k).readsAfter index r, idleAt := s.b.now, pcs := (s.b.eave k).pcs.set (pcOf r.addr) { ((s.b.eave k).pc (pcOf r.addr)) with timeouts := 0 }, openRow := rows, wq := l } ∧
        rows.get (bankKey r.addr) = some (segOf r.addr) ∧ (∀ p, p ≠ bankKey r.addr → rows.get p = (s.b.eave k).openRow.get p) ∧
        (∀ a, a ∈ l ↔ a ∈ (s.b.eave k).wq ∧ ((s.b.eave k).rowHit r.addr = true ∨ (s.b.eave k).rowHit a = false ∨ (s.b.eave k).serves a = false ∨ bankKey a ≠ bankKey r.addr))) ∧
      b.ctr (Map.telAct k) = s.b.ctr (Map.telAct k) + (if (s.b.eave k).openRow.get (bankKey r.addr) = some (segOf r.addr) then 0#32 else 1#32) ∧
      b.ctrKept s.b [Map.telAct k] ∧ b.eavesBut s.b k ∧ b = { s.b with eaves := b.eaves, ctrs := b.ctrs, mem := b.mem } ∧ b.memKept s.b)) ∧
  (∀ (s : State) (k index : Nat) (r : EaveRead) (errs : SymErrs) (l : List (Nat × Nat)), (s.b.eave k).reads[index]? = some r → (s.b.eave k).canIssue r = true → (s.b.eave k).myTurn index r = true → s.b.sectorBad r.addr = false → (s.b.eave k).wq.contains (sectorOf r.addr) = false →
    (((s.b.eave k).pc (pcOf r.addr)).health = .good ∨ ((s.b.eave k).pc (pcOf r.addr)).health = .failing) → (∀ e ∈ errs, e.1 < 36) → errs.map (fun e => (e.1, e.2.toNat)) = l → rsDecode 36 l = .fix l →
    completes (.eaveRead k index errs false []) s (fun b => (b.eave k).reads = (s.b.eave k).readsAfter index r ∧ b.ctr (Map.eavCorrCnt k) = s.b.ctr (Map.eavCorrCnt k) + 1#32 ∧
      ((b.eave k).pc (pcOf r.addr)).corr = (((s.b.eave k).pc (pcOf r.addr)).corr.filter (fun c => decide (s.b.meshSince c.1 < 2000000))) ++ [(s.b.now, l.length)] ∧
      ((b.eave k).pc (pcOf r.addr)).event = (if 64 ≤ sumNat (((b.eave k).pc (pcOf r.addr)).corr.map (fun c => c.2)) ∧ ((s.b.eave k).pc (pcOf r.addr)).event = none then some (0, 0) else ((s.b.eave k).pc (pcOf r.addr)).event) ∧
      b.ctrKept s.b [Map.telAct k, Map.eavCorrCnt k] ∧ b.eavesBut s.b k ∧ b = { s.b with eaves := b.eaves, ctrs := b.ctrs, mem := b.mem } ∧ b.memKept s.b)) ∧
  (∀ (s : State) (k index n num : Nat) (r : EaveRead) (errs : SymErrs) (sticks : Bool), (s.b.eave k).reads[index]? = some r → (s.b.eave k).canIssue r = true → (s.b.eave k).myTurn index r = true → s.b.sectorBad r.addr = false → (s.b.eave k).wq.contains (sectorOf r.addr) = false →
    rsDecode 36 ((errs.filter (fun e => e.1 < 36)).map (fun e => (e.1, e.2.toNat))) = .bad → (∀ z ∈ s.b.vat.rows, z.kind ≠ .parity) → r.req = .seat n num →
    completes (.eaveRead k index errs sticks []) s (fun b => (b.eave k).reads = (s.b.eave k).readsAfter index r ∧ poisoned b.poison (sectorOf r.addr) = true ∧
      b.ctr (Map.eavUncorrCnt k) = s.b.ctr (Map.eavUncorrCnt k) + 1#32 ∧ wbit (b.err (Map.eavErr k)) 0 = true ∧
      (b.seat n).ops = (s.b.seat n).ops.map (fun o => if o.num = num ∧ o.status = stOk then { o with status := stUncorrectable } else o) ∧
      b.ctrKept s.b [Map.telAct k, Map.eavUncorrCnt k] ∧ b.errKept s.b [Map.eavErr k] ∧ b.eavesBut s.b k ∧
      b = { s.b with seats := b.seats, eaves := b.eaves, poison := b.poison, ctrs := b.ctrs, errs := b.errs, pins := b.pins, out := b.out, mem := b.mem } ∧ b.memKept s.b)) ∧
  (∀ (s : State) (k index n num : Nat) (r : EaveRead) (errs : SymErrs) (sticks : Bool), (s.b.eave k).reads[index]? = some r → (s.b.eave k).canIssue r = true → (s.b.eave k).myTurn index r = true → s.b.sectorBad r.addr = true → (∀ z ∈ s.b.vat.rows, z.kind ≠ .parity) → r.req = .seat n num →
    completes (.eaveRead k index errs sticks []) s (fun b => (b.eave k).reads = (s.b.eave k).readsAfter index r ∧
      (b.seat n).ops = (s.b.seat n).ops.map (fun o => if o.num = num ∧ o.status = stOk then { o with status := stUncorrectable } else o) ∧
      b.ctrKept s.b [Map.telAct k] ∧ b.eavesBut s.b k ∧ b = { s.b with seats := b.seats, eaves := b.eaves, ctrs := b.ctrs, mem := b.mem } ∧ b.memKept s.b)) ∧
  (∀ (s : State) (k index : Nat) (r : EaveRead) (g : Image), (s.b.eave k).reads[index]? = some r → s.b.start.img = some g → (s.b.eave k).canIssue r = true → g.stackTo ≤ s.b.meshSince r.at_ →
    (r.tries = 0 → ((s.b.eave k).pc (pcOf r.addr)).event = none → (((s.b.eave k).pc (pcOf r.addr)).health = .good ∨ ((s.b.eave k).pc (pcOf r.addr)).health = .failing) →
      completes (.stackResponseTimeout k index []) s (fun b =>
        b.eave k = { (s.b.eave k) with reads := modAt (s.b.eave k).reads index (fun x => { x with tries := 1, held := true }), pcs := (s.b.eave k).pcs.set (pcOf r.addr) { ((s.b.eave k).pc (pcOf r.addr)) with timeouts := ((s.b.eave k).pc (pcOf r.addr)).timeouts + 1, event := some (0, 0) } } ∧
        wbit (b.err (Map.eavErr k)) 1 = true ∧ b.errKept s.b [Map.eavErr k] ∧ b.eavesBut s.b k ∧ b = { s.b with eaves := b.eaves, errs := b.errs, pins := b.pins, out := b.out, mem := b.mem } ∧ b.memKept s.b)) ∧
    (∀ n num, r.tries ≠ 0 → ((s.b.eave k).pc (pcOf r.addr)).health = .good → (∀ z ∈ s.b.vat.rows, z.kind ≠ .parity) → r.req = .seat n num →
      completes (.stackResponseTimeout k index []) s (fun b => (b.eave k).reads = (s.b.eave k).reads.eraseIdx index ∧ b.ctr (Map.eavTimeoutCnt k) = s.b.ctr (Map.eavTimeoutCnt k) + 1#32 ∧
        (b.seat n).ops = (s.b.seat n).ops.map (fun o => if o.num = num ∧ o.status = stOk then { o with status := stUncorrectable } else o) ∧ wbit (b.err (Map.eavErr k)) 1 = true ∧
        b.ctrKept s.b [Map.eavTimeoutCnt k] ∧ b.errKept s.b [Map.eavErr k] ∧ b.eavesBut s.b k ∧
        b = { s.b with seats := b.seats, eaves := b.eaves, ctrs := b.ctrs, errs := b.errs, pins := b.pins, out := b.out, mem := b.mem } ∧ b.memKept s.b)) ∧
    (r.tries ≠ 0 → ((s.b.eave k).pc (pcOf r.addr)).health = .failing → (∀ z ∈ s.b.vat.rows, z.kind ≠ .parity ∧ z.copies = []) → s.b.vat.entriesOn k (pcOf r.addr) = [] →
      completes (.stackResponseTimeout k index []) s (fun b => ((b.eave k).pc (pcOf r.addr)).health = .dead ∧ ((b.eave k).pc (pcOf r.addr)).event = none ∧ wbit (b.err (Map.eavErr k)) 3 = true))) ∧
  (∀ (s : State) (k addr pa : Nat) (l : List Byte), s.memSound → pa = physStack k (bits addr 39 6) (addr % 2 ^ 39) → k < 24 → s.b.atWork = true → s.b.eaveIn k = true → l ≠ [] → pa % 64 + l.length ≤ 64 → (s.b.eave k).wq.length < 1024 →
    ((s.b.eave k).pc (pcOf pa)).health ≠ .dead → (l.length = 64 ∨ poisoned s.b.poison (sectorOf pa) = false) → (∀ z ∈ s.b.vat.rows, z.kind ≠ .parity ∧ z.copies = []) →
    completes (.eaveStore k addr l []) s (fun b => b.wrote s.b pa l ∧ b.poison = (if l.length = 64 then poisonDel s.b.poison (sectorOf pa) 64 else s.b.poison) ∧
      b.eave k = { (s.b.eave k) with selfRefresh := false, idleAt := s.b.now, wq := if (s.b.eave k).wq.contains (sectorOf pa) then (s.b.eave k).wq else (s.b.eave k).wq ++ [sectorOf pa] } ∧
      b.eavesBut s.b k ∧ b = { s.b with eaves := b.eaves, poison := b.poison, mem := b.mem })) ∧
  (∀ (s : State) (k : Nat) (d : Nat × List Byte) (rest : List (Nat × List Byte)), s.memSound → (s.b.eave k).par = d :: rest → d.2.length = 64 → s.b.queueOpen d.1 = true →
    completes (.parityDifference k) s (fun b => (b.eave k).par = rest ∧ (eaveOf d.1 < s.b.eaves.length → sectorOf d.1 ∈ (b.eave (eaveOf d.1)).wq) ∧
      (∀ q, b.byteAt q = if d.1 ≤ q ∧ q < d.1 + 64 then s.b.byteAt q ^^^ d.2.getD (q - d.1) 0#8 else s.b.byteAt q) ∧
      b.ctrKept s.b [Map.telAct (eaveOf d.1)] ∧ b = { s.b with eaves := b.eaves, ctrs := b.ctrs, mem := b.mem })) ∧
  (∀ (s : State) (k a : Nat), (s.b.eave k).wq.find? (s.b.eave k).mayDrain = some a →
    completes (.writeQueueDrain k) s (fun b => b.eave k = ({ (s.b.eave k) with wq := (s.b.eave k).wq.erase a, idleAt := s.b.now } : Eave).openFor a ∧ (b.eave k).rowHit a = true ∧
      b.ctr (Map.telAct k) = s.b.ctr (Map.telAct k) + (if (s.b.eave k).openRow.get (bankKey a) = some (segOf a) then 0#32 else 1#32) ∧ b.ctrKept s.b [Map.telAct k] ∧ b.eavesBut s.b k ∧
      b = { s.b with eaves := b.eaves, ctrs := b.ctrs, mem := b.mem } ∧ b.memKept s.b)) ∧
  (∀ (s : State) (a : StRef) (t strm src port n f : Nat) (h : Word) (q : AtomGroup) (qs : List AtomGroup) (l : LLaunch) (glob : Bool),
    meetsErrors (fun u => .write t strm u) s t ∧ meetsErrors (fun u => .read t strm u) s t ∧ (s.b.owner src = some t → meetsErrors (fun u => .packetArrival src u) s t) ∧ meetsErrors (fun u => .runLaunch t h u) s t ∧
    meetsErrors (fun u => .operandArrival a port u) s a.tenant ∧ meetsErrors (fun u => .itemDispatch f u) s 0 ∧ meetsErrors (fun u => .treeDescriptorArrival a u) s a.tenant ∧
    meetsErrors (fun u => .yealmTraversal a n u) s a.tenant ∧ meetsErrors (fun u => .yealmWindowAlloc a u) s a.tenant ∧ meetsErrors (fun u => .build a n u) s a.tenant ∧ meetsErrors (fun u => .refit a n u) s a.tenant ∧
    meetsErrors (fun u => .check a n u) s a.tenant ∧ meetsErrors (fun u => .batchEmit a u) s a.tenant ∧ meetsErrors (fun u => .courseHeaderWrite a u) s a.tenant ∧ meetsErrors (fun u => .replay a u) s a.tenant ∧
    meetsErrors (fun u => .vatLoadTile a n u) s a.tenant ∧ meetsErrors (fun u => .vatStoreTile a n u) s a.tenant ∧ meetsErrors (fun u => .binInputTile a n u) s a.tenant ∧ meetsErrors (fun u => .binScatter a u) s a.tenant ∧
    meetsErrors (fun u => .fragmentStore a n u) s a.tenant ∧ meetsErrors (fun u => .blendEndTile a n u) s a.tenant ∧ meetsErrors (fun u => .upstreamGradientTile a n u) s a.tenant ∧ meetsErrors (fun u => .blendFinish a u) s a.tenant ∧
    ((s.b.core q.at_.core).launch = some l → meetsErrors (fun u => .atom (q :: qs) glob u) s l.run.tenant))

/-- A reading sets the band by the table of R427 with its 2.0 °C below each bound, the high-temperature flag by R428, EAV_ERR bit 7 when that flag rises, and, unless the block is in RESET or STOPPED, starts an event on each pseudo-channel trained 10.0 °C away. A refresh clears what is owed. A stack idle for 200,000 CK_MESH cycles in SERVICE enters self-refresh. A scrub goes one segment on and wraps into EAV_SCRUB_PASS; a row whose tag differs has its 28 sectors poisoned and counted, and metadata that its code corrects counts in EAV_CORR_CNT. A maintenance window ends with the reading, and a failed loop-back starts an event. (R416, R417, R426, R427, R428, R429, R430, R431, R432, R496) -/
def Obligations.EaveUpkeep : Prop :=
  (∀ (s : State) (k : Nat) (temp : BitVec 12), k < 24 → (s.b.eave k).resetN = true → (s.b.eave k).tempAt + 2000 ≤ s.b.now →
    completes (.stackTemperatureRead k temp) s (fun b => (b.eave k).temp = temp ∧ (b.eave k).tempAt = s.b.now ∧
      (b.eave k).hotFlag = (if 1360 ≤ tempOf temp then true else if tempOf temp < 1328 then false else (s.b.eave k).hotFlag) ∧
      (1520 ≤ tempOf temp → (b.eave k).band = 2) ∧ (1488 ≤ tempOf temp → tempOf temp < 1520 → (b.eave k).band = if (s.b.eave k).band = 2 then 2 else 1) ∧
      (1360 ≤ tempOf temp → tempOf temp < 1488 → (b.eave k).band = 1) ∧ (1328 ≤ tempOf temp → tempOf temp < 1360 → (b.eave k).band = if 1 ≤ (s.b.eave k).band then 1 else 0) ∧
      (tempOf temp < 1328 → (b.eave k).band = 0) ∧
      (∀ p c, (s.b.eave k).pcs.get p = some c → (c.health = .good ∨ c.health = .failing) → c.event = none →
        (b.eave k).pc p = if s.b.atWork = true ∧ (s.b.eave k).inService = true ∧ 160 ≤ (tempOf temp - tempOf c.trainedTemp).natAbs then { c with event := some (0, 0) } else c) ∧
      (∀ p, (b.eave k).pcs.get p = none ↔ (s.b.eave k).pcs.get p = none) ∧
      (1360 ≤ tempOf temp → (s.b.eave k).hotFlag = false → wbit (b.err (Map.eavErr k)) 7 = true) ∧ (tempOf temp < 1360 → b.errs = s.b.errs) ∧ b.errKept s.b [Map.eavErr k] ∧ b.eavesBut s.b k ∧
      b.eave k = { (s.b.eave k) with temp := (b.eave k).temp, tempAt := (b.eave k).tempAt, hotFlag := (b.eave k).hotFlag, band := (b.eave k).band, pcs := (b.eave k).pcs } ∧
      b = { s.b with eaves := b.eaves, errs := b.errs, pins := b.pins, out := b.out, mem := b.mem } ∧ b.memKept s.b)) ∧
  (∀ (s : State) (k : Nat), (s.b.eave k).inService = true → (s.b.eave k).selfRefresh = false →
    completes (.refresh k) s (fun b => b.eave k = { (s.b.eave k) with owed := 0 } ∧ b.eavesBut s.b k ∧ b = { s.b with eaves := b.eaves, mem := b.mem } ∧ b.memKept s.b)) ∧
  (∀ (s : State) (k : Nat), (s.b.eave k).inService = true → (s.b.eave k).selfRefresh = false → s.b.eaveMode k = 0 → (s.b.eave k).reads = [] → (s.b.eave k).wq = [] → (s.b.eave k).par = [] → (s.b.eave k).window = none → (s.b.eave k).test = none →
    200000 ≤ s.b.meshSince (s.b.eave k).idleAt →
    completes (.selfRefreshEntry k) s (fun b => b.eave k = { (s.b.eave k) with selfRefresh := true } ∧ b.eavesBut s.b k ∧ b = { s.b with eaves := b.eaves, mem := b.mem } ∧ b.memKept s.b)) ∧
  (∀ (s : State) (k : Nat), s.b.eaveIn k = true → (s.b.eave k).selfRefresh = false → 200000 ≤ s.b.meshSince (s.b.eave k).scrubAt →
    completes (.scrub k []) s (fun b => b.eave k = { (s.b.eave k) with scrubAt := s.b.now, scrubSeg := if s.b.segsOf ≤ (s.b.eave k).scrubSeg + 1 then 0 else (s.b.eave k).scrubSeg + 1, scrubPass := (s.b.eave k).scrubPass + (if s.b.segsOf ≤ (s.b.eave k).scrubSeg + 1 then 1 else 0) } ∧ b.eavesBut s.b k ∧ b = { s.b with eaves := b.eaves, mem := b.mem } ∧ b.memKept s.b) ∧
    (∀ h : ScrubHit, s.b.pcIn k h.pc = true → h.slot = 28 → completes (.scrub k [h]) s (fun b =>
      (∀ j, j < 28 → poisoned b.poison (physStack k h.pc ((28 * (s.b.eave k).scrubSeg + j) * 64)) = true) ∧ b.ctr (Map.eavUncorrCnt k) = s.b.ctr (Map.eavUncorrCnt k) + 28#32 ∧
      wbit (b.err (Map.eavErr k)) 0 = true ∧ b.ctrKept s.b [Map.eavUncorrCnt k] ∧ b.errKept s.b [Map.eavErr k] ∧ b.eavesBut s.b k ∧
      b = { s.b with eaves := b.eaves, poison := b.poison, ctrs := b.ctrs, errs := b.errs, pins := b.pins, out := b.out, mem := b.mem } ∧ b.memKept s.b)) ∧
    (∀ (h : ScrubHit) (l : List (Nat × Nat)), s.b.pcIn k h.pc = true → 29 ≤ h.slot → (∀ e ∈ h.errs, e.1 < 16) → h.errs.map (fun e => (e.1, e.2.toNat)) = l → rsDecode 16 l = .fix l → completes (.scrub k [h]) s (fun b =>
      b.ctr (Map.eavCorrCnt k) = s.b.ctr (Map.eavCorrCnt k) + 1#32 ∧ b.ctrKept s.b [Map.eavCorrCnt k] ∧ b.eavesBut s.b k ∧ b = { s.b with eaves := b.eaves, ctrs := b.ctrs, mem := b.mem } ∧ b.memKept s.b))) ∧
  (∀ (s : State) (k p t0 : Nat) (temp : BitVec 12) (passed : Bool), (s.b.eave k).test = some (p, t0) → ((s.b.eave k).pc p).event = none → (((s.b.eave k).pc p).health = .good ∨ ((s.b.eave k).pc p).health = .failing) →
    completes (.maintenanceWindow k passed temp) s (fun b =>
      b.eave k = { (s.b.eave k) with test := none, testAt := s.b.now, idleAt := s.b.now, temp := temp, reads := (s.b.eave k).reads.map (fun r => { r with at_ := s.b.now }), pcs := (s.b.eave k).pcs.set p (if passed then (s.b.eave k).pc p else { ((s.b.eave k).pc p) with event := some (0, 0) }) } ∧
      ((s.b.eave k).testTodo = [] → s.b.screen.cmd = .eave k → b.screen = { s.b.screen with cmd := .none, cmdStatus := s.b.screen.cmdStatus ||| 0x100#32 }) ∧
      (((s.b.eave k).testTodo ≠ [] ∨ s.b.screen.cmd ≠ .eave k) → b.screen = s.b.screen) ∧ b.eavesBut s.b k ∧ b = { s.b with eaves := b.eaves, screen := b.screen, mem := b.mem } ∧ b.memKept s.b))

/-- A window opens on a pseudo-channel in an event and holds its reads; its end releases them, counts in EAV_RETRAIN_CNT and, when it passed, ends the event with the reading it trained at. A fourth window in a row that fails makes the pseudo-channel FAILING, or maps it out at once when no zone lies on it, with EAV_ERR bit 2. Outside the windows of its pseudo-channel a copy that passed its check moves every byte of the zone, rewrites the row's entry, drops the translations of its sheets and maps the pseudo-channel out with its last zone. A copy that has not passed its check changes nothing. A spare in use stands in the repair log and EAV_ERR bit 4 is set. A retired page enters the list, its slot is never used again, its sheet moves with its bytes, and EAV_ERR bit 5 is set. (R400, R433, R434, R435, R436, R438, R439, R440, R441) -/
def Obligations.EaveRepairs : Prop :=
  (∀ (s : State) (k p n last : Nat), ((s.b.eave k).pc p).event = some (n, last) → s.b.atWork = true → s.b.eaveIn k = true → (s.b.eave k).window = none → (s.b.eave k).test = none → (n = 0 ∨ 400000 ≤ s.b.meshSince last) →
    completes (.retrainingWindowOpen k p) s (fun b =>
      b.eave k = { (s.b.eave k) with window := some (p, s.b.now), owed := 0, selfRefresh := false, idleAt := s.b.now, reads := (s.b.eave k).reads.map (fun r => if pcOf r.addr = p then { r with held := true } else r) } ∧
      b.eavesBut s.b k ∧ b = { s.b with eaves := b.eaves, mem := b.mem } ∧ b.memKept s.b)) ∧
  (∀ (s : State) (k p t0 n last : Nat), (s.b.eave k).window = some (p, t0) → ((s.b.eave k).pc p).event = some (n, last) →
    completes (.retrainingWindowEnd k true) s (fun b =>
      b.eave k = { (s.b.eave k) with window := none, owed := 0, idleAt := s.b.now, reads := (s.b.eave k).reads.map (fun r => if pcOf r.addr = p then { r with held := false, at_ := s.b.now } else r), pcs := (s.b.eave k).pcs.set p { ((s.b.eave k).pc p) with event := none, corr := [], trainedTemp := (s.b.eave k).temp, timeouts := 0 } } ∧
      b.ctr (Map.eavRetrainCnt k) = s.b.ctr (Map.eavRetrainCnt k) + 1#32 ∧ ((∀ x ∈ (s.b.eave k).reads, s.b.meshSince x.at_ < 2 ^ 32) →
        (s.b.ctr (Map.eavHoldMax k)).toNat ≤ (b.ctr (Map.eavHoldMax k)).toNat ∧ ∀ r ∈ (s.b.eave k).reads, pcOf r.addr = p → s.b.meshSince r.at_ ≤ (b.ctr (Map.eavHoldMax k)).toNat) ∧
      b.ctrKept s.b [Map.eavRetrainCnt k, Map.eavHoldMax k] ∧ b.eavesBut s.b k ∧ b = { s.b with eaves := b.eaves, ctrs := b.ctrs, mem := b.mem } ∧ b.memKept s.b) ∧
    (n < 3 → completes (.retrainingWindowEnd k false) s (fun b => (b.eave k).window = none ∧ (b.eave k).pc p = { ((s.b.eave k).pc p) with event := some (n + 1, s.b.now) } ∧
      b.ctr (Map.eavRetrainCnt k) = s.b.ctr (Map.eavRetrainCnt k) + 1#32 ∧ b.eavesBut s.b k ∧ b = { s.b with eaves := b.eaves, ctrs := b.ctrs, mem := b.mem } ∧ b.memKept s.b)) ∧
    (3 ≤ n → completes (.retrainingWindowEnd k false) s (fun b => (b.eave k).window = none ∧ ((b.eave k).pc p).event = none ∧ wbit (b.err (Map.eavErr k)) 2 = true ∧
      ((b.eave k).pc p).health = (if (b.vat.entriesOn k p).isEmpty then .mappedOut else .failing)))) ∧
  (∀ (s : State) (id col : Nat) (r : ZRow) (z y : Zone), s.memSound → s.b.vat.row id = some r → r.table[col]? = some z → r.copies = [(col, y)] → s.b.vat.entriesOn z.eave z.pc = [(z.idx, id, col)] → (s.b.eave z.eave).holds z.pc = false →
    (∀ k, (s.b.eave k).par = []) → (z.eave, z.pc) ≠ (y.eave, y.pc) → z.pc < 64 → y.pc < 64 → z.idx < 833 → y.idx < 833 →
    completes (.zoneCopyDone id col [] false) s (fun b => b = { s.b with mem := b.mem } ∧ b.memKept s.b) ∧
    completes (.zoneCopyDone id col [] true) s (fun b => b.vat.row id = some { r with table := modAt r.table col (fun _ => y), copies := [] } ∧
      (∀ q, b.byteAt q = if y.base ≤ q ∧ q < y.base + zoneBytes then s.b.byteAt (z.base + (q - y.base)) else if z.base ≤ q ∧ q < z.base + zoneBytes then 0#8 else s.b.byteAt q) ∧
      (((s.b.eave z.eave).pc z.pc).health = .failing → ((b.eave z.eave).pc z.pc).health = .mappedOut) ∧ (((s.b.eave z.eave).pc z.pc).health = .good → ((b.eave z.eave).pc z.pc).health = .good) ∧
      (∀ sh ∈ s.b.vat.sheets, (∃ j, sh.place = .stack id j) → ∀ e ∈ b.vat.xlate, (sh.tenant, sh.num) ∉ e.2) ∧ b.vat.sheets = s.b.vat.sheets ∧ (∀ a, (∀ n, a ≠ Map.telSeatOut n) → b.ctr a = s.b.ctr a) ∧ b.runs = s.b.runs)) ∧
  (∀ (s : State) (k p seg : Nat) (m : RowMove), (s.b.eave k).moves.find? (fun m => decide (m.pc = p ∧ m.seg = seg) && m.copying) = some m → (s.b.eave k).holds p = false →
    completes (.rowRemapDone k p seg [] false) s (fun b => b = { s.b with mem := b.mem } ∧ b.memKept s.b) ∧
    completes (.rowRemapDone k p seg [] true) s (fun b =>
      b.eave k = { (s.b.eave k) with moves := (s.b.eave k).moves.map (fun x => if x.pc = p ∧ x.seg = seg then { x with copying := false } else x), log := (s.b.eave k).log.filter (fun x => !(decide (x.1 = p ∧ x.2.1 = seg))) ++ [(p, seg, m.count)], reads := (s.b.eave k).reads.map (fun r => if pcOf r.addr = p ∧ segOf r.addr = seg then { r with at_ := s.b.now } else r) } ∧
      b.ctr (Map.eavRemapCnt k) = s.b.ctr (Map.eavRemapCnt k) + 1#32 ∧ wbit (b.err (Map.eavErr k)) 4 = true ∧ b.ctrKept s.b [Map.eavRemapCnt k] ∧ b.errKept s.b [Map.eavErr k] ∧ b.eavesBut s.b k ∧
      b = { s.b with eaves := b.eaves, ctrs := b.ctrs, errs := b.errs, pins := b.pins, out := b.out, mem := b.mem } ∧ b.memKept s.b)) ∧
  (∀ (s : State) (k p page : Nat) (rest : List (Nat × Nat)), (s.b.eave k).retiring = (p, page) :: rest → (s.b.eave k).holds p = false →
    completes (.pageRetire k false) s (fun b => b = { s.b with mem := b.mem } ∧ b.memKept s.b) ∧
    (s.b.vat.zoneAt (physStack k p (page * pageBytes)) = none → (∀ g, g < 8 → s.b.vat.zoneAt (physStack k p (page * pageBytes) + 512 * g) = none) →
      completes (.pageRetire k true) s (fun b => b.eave k = { (s.b.eave k) with retiring := rest, retired := (s.b.eave k).retired ++ [(p, page)] } ∧ wbit (b.err (Map.eavErr k)) 5 = true ∧
        b.errKept s.b [Map.eavErr k] ∧ b.eavesBut s.b k ∧ b.vat = s.b.vat ∧ b.runs = s.b.runs ∧ b.memKept s.b)) ∧
    (∀ (r y : ZRow) (col slot j : Nat) (sh : Sheet) (b1 : Block), s.memSound → s.b.vat.zoneAt (physStack k p (page * pageBytes)) = some (r, col) → r.copies = [] → s.b.vat.row r.id = some r →
      (((List.range 8).filterMap (fun g => (s.b.vat.slotOf (physStack k p (page * pageBytes) + 512 * g)).map (fun x => (x.1, x.2.1)))).eraseDups) = [(r.id, slot)] → r.retired.contains slot = false →
      s.b.vat.sheets = [sh] → sh.place = .stack r.id slot → sh.paging = none → (∀ x ∈ s.b.vat.rows, x.kind ≠ .parity) →
      b1 = (s.b.modEave k (fun e => { e with retiring := rest, retired := e.retired ++ [(p, page)] })).modRow r.id (fun x => { x with retired := x.retired ++ [slot] }) →
      b1.takeSlot r.kind = some (b1, y.id, j) → b1.vat.row y.id = some y → (y.id, j) ≠ (r.id, slot) →
      (∀ x, x < sheetBytes → s.b.vat.slotOf (r.phys slot x) = some (r.id, slot, x) ∧ s.b.vat.slotOf (y.phys j x) = some (y.id, j, x)) →
      (∀ q a, s.b.vat.slotOf q = some (r.id, slot, a) → q = r.phys slot a) →
      completes (.pageRetire k true) s (fun b => (b.eave k).retiring = rest ∧ (b.eave k).retired = (s.b.eave k).retired ++ [(p, page)] ∧ (b.vat.row r.id).any (fun x => x.retired.contains slot) = true ∧
        (b.vat.sheet sh.tenant sh.num).any (fun x => decide (x.place = .stack y.id j)) = true ∧ (∀ x, x < sheetBytes → b.byteAt (y.phys j x) = s.b.byteAt (r.phys slot x)) ∧
        (∀ e ∈ b.vat.xlate, (sh.tenant, sh.num) ∉ e.2) ∧ wbit (b.err (Map.eavErr k)) 5 = true ∧ b.errKept s.b [Map.eavErr k] ∧ b.eavesBut s.b k)))

/-- A sound input tile whose sheets are there has its boxes staged, every row counted and each culled one counted; boxes follow R459. A tile with a reserved bit set or another width kills with 0x32, a store past course_max with 0x31. A draw that has ended becomes its segments and leaves the staging area empty: a FORWARD draw of one segment emits its work record, a REVERSE draw keeps its records back. A BIN that lacks sheets parks, counted, with SPL_ERR bit 0. A GROW that covers the need lets it go on; one that does not leaves it parked again. When the GROW timer has run the run is killed with cause 0x13 and the draw number, and before that nothing happens. (R10, R458, R459, R460, R461, R462, R463, R464, R465, R466) -/
def Obligations.SplatBins : Prop :=
  (∀ (s : State) (a : StRef) (n : Nat) (r : Run) (st : Station) (x : Active) (t : Tile) (y : BinSt) (v : BinPar) (b1 : Block), s.b.working a n = some (r, st, x) → st.body = .bin y → x.tile 0 = some t → v = binPar st.params →
    y.park = none → y.ended = false → st.turn n = true →
    ((t.cols ≠ 64 ∨ ∃ k, k < t.rows ∧ wfield (wordAt (t.row 64 k) 2) 1 31 ≠ 0) → completes (.binInputTile a n []) s (fun b => b.killedWith (stRun a) 0x32 a.station (BitVec.ofNat 32 t.no) ∧ wbit (b.err (Map.splErr st.homeField)) 4 = true ∧ b.memKept s.b)) ∧
    (t.cols = 64 → (∀ k, k < t.rows → wfield (wordAt (t.row 64 k) 2) 1 31 = 0) → y.boxes.length + t.rows ≤ 16777216 → y.prims + t.rows < 2 ^ 32 →
      (v.max < sheetsOf y.segEnd + sheetsOf (8 * (y.boxes.length + t.rows)) → completes (.binInputTile a n []) s (fun b => b.killedWith (stRun a) 0x31 a.station (BitVec.ofNat 32 y.draw) ∧ wbit (b.err (Map.splErr st.homeField)) 2 = true ∧ b.memKept s.b)) ∧
      (sheetsOf y.segEnd + sheetsOf (8 * (y.boxes.length + t.rows)) ≤ v.max →
        (∀ m ∈ v.need (sheetsOf y.segEnd) (sheetsOf (8 * (y.boxes.length + t.rows))), m ∈ s.b.vat.courseSheets r.ref.tenant v) →
        s.b.courseReady r.ref.tenant (v.va + v.max * sheetBytes - 8 * (y.boxes.length + t.rows)) (8 * t.rows) = true →
        s.b.courseWrite st.homeField r.ref.tenant (v.va + v.max * sheetBytes - 8 * (y.boxes.length + t.rows)) (((List.range t.rows).map (fun k => t.row 64 k)).reverse.flatMap (fun l => l.take 8)) = (b1, stOk) →
        completes (.binInputTile a n []) s (fun b =>
          b.stAt a = some { st with body := .bin { y with prims := y.prims + t.rows, boxes := y.boxes ++ (List.range t.rows).map (fun k => v.box (t.row 64 k)), ended := t.last || bitAt t.flags 0, lastTile := t.no }, active := workDone st.active n } ∧
          b.ctr (Map.splBinPrim st.homeField) = s.b.ctr (Map.splBinPrim st.homeField) + BitVec.ofNat 32 t.rows ∧
          b.ctr (Map.splBinCull st.homeField) = s.b.ctr (Map.splBinCull st.homeField) + BitVec.ofNat 32 ((List.range t.rows).countP (fun k => (v.box (t.row 64 k)).isNone)) ∧
          (∀ z, z ≠ stRun a → b.findRun z = s.b.findRun z) ∧ b.vat = s.b.vat ∧ b.streams = s.b.streams ∧ b.start = s.b.start ∧ (∀ q, b.byteAt q = b1.byteAt q))) ∧
      (∀ got lack, sheetsOf y.segEnd + sheetsOf (8 * (y.boxes.length + t.rows)) ≤ v.max →
        s.b.courseTake r.ref.tenant st.homeField v (v.need (sheetsOf y.segEnd) (sheetsOf (8 * (y.boxes.length + t.rows)))) = (b1, got, lack + 1) →
        completes (.binInputTile a n []) s (fun b => b.stAt a = some { st with body := .bin { y with park := some { segs := sheetsOf y.segEnd, stage := sheetsOf (8 * (y.boxes.length + t.rows)), since := s.b.now } } } ∧
          b.ctr (Map.splGrowCnt st.homeField) = s.b.ctr (Map.splGrowCnt st.homeField) + 1#32 ∧ wbit (b.err (Map.splErr st.homeField)) 0 = true ∧ (∀ q, b.byteAt q = b1.byteAt q))))) ∧
  (∀ (v : BinPar) (rec : List Byte), 1 ≤ v.w → 1 ≤ v.h →
    (v.box rec = none ↔ (wbit (wordAt rec 2) 0 = true ∨ signed16 (wordAt rec 1) 0 < signed16 (wordAt rec 0) 0 ∨ signed16 (wordAt rec 1) 16 < signed16 (wordAt rec 0) 16 ∨ signed16 (wordAt rec 1) 0 < 0 ∨ signed16 (wordAt rec 1) 16 < 0 ∨
      (v.w : Int) ≤ signed16 (wordAt rec 0) 0 ∨ (v.h : Int) ≤ signed16 (wordAt rec 0) 16)) ∧
    (∀ c0 c1 r0 r1, v.box rec = some (c0, c1, r0, r1) → (c0 : Int) = max (signed16 (wordAt rec 0) 0) 0 / 16 ∧ (c1 : Int) = min (signed16 (wordAt rec 1) 0) (v.w - 1) / 16 ∧
      (r0 : Int) = max (signed16 (wordAt rec 0) 16) 0 / 16 ∧ (r1 : Int) = min (signed16 (wordAt rec 1) 16) (v.h - 1) / 16)) ∧
  (∀ (s : State) (a : StRef) (j c w : Nat) (r : Run) (st : Station) (y : BinSt) (v : BinPar) (ed : Edge) (b1 : Block), s.b.live a = some (r, st) → st.body = .bin y → v = binPar st.params → y.park = none → st.outbox = [] → y.ended = true → st.frameOver = false →
    v.reverse = false → y.boxes = [some (c, c, w, w)] → y.segs = [] → sheetsOf (y.segEnd + 64) + 1 ≤ v.max → (∀ m ∈ v.need (sheetsOf (y.segEnd + 64)) 1, m ∈ s.b.vat.courseSheets r.ref.tenant v) →
    s.b.courseReady r.ref.tenant (v.va + y.segEnd) 64 = true → s.b.courseWrite st.homeField r.ref.tenant (v.va + y.segEnd) (leBytes 4 (y.prims - 1) ++ List.replicate 60 0xFF#8) = (b1, stOk) →
    r.outEdge a.station 0 = some (j, ed) → s.b.canPush (stRun a) j ed →
    completes (.binScatter a []) s (fun b =>
      b.edgeAt (stRun a) j = some (ed.plus { rowsTile 32 ((v.seq + (y.prims - 1)) % 2 ^ 48) 0 [wordsBytes [BitVec.ofNat 32 (y.sks.getD (w * shCols v.w + c) 0 % 65536), BitVec.ofNat 32 (w * shCols v.w + c), BitVec.ofNat 32 y.draw, 1#32, BitVec.ofNat 32 (v.va + y.segEnd), BitVec.ofNat 32 ((v.va + y.segEnd) / 2 ^ 32), 0#32, 0#32]] with last := false }) ∧
      b.stAt a = some { st with body := .bin { y with boxes := [], draw := y.draw + 1, ended := false, segEnd := y.segEnd + 64, sks := y.sks.set (w * shCols v.w + c) (y.sks.getD (w * shCols v.w + c) 0 + 1) } } ∧
      b.ctr (Map.splBinEntry st.homeField) = s.b.ctr (Map.splBinEntry st.homeField) + 1#32 ∧ (∀ z, z ≠ stRun a → b.findRun z = s.b.findRun z) ∧ b.vat = s.b.vat ∧ (∀ q, b.byteAt q = b1.byteAt q))) ∧
  (∀ (s : State) (a : StRef) (r : Run) (st : Station) (y : BinSt) (v : BinPar) (b1 : Block) (es : List (Nat × List Nat)) (d : List Byte), s.b.live a = some (r, st) → st.body = .bin y → v = binPar st.params → y.park = none → st.outbox = [] → y.ended = true → st.frameOver = false →
    v.reverse = true → y.boxes ≠ [] → es = drawEntries (shCols v.w) (y.prims - y.boxes.length) y.boxes → d = es.flatMap (fun e => segmentBytes e.2) → (∀ e ∈ es, e.2.length ≤ 65536) →
    sheetsOf (y.segEnd + d.length) + sheetsOf (8 * y.boxes.length) ≤ v.max → (∀ m ∈ v.need (sheetsOf (y.segEnd + d.length)) (sheetsOf (8 * y.boxes.length)), m ∈ s.b.vat.courseSheets r.ref.tenant v) →
    s.b.courseReady r.ref.tenant (v.va + y.segEnd) d.length = true → s.b.courseWrite st.homeField r.ref.tenant (v.va + y.segEnd) d = (b1, stOk) →
    completes (.binScatter a []) s (fun b => b.stAt a = some { st with body := .bin { y with boxes := [], draw := y.draw + 1, ended := false, segEnd := y.segEnd + d.length, segs := y.segs ++ laySegments y.draw es (v.va + y.segEnd) } } ∧
      d.length % 64 = 0 ∧ b.ctr (Map.splBinEntry st.homeField) = s.b.ctr (Map.splBinEntry st.homeField) + BitVec.ofNat 32 (sumNat (es.map (fun e => e.2.length))) ∧ b.vat = s.b.vat ∧ (∀ q, b.byteAt q = b1.byteAt q))) ∧
  (∀ (s : State) (t strm got lack : Nat) (p : Pkt) (r : Run) (st : Station) (y : BinSt) (k : Park) (b1 : Block), s.b.front t strm 0x0A = some p → p.stream = strm → p.cpl = false → p.addr = 0 → s.b.findRun { tenant := t, handle := p.arg 0 } = some r → r.killed = none →
    r.stations[wfield (p.arg 1) 0 8]? = some st → st.entry.type = .bin → st.body = .bin y → y.park = some k →
    (s.b.popFront t strm).courseTake t st.homeField (binPar st.params) ((binPar st.params).need k.segs k.stage) = (b1, got, lack) →
    completes (.grow t strm) s (fun b => (b.strm t strm).adm = (s.b.strm t strm).adm.drop 1 ∧
      (lack = 0 → b.stAt { tenant := t, handle := p.arg 0, station := wfield (p.arg 1) 0 8 } = some { st with body := .bin { y with park := none } } ∧ b.vat = b1.vat ∧ b.ctrs = b1.ctrs) ∧
      (lack ≠ 0 → b.stAt { tenant := t, handle := p.arg 0, station := wfield (p.arg 1) 0 8 } = some { st with body := .bin { y with park := some { segs := k.segs, stage := k.stage, since := s.b.now } } } ∧
        b.ctr (Map.splGrowCnt st.homeField) = s.b.ctr (Map.splGrowCnt st.homeField) + 1#32 ∧ wbit (b.err (Map.splErr st.homeField)) 0 = true) ∧ (∀ q, b.byteAt q = b1.byteAt q))) ∧
  (∀ (s : State) (a : StRef) (r : Run) (st : Station) (y : BinSt) (k : Park) (g : Image), s.b.live a = some (r, st) → s.b.start.img = some g → st.body = .bin y → y.park = some k →
    (g.growTo ≤ s.b.ctlSince k.since → completes (.growTimeout a) s (fun b => b.killedWith (stRun a) 0x13 a.station (BitVec.ofNat 32 y.draw) ∧ wbit (b.err (Map.splErr st.homeField)) 1 = true ∧ b.memKept s.b)) ∧
    (s.b.ctlSince k.since < g.growTo → completes (.growTimeout a) s (fun b => b = { s.b with mem := b.mem } ∧ b.memKept s.b)))

/-- A fragment of the item in turn retires at its pixel and is counted; one of a later item is held and counted; one of an ended item, one that stands behind its pixel's last of the same item, or one that comes after the BLEND has finished, kills with 0x30 and the shingle. An end tile of the item in turn retires that item's held fragments, emits the item's gradient records in REVERSE and moves next_sk on; another end tile kills with 0x30. An upstream tile gives every pixel its gradients; one out of order kills with 0x32. A FORWARD frame of one shingle ends with its image tile, last set; a REVERSE frame ends without one; a fragment still held kills with 0x30. Every retired FORWARD fragment counts in F and stands as the last one, and a skipped one changes no colour. (R469, R470, R471, R472, R473, R474, R475, R476, R477, R478) -/
def Obligations.SplatBlends : Prop :=
  (∀ (s : State) (a : StRef) (r : Run) (st : Station) (y : BlendSt) (v : BlendPar) (f : Frag) (l : List Frag) (sh : Shingle) (fld : Nat), s.b.live a = some (r, st) → st.body = .blend y → v = blendPar st.params → v.reverse = false → y.inbound = f :: l → sh = y.shingle f.x →
    fld = s.b.ownerField v.w f.x → wfield (f.words.getD 3 0#32) 16 16 = 0 → sh.nextSk < 65536 →
    (y.done = true → completes (.fragmentStore a 0 []) s (fun b => b.killedWith (stRun a) 0x30 a.station (BitVec.ofNat 32 f.x) ∧ wbit (b.err (Map.splErr fld)) 3 = true ∧ b.memKept s.b)) ∧
    (y.done = false → f.sk = sh.nextSk → sh.orderOk v (sh.px.getD f.q pixelStart) f = true → completes (.fragmentStore a 0 []) s (fun b =>
      b.stAt a = some { st with body := .blend { y with inbound := l, sh := y.sh.set f.x { sh with px := sh.px.set f.q (v.forward (sh.px.getD f.q pixelStart) f).1, touched := if sh.touched.contains f.q then sh.touched else f.q :: sh.touched, ovf := sh.ovf || encOvf (v.forward (sh.px.getD f.q pixelStart) f).2.1, unf := sh.unf || encUnf (v.forward (sh.px.getD f.q pixelStart) f).2.1 } } } ∧
      b.ctr (Map.splFragCnt fld) = s.b.ctr (Map.splFragCnt fld) + 1#32 ∧ b.ctr (Map.splSkipCnt fld) = s.b.ctr (Map.splSkipCnt fld) + (if (v.forward (sh.px.getD f.q pixelStart) f).2.2 then 1#32 else 0#32) ∧
      b.ctr (Map.splPortBusy fld) = s.b.ctr (Map.splPortBusy fld) + 1#32 ∧ b.ctrKept s.b [Map.splFragCnt fld, Map.splSkipCnt fld, Map.splPortBusy fld] ∧ b = { s.b with runs := b.runs, ctrs := b.ctrs, mem := b.mem } ∧ b.memKept s.b)) ∧
    (y.done = false → f.sk = sh.nextSk → sh.orderOk v (sh.px.getD f.q pixelStart) f = false → completes (.fragmentStore a 0 []) s (fun b => b.killedWith (stRun a) 0x30 a.station (BitVec.ofNat 32 f.x) ∧ wbit (b.err (Map.splErr fld)) 3 = true ∧ b.memKept s.b)) ∧
    (y.done = false → 32768 ≤ (f.sk + 65536 - sh.nextSk) % 65536 → completes (.fragmentStore a 0 []) s (fun b => b.killedWith (stRun a) 0x30 a.station (BitVec.ofNat 32 f.x) ∧ b.memKept s.b)) ∧
    (y.done = false → 1 ≤ (f.sk + 65536 - sh.nextSk) % 65536 → (f.sk + 65536 - sh.nextSk) % 65536 ≤ 32767 → s.b.isHeld r.ref.tenant (.blend r.ref a.station) = false → s.b.gutterFree r.ref.tenant ≠ 0 →
      completes (.fragmentStore a 0 []) s (fun b => b.stAt a = some { st with body := .blend { y with inbound := l, sh := y.sh.set f.x { sh with held := sh.held ++ [f] } } } ∧
        b.ctr (Map.splHoldCnt fld) = s.b.ctr (Map.splHoldCnt fld) + 1#32 ∧ b.ctrKept s.b [Map.splHoldCnt fld] ∧ b = { s.b with runs := b.runs, ctrs := b.ctrs, mem := b.mem } ∧ b.memKept s.b))) ∧
  (∀ (v : BlendPar) (px : List Word) (f : Frag), px.length = 8 → (v.forward px f).1.length = 8 ∧ (v.forward px f).1.getD 5 0#32 = px.getD 5 0#32 + 1#32 ∧ (v.forward px f).1.getD 6 0#32 = f.words.getD 0 0#32 ∧
    ((v.forward px f).2.2 = (f.alpha.lt v.alphaMin || (wordF (px.getD 3 0#32)).lt v.tStop)) ∧
    ((v.forward px f).2.2 = true → (v.forward px f).1.take 5 = px.take 5 ∧ (v.forward px f).1.getD 7 0#32 = px.getD 7 0#32) ∧
    ((v.forward px f).2.2 = false → (v.forward px f).1.getD 4 0#32 = (v.forward px f).1.getD 5 0#32 ∧ (v.forward px f).1.getD 7 0#32 = px.getD 7 0#32 + 1#32)) ∧
  (∀ (s : State) (a : StRef) (n sk x : Nat) (r : Run) (st : Station) (i : Active) (y : BlendSt) (v : BlendPar) (t : Tile) (sh : Shingle), s.b.working a n = some (r, st, i) → st.body = .blend y → i.tile 0 = some t → v = blendPar st.params →
    sk = wfield (wordAt (t.row 32 0) 0) 0 16 → x = (wordAt (t.row 32 0) 1).toNat → sh = y.shingle x → st.portTurn 0 n = true → st.outbox = [] → x < shCount v.w v.h → (v.reverse = true → sh.up = true) →
    (sk ≠ sh.nextSk → completes (.blendEndTile a n []) s (fun b => b.killedWith (stRun a) 0x30 a.station (BitVec.ofNat 32 x) ∧ b.memKept s.b)) ∧
    (∀ sh1 m k, sk = sh.nextSk → Shingle.retireAll v (sh.held.filter (fun f => f.sk = sk)) { sh with held := sh.held.filter (fun f => f.sk ≠ sk) } 0 0 = some (sh1, m, k) →
      (v.reverse = false → completes (.blendEndTile a n []) s (fun b => b.stAt a = some { st with body := .blend { y with sh := y.sh.set x { sh1 with staged := [], nextSk := (sk + 1) % 65536 } }, active := workDone st.active n } ∧
        b.ctr (Map.splFragCnt (s.b.ownerField v.w x)) = s.b.ctr (Map.splFragCnt (s.b.ownerField v.w x)) + BitVec.ofNat 32 m ∧ b.ctr (Map.splSkipCnt (s.b.ownerField v.w x)) = s.b.ctr (Map.splSkipCnt (s.b.ownerField v.w x)) + BitVec.ofNat 32 k ∧
        b = { s.b with runs := b.runs, ctrs := b.ctrs, mem := b.mem } ∧ b.memKept s.b)) ∧
      (∀ j ed u, v.reverse = true → r.outEdge a.station 0 = some (j, ed) → s.b.canPush (stRun a) j ed → gradientTiles ed.entry.rows sh1.ovf sh1.unf sh1.staged = [u] → completes (.blendEndTile a n []) s (fun b =>
        b.edgeAt (stRun a) j = some (ed.plus u) ∧ b.stAt a = some { st with body := .blend { y with sh := y.sh.set x { sh1 with staged := [], nextSk := (sk + 1) % 65536, ovf := false, unf := false } }, active := workDone st.active n } ∧
        b = { s.b with runs := b.runs, ctrs := b.ctrs, mem := b.mem } ∧ b.memKept s.b)))) ∧
  (∀ (s : State) (a : StRef) (n : Nat) (r : Run) (st : Station) (i : Active) (y : BlendSt) (v : BlendPar) (t : Tile) (sh : Shingle), s.b.working a n = some (r, st, i) → st.body = .blend y → i.tile 1 = some t → v = blendPar st.params →
    v.reverse = true → st.portTurn 1 n = true → sh = y.shingle y.ups →
    (t.no ≠ y.ups → completes (.upstreamGradientTile a n []) s (fun b => b.killedWith (stRun a) 0x32 a.station (BitVec.ofNat 32 t.no) ∧ b.memKept s.b)) ∧
    (t.no = y.ups → y.ups < shCount v.w v.h → t.rows = 16 → t.cols = 64 → sh.loaded = true → (∀ f ∈ sh.held, f.sk ≠ sh.nextSk) → completes (.upstreamGradientTile a n []) s (fun b =>
      b.stAt a = some { st with body := .blend { y with ups := y.ups + 1, sh := y.sh.set y.ups { sh with up := true, px := sh.px.map (fun e => (e.1, e.2.take 5 ++ [wordAt t.data (4 * e.1), wordAt t.data (4 * e.1 + 1), wordAt t.data (4 * e.1 + 2), wordAt t.data (4 * e.1 + 3)] ++ e.2.drop 9)) } }, active := workDone st.active n } ∧ b = { s.b with runs := b.runs, ctrs := b.ctrs, mem := b.mem } ∧ b.memKept s.b))) ∧
  (∀ (s : State) (a : StRef) (r : Run) (st : Station) (y : BlendSt) (v : BlendPar), s.b.live a = some (r, st) → st.body = .blend y → v = blendPar st.params → y.done = false → st.portClosed 0 = true → (v.reverse = true → st.portClosed 1 = true) → st.idle = true → st.outbox = [] → y.inbound = [] →
    (∀ x sh, y.sh.filter (fun e => !e.2.held.isEmpty) = [(x, sh)] → completes (.blendFinish a []) s (fun b => b.killedWith (stRun a) 0x30 a.station (BitVec.ofNat 32 x) ∧ b.memKept s.b)) ∧
    (∀ j ed, (∀ e ∈ y.sh, e.2.held = []) → v.reverse = false → v.save = false → shCount v.w v.h = 1 → r.outEdge a.station 0 = some (j, ed) → s.b.canPush (stRun a) j ed → completes (.blendFinish a []) s (fun b =>
      b.edgeAt (stRun a) j = some (ed.plus ((y.shingle 0).image 0 true)) ∧ (b.stAt a).any (fun z => decide (z.body = .blend { y with done := true } ∧ z.finished = decide (st.made = st.completed))) = true ∧ b.memKept s.b)) ∧
    ((∀ e ∈ y.sh, e.2.held = []) → v.reverse = true → completes (.blendFinish a []) s (fun b => (b.stAt a).any (fun z => decide (z.body = .blend { y with done := true } ∧ z.finished = decide (st.made = st.completed))) = true ∧ b.memKept s.b)))

/-- PACK emits the next block of its image tile as a tile of one row, counts it, and ends the item with the fourth block. UNPACK turns four sound block tiles into one image tile and counts four; a block that does not decode kills with 0x32 and its tile_no. Whatever the 64 pixels of four words, the block that PACK codes decodes to exactly those words, and a coded block is at most 1,028 bytes. (R479, R480) -/
def Obligations.SplatPacks : Prop :=
  (∀ (s : State) (a : StRef) (n j : Nat) (r : Run) (st : Station) (x : Active) (t : Tile) (m : Kv Nat Nat) (ed : Edge) (c : List Byte × Bool), s.b.working a n = some (r, st, x) → st.body = .pack m → x.tile 0 = some t → packReverse st.params = false → st.turn n = true → st.outbox = [] →
    t.rows = 16 → t.cols = 64 → m.getD n 0 ≤ 3 → c = codeBlock (blockWords t.data (m.getD n 0)) → r.outEdge a.station 0 = some (j, ed) → s.b.canPush (stRun a) j ed →
    completes (.pack a n) s (fun b => b.edgeAt (stRun a) j = some (ed.plus { rowsTile c.1.length t.seq 0 [c.1] with ovf := t.ovf, unf := t.unf, last := t.last && decide (m.getD n 0 = 3) }) ∧
      (m.getD n 0 = 3 → b.stAt a = some { st with body := .pack (m.del n), active := workDone st.active n }) ∧ (m.getD n 0 ≠ 3 → b.stAt a = some { st with body := .pack (m.set n (m.getD n 0 + 1)) }) ∧
      b.ctr (Map.splPackCnt x.field) = s.b.ctr (Map.splPackCnt x.field) + 1#32 ∧ b.ctr (Map.splPackRaw x.field) = s.b.ctr (Map.splPackRaw x.field) + (if c.2 then 1#32 else 0#32) ∧
      b.ctrKept s.b [Map.splPackCnt x.field, Map.splPackRaw x.field] ∧ b = { s.b with runs := b.runs, ctrs := b.ctrs, mem := b.mem } ∧ b.memKept s.b)) ∧
  (∀ (s : State) (a : StRef) (n j : Nat) (r : Run) (st : Station) (x : Active) (m : Kv Nat Nat) (ed : Edge) (t0 t1 t2 t3 : Tile), s.b.working a n = some (r, st, x) → st.body = .pack m → packReverse st.params = true → st.turn n = true → st.outbox = [] →
    x.tile 0 = some t0 → x.tile 1 = some t1 → x.tile 2 = some t2 → x.tile 3 = some t3 →
    (∀ p0 p1 p2 p3, decodeBlock t0 = some p0 → decodeBlock t1 = some p1 → decodeBlock t2 = some p2 → decodeBlock t3 = some p3 → r.outEdge a.station 0 = some (j, ed) → s.b.canPush (stRun a) j ed →
      completes (.unpack a n) s (fun b => b.edgeAt (stRun a) j = some (ed.plus { fmt := ed.entry.fmt, ovf := t0.ovf || (t1.ovf || (t2.ovf || t3.ovf)), unf := t0.unf || (t1.unf || (t2.unf || t3.unf)), last := t0.last || (t1.last || (t2.last || t3.last)), flags := 0, rows := 16, cols := 64, no := 0, dbytes := (imageOf [p0.1, p1.1, p2.1, p3.1]).length, seq := t0.seq, data := imageOf [p0.1, p1.1, p2.1, p3.1] }) ∧
        b.stAt a = some { st with active := workDone st.active n } ∧ b.ctr (Map.splPackCnt x.field) = s.b.ctr (Map.splPackCnt x.field) + 4#32 ∧
        b.ctrKept s.b [Map.splPackCnt x.field, Map.splPackRaw x.field] ∧ b = { s.b with runs := b.runs, ctrs := b.ctrs, mem := b.mem } ∧ b.memKept s.b)) ∧
    (decodeBlock t0 = none → completes (.unpack a n) s (fun b => b.killedWith (stRun a) 0x32 a.station (BitVec.ofNat 32 t0.no) ∧ wbit (b.err (Map.splErr x.field)) 4 = true ∧ b.memKept s.b))) ∧
  (∀ (px : List (List Word)) (t : Tile), px.length = 64 → (∀ p ∈ px, p.length = 4) → t.data = (codeBlock px).1 → t.rows = 1 → t.cols = (codeBlock px).1.length → decodeBlock t = some (px, (codeBlock px).2) ∧ (codeBlock px).1.length ≤ 1028)

/-- An admitted group starts and its PHYs are isolated; a group whose time has run ends, with its report entry, a repaired bit recorded with SCR_ERR bit 1 and a failed unit out of service with SCR_ERR bit 0, as is one with a failing row beyond the spares of its array. Every 10 ms in OPEN the next unit of the order, or the one that UNIT names, begins to drain; once drained and admitted its test runs, and when it has passed the unit's arrays hold zeros, no run has changed and SCR_ROT_CNT counts; after 10 ms of waiting it is given up. A command without the key leaves RANGE and acts on nothing. UNIT, EAVE, BLOCK and BLOCK_D begin when the block is free for them, and rotation is paused and resumed at once. That rotation's commands end at once, and that UNIT in MAINTENANCE begins at once, are the model's choices (log entries 97 and 98). (R101, R483, R484, R485, R487, R488, R490, R491, R492, R493, R494, R497) -/
def Obligations.ScreenTests : Prop :=
  (∀ (s : State) (g t0 : Nat), s.b.group g = some (.admitted t0) → s.b.groupsRun = true → s.b.groupLoose g = true →
    completes (.screenGroupStart g) s (fun b => b.group g = some (.running t0) ∧ (∀ h, h ≠ g → b.group h = s.b.group h) ∧
      (g % 32 = 4 → g / 32 < s.b.seats.length → (b.seat (g / 32)).state = .training ∧ (b.seat (g / 32)).ops = []) ∧ (g % 32 = 5 → ∀ p ∈ portsOf (g / 32), (b.gable p).opened = false) ∧
      (g % 32 ≠ 4 → b.seats = s.b.seats) ∧ (g % 32 ≠ 5 → b.gables = s.b.gables) ∧
      b = { s.b with screen := { s.b.screen with groups := b.screen.groups }, seats := b.seats, gables := b.gables, mem := b.mem } ∧ b.memKept s.b)) ∧
  (∀ (s : State) (g spares t0 : Nat), s.b.group g = some (.running t0) → s.b.blockTest = none → s.b.start.state ≠ .stopped → g % 32 ≠ 4 → g % 32 ≠ 5 →
    (∀ found, s.b.now < t0 + groupCycles (g % 32) → completes (.screenGroupDone g spares found) s (fun b => b = { s.b with mem := b.mem } ∧ b.memKept s.b)) ∧
    (t0 + groupCycles (g % 32) ≤ s.b.now → completes (.screenGroupDone g spares []) s (fun b => b.group g = some (.ended s.b.now) ∧ (∀ h, h ≠ g → b.group h = s.b.group h) ∧ b.report g = reportEntry g 0 ((s.b.now - t0) / 200) 0 ∧
      (∀ h, h ≠ g → b.report h = s.b.report h) ∧ b.cal = { s.b.cal with steps := s.b.cal.steps.filter (fun c => c.kind ≠ .group g) } ∧
      b = { s.b with screen := { s.b.screen with groups := b.screen.groups, reports := b.screen.reports }, cal := b.cal, mem := b.mem } ∧ b.memKept s.b)) ∧
    (∀ x : Finding, t0 + groupCycles (g % 32) ≤ s.b.now → x.unit % 8 = g / 32 → (groupUnits (g / 32) (g % 32)).contains (x.unit / 8 % 32, x.unit / 256 % 256) = true → s.b.screen.records.length < 4096 → x.unit / 8 % 32 ≠ 17 →
      completes (.screenGroupDone g spares [x]) s (fun b => b.group g = some (.ended s.b.now) ∧ b.screen.records.length = s.b.screen.records.length + 1 ∧
        (x.kind = 0 → (s.b.screen.repaired.contains (x.unit % 65536, x.array % 256, x.v1.toNat) = true ∨ s.b.screen.repaired.countP (fun q => decide (q.1 = x.unit % 65536 ∧ q.2.1 = x.array % 256)) < spareRows (x.unit / 8 % 32)) →
          b.screen.out = s.b.screen.out ∧ wbit (b.err Map.scrErr) 1 = true ∧ b.report g = reportEntry g 1 ((s.b.now - t0) / 200) 0) ∧
        (x.kind = 0 → s.b.screen.repaired.contains (x.unit % 65536, x.array % 256, x.v1.toNat) = false → spareRows (x.unit / 8 % 32) ≤ s.b.screen.repaired.countP (fun q => decide (q.1 = x.unit % 65536 ∧ q.2.1 = x.array % 256)) →
          unitId (x.unit % 8) (x.unit / 8 % 32) (x.unit / 256 % 256) ∈ b.screen.out ∧ wbit (b.err Map.scrErr) 0 = true) ∧
        (x.kind ≠ 0 → unitId (x.unit % 8) (x.unit / 8 % 32) (x.unit / 256 % 256) ∈ b.screen.out ∧ wbit (b.err Map.scrErr) 0 = true ∧
          b.report g = reportEntry g 2 ((s.b.now - t0) / 200) (b.screen.out.length - s.b.screen.out.length)) ∧ b.runs = s.b.runs ∧ b.memKept s.b))) ∧
  (∀ (s : State) (u : Nat), s.b.start.state = .opened → s.b.screen.rotPause = false → s.b.cmdPauses = false → s.b.screen.rot = .idle → s.b.screen.rotAt + 2000000 ≤ s.b.now →
    (s.b.screen.unitNext = none → s.b.rotFrom s.b.screen.rotNext = some u → completes .rotationSlot s (fun b =>
      b.screen = { s.b.screen with rot := .waiting u s.b.now, rotAt := s.b.now, rotNext := rotAfter u } ∧ ((u / 8 % 32 ≠ 0 ∨ (s.b.core (72 * (u % 8) + u / 256)).launch = none) → ∀ c, b.core c = s.b.core c) ∧
      b = { s.b with screen := b.screen, cores := b.cores, mem := b.mem } ∧ b.memKept s.b)) ∧
    (s.b.screen.unitNext = some u → completes .rotationSlot s (fun b => b.screen = { s.b.screen with rot := .waiting u s.b.now, rotAt := s.b.now, unitNext := none } ∧
      b = { s.b with screen := b.screen, cores := b.cores, mem := b.mem } ∧ b.memKept s.b))) ∧
  (∀ (s : State) (u t0 : Nat), s.b.screen.rot = .waiting u t0 →
    (s.b.unitDrained u = true → s.b.cal.ramp = none → s.b.cal.withheld = 0 → u / 8 % 32 < 7 → completes .rotationTestStart s (fun b => b = { s.b with screen := { s.b.screen with rot := .running u s.b.now }, mem := b.mem } ∧ b.memKept s.b)) ∧
    (s.b.now < t0 + 2000000 → completes .testDeferTimeout s (fun b => b = { s.b with mem := b.mem } ∧ b.memKept s.b)) ∧
    (t0 + 2000000 ≤ s.b.now → s.b.screen.cmd ≠ .unit u → completes .testDeferTimeout s (fun b => b.screen = { s.b.screen with rot := .idle } ∧ b.ctr Map.scrRotGiveup = s.b.ctr Map.scrRotGiveup + 1#32 ∧
      wbit (b.err Map.scrErr) 2 = true ∧ wbit (b.err Map.calEvents) 4 = true ∧ (u / 8 % 32 = 0 → (b.core (72 * (u % 8) + u / 256)).withdraw = false) ∧ b.ctrKept s.b [Map.scrRotGiveup] ∧ b.errKept s.b [Map.scrErr, Map.calEvents] ∧
      b = { s.b with screen := b.screen, cores := b.cores, ctrs := b.ctrs, errs := b.errs, pins := b.pins, out := b.out, mem := b.mem } ∧ b.memKept s.b))) ∧
  (∀ (s : State) (u t0 : Nat), s.b.screen.rot = .running u t0 → t0 + rotCycles (u / 8 % 32) ≤ s.b.now → s.b.start.state ≠ .stopped → s.b.screen.cmd = .none → u / 8 % 32 < 7 →
    completes (.rotationTestDone []) s (fun b => b.screen = { s.b.screen with rot := .idle } ∧ b.ctr Map.scrRotCnt = s.b.ctr Map.scrRotCnt + 1#32 ∧ b.ctrKept s.b [Map.scrRotCnt] ∧
      (u / 8 % 32 = 0 → (b.core (72 * (u % 8) + u / 256)).windows = [] ∧ (b.core (72 * (u % 8) + u / 256)).lines = [] ∧ ∀ c, c ≠ 72 * (u % 8) + u / 256 → b.core c = s.b.core c) ∧
      (u / 8 % 32 = 1 → b.nodeCaches.get (18 * (u % 8) + u / 256) = none) ∧ b = { s.b with screen := b.screen, cores := b.cores, nodeCaches := b.nodeCaches, ctrs := b.ctrs, mem := b.mem } ∧ b.memKept s.b) ∧
    (∀ x : Finding, x.unit = u → x.kind ≠ 0 → s.b.screen.records.length < 4096 → completes (.rotationTestDone [x]) s (fun b => unitId (u % 8) (u / 8 % 32) (u / 256 % 256) ∈ b.screen.out ∧ b.screen.rot = .idle ∧ wbit (b.err Map.scrErr) 0 = true ∧
      b.ctr Map.scrRotCnt = s.b.ctr Map.scrRotCnt + 1#32))) ∧
  (∀ (s : State) (key : BitVec 16), s.b.pins.pwrGood = true → key ≠ 0x4B4C#16 → ∀ c ∈ [Instr.unit key, .eave key, .block key, .blockD key, .rotPause key, .rotResume key],
    completes c s (fun b => b = { s.b with screen := { s.b.screen with cmdStatus := BitVec.ofNat 32 (s.b.screen.cmdStatus.toNat / 256 * 256 + 0x04) }, mem := b.mem } ∧ b.memKept s.b)) ∧
  (∀ (s : State), s.b.pins.pwrGood = true → s.b.screen.cmd = .none → s.b.start.qTests = false →
    (∀ f c i, s.b.argUnit = some (f, c, i) → c < 7 → s.b.start.state = .opened → completes (.unit 0x4B4C#16) s (fun b =>
      b = { s.b with screen := { s.b.screen with cmd := .unit (wfield s.b.screen.cmdArg 0 16), unitNext := some (wfield s.b.screen.cmdArg 0 16), cmdStatus := 0#32 }, mem := b.mem } ∧ b.memKept s.b)) ∧
    (∀ f c i, s.b.argUnit = some (f, c, i) → c ≠ 7 → c ≠ 8 → c ≠ 0 → s.b.start.state = .maintenance → s.b.screen.rot = .idle → completes (.unit 0x4B4C#16) s (fun b =>
      b = { s.b with screen := { s.b.screen with cmd := .unit (wfield s.b.screen.cmdArg 0 16), rot := .waiting (wfield s.b.screen.cmdArg 0 16) s.b.now, cmdStatus := 0#32 }, mem := b.mem } ∧ b.memKept s.b)) ∧
    (∀ f i, s.b.argUnit = some (f, 8, i) → (s.b.eave (3 * f + i)).resetN = true → (s.b.start.state = .opened ∨ s.b.start.state = .maintenance) → completes (.eave 0x4B4C#16) s (fun b =>
      b.eave (3 * f + i) = { (s.b.eave (3 * f + i)) with testTodo := List.range 64 } ∧ b.eavesBut s.b (3 * f + i) ∧ b = { s.b with screen := { s.b.screen with cmd := .eave (3 * f + i), cmdStatus := 0#32 }, eaves := b.eaves, mem := b.mem } ∧ b.memKept s.b)) ∧
    ((s.b.start.state = .maintenance ∨ s.b.start.state = .quarantine) → s.b.screen.rot = .idle →
      completes (.block 0x4B4C#16) s (fun b => b = { s.b with screen := { s.b.screen with cmd := .block false, groups := [], cmdStatus := 0#32 }, mem := b.mem } ∧ b.memKept s.b) ∧
      completes (.blockD 0x4B4C#16) s (fun b => b = { s.b with screen := { s.b.screen with cmd := .block true, groups := [], cmdStatus := 0#32 }, mem := b.mem } ∧ b.memKept s.b)) ∧
    completes (.rotPause 0x4B4C#16) s (fun b => b = { s.b with screen := { s.b.screen with rotPause := true, cmdStatus := 0x100#32 }, mem := b.mem } ∧ b.memKept s.b) ∧
    completes (.rotResume 0x4B4C#16) s (fun b => b = { s.b with screen := { s.b.screen with rotPause := false, cmdStatus := 0x100#32 }, mem := b.mem } ∧ b.memKept s.b))
end

