-- ==== Sys2Proof/Laws/Memory.lean ====
section
/-! SUPPORT. Laws of memory: the canonical form is kept by every operation, a read gives what was written, and equal reads are equal data. -/
namespace Sys2Proof.Machine

/-- Every cell lies above `lo` and none reads as an unlisted address does. -/
theorem Mem.wfFrom_some_lt {lo : Nat} {m : Mem} (h : Mem.wfFrom (some lo) m = true) {a : Nat} (ha : a ≤ lo) : m.read a = unlisted := by
  induction m generalizing lo with
  | nil => rfl
  | cons c m ih =>
    obtain ⟨x, v⟩ := c
    simp only [Mem.wfFrom, Bool.and_eq_true, decide_eq_true_eq] at h
    have hx : x ≠ a := by omega
    simp only [Mem.read, if_neg hx]
    exact ih h.2 (by omega)

/-- A bound may be lowered. -/
theorem Mem.wfFrom_mono {lo lo' : Nat} {m : Mem} (hl : lo' ≤ lo) (h : Mem.wfFrom (some lo) m = true) : Mem.wfFrom (some lo') m = true := by
  cases m with
  | nil => rfl
  | cons c m =>
    simp only [Mem.wfFrom, Bool.and_eq_true, decide_eq_true_eq] at h ⊢
    exact ⟨⟨by omega, h.1.2⟩, h.2⟩

/-- A bound may be dropped. -/
theorem Mem.wfFrom_none {lo : Nat} {m : Mem} (h : Mem.wfFrom (some lo) m = true) : Mem.wfFrom none m = true := by
  cases m with
  | nil => rfl
  | cons c m =>
    simp only [Mem.wfFrom, Bool.and_eq_true, decide_eq_true_eq] at h ⊢
    exact ⟨h.1.2, h.2⟩

/-- A write above the bound keeps the cells rising above it. -/
theorem Mem.wfFrom_write {lo x : Nat} {m : Mem} {v : Byte} (hx : lo < x) (h : Mem.wfFrom (some lo) m = true) :
    Mem.wfFrom (some lo) (m.write x v) = true := by
  induction m generalizing lo with
  | nil =>
    by_cases hv : v = unlisted <;> simp [Mem.write, Mem.wfFrom, hv, hx]
  | cons c m ih =>
    obtain ⟨a, w⟩ := c
    have h' := h
    simp only [Mem.wfFrom, Bool.and_eq_true, decide_eq_true_eq, bne_iff_ne, ne_eq] at h
    obtain ⟨⟨hlo, hw⟩, hm⟩ := h
    by_cases h1 : x < a
    · by_cases hv : v = unlisted
      · simpa [Mem.write, h1, hv] using h'
      · simp [Mem.write, h1, hv, Mem.wfFrom, hx, hw, hm]
    · by_cases h2 : x = a
      · by_cases hv : v = unlisted
        · simpa [Mem.write, h2, hv] using Mem.wfFrom_mono (by omega) hm
        · simp [Mem.write, h2, hv, Mem.wfFrom, hlo, hm]
      · simp [Mem.write, h1, h2, Mem.wfFrom, hlo, hw, ih (by omega) hm]

/-- A write keeps the canonical form. -/
theorem Mem.wf_write {m : Mem} (x : Nat) (v : Byte) (h : m.wf = true) : (m.write x v).wf = true := by
  cases m with
  | nil => by_cases hv : v = unlisted <;> simp [Mem.write, Mem.wf, Mem.wfFrom, hv]
  | cons c m =>
    obtain ⟨a, w⟩ := c
    have h' := h
    simp only [Mem.wf, Mem.wfFrom, Bool.and_eq_true, bne_iff_ne, ne_eq] at h
    by_cases h1 : x < a
    · by_cases hv : v = unlisted
      · simpa [Mem.write, h1, hv] using h'
      · simp [Mem.write, h1, hv, Mem.wf, Mem.wfFrom, h.1, h.2]
    · by_cases h2 : x = a
      · by_cases hv : v = unlisted
        · simpa [Mem.write, h2, hv, Mem.wf] using Mem.wfFrom_none h.2
        · simp [Mem.write, h2, hv, Mem.wf, Mem.wfFrom, h.2]
      · simp [Mem.write, h1, h2, Mem.wf, Mem.wfFrom, h.1, Mem.wfFrom_write (show a < x by omega) h.2]

/-- Writes of several bytes keep the canonical form. -/
theorem Mem.wf_writeN {m : Mem} (a : Nat) (l : List Byte) (h : m.wf = true) : (m.writeN a l).wf = true := by
  induction l generalizing m a with
  | nil => exact h
  | cons v l ih => exact ih (a + 1) (Mem.wf_write a v h)

/-- Whatever the list, its canonical form is canonical. -/
@[simp] theorem Mem.wf_canon (m : Mem) : m.canon.wf = true := by
  induction m with
  | nil => rfl
  | cons c m ih => exact Mem.wf_write c.1 c.2 ih

/-- Dropping a range keeps the cells rising. -/
theorem Mem.wfFrom_filter (p : Nat × Byte → Bool) {lo : Nat} {m : Mem} (h : Mem.wfFrom (some lo) m = true) :
    Mem.wfFrom (some lo) (m.filter p) = true := by
  induction m generalizing lo with
  | nil => rfl
  | cons c m ih =>
    obtain ⟨a, w⟩ := c
    simp only [Mem.wfFrom, Bool.and_eq_true, decide_eq_true_eq] at h
    by_cases hp : p (a, w) = true
    · simp [List.filter, hp, Mem.wfFrom, h.1.1, ih h.2, bne_iff_ne.mp h.1.2]
    · simp only [List.filter, Bool.not_eq_true] at hp ⊢
      rw [hp]
      exact ih (Mem.wfFrom_mono (by omega) h.2)

/-- Dropping cells keeps the canonical form. -/
theorem Mem.wf_filter (p : Nat × Byte → Bool) {m : Mem} (h : m.wf = true) : Mem.wf (m.filter p) = true := by
  induction m with
  | nil => rfl
  | cons c m ih =>
    obtain ⟨a, w⟩ := c
    simp only [Mem.wf, Mem.wfFrom, Bool.and_eq_true, bne_iff_ne, ne_eq] at h
    by_cases hp : p (a, w) = true
    · simp [List.filter, hp, Mem.wf, Mem.wfFrom, h.1, Mem.wfFrom_filter p h.2]
    · simp only [List.filter, Bool.not_eq_true] at hp ⊢
      rw [hp]
      exact ih (Mem.wfFrom_none h.2)

/-- Clearing a range keeps the canonical form. -/
theorem Mem.wf_clear {m : Mem} (lo n : Nat) (h : m.wf = true) : (m.clear lo n).wf = true := Mem.wf_filter _ h

/-- A read of a canonical memory above a bound, after a write. -/
theorem Mem.read_write_from {lo : Nat} {m : Mem} (x : Nat) (v : Byte) (a : Nat) (h : Mem.wfFrom (some lo) m = true) :
    (m.write x v).read a = if a = x then v else m.read a := by
  induction m generalizing lo with
  | nil => by_cases hv : v = unlisted <;> by_cases ha : x = a <;> simp [Mem.write, Mem.read, hv, ha, eq_comm (a := a)]
  | cons c m ih =>
    obtain ⟨b, w⟩ := c
    have h' := h
    simp only [Mem.wfFrom, Bool.and_eq_true, decide_eq_true_eq, bne_iff_ne, ne_eq] at h
    obtain ⟨⟨hlo, hw⟩, hm⟩ := h
    by_cases h1 : x < b
    · have hn : Mem.read m x = unlisted := Mem.wfFrom_some_lt hm (by omega)
      have hbx : b ≠ x := by omega
      by_cases hv : v = unlisted
      · by_cases ha : a = x
        · subst ha; simp [Mem.write, h1, hv, Mem.read, hbx, hn]
        · simp [Mem.write, h1, hv, ha]
      · by_cases ha : a = x
        · subst ha; simp [Mem.write, h1, hv, Mem.read]
        · have : ¬ x = a := fun e => ha e.symm
          simp [Mem.write, h1, hv, ha, Mem.read, this]
    · by_cases h2 : x = b
      · subst h2
        have hn : Mem.read m x = unlisted := Mem.wfFrom_some_lt hm (Nat.le_refl _)
        by_cases hv : v = unlisted
        · by_cases ha : a = x
          · subst ha; simp [Mem.write, hv, hn]
          · have : ¬ x = a := fun e => ha e.symm
            simp [Mem.write, hv, ha, Mem.read, this]
        · by_cases ha : a = x
          · subst ha; simp [Mem.write, hv, Mem.read]
          · have : ¬ x = a := fun e => ha e.symm
            simp [Mem.write, hv, ha, Mem.read, this]
      · by_cases hb : b = a
        · subst hb
          have : ¬ b = x := fun e => h2 e.symm
          simp [Mem.write, h1, h2, Mem.read, this]
        · simp [Mem.write, h1, h2, Mem.read, hb, ih hm]

/-- What a canonical memory reads after a write: the byte written at its address, and every other byte as before. -/
theorem Mem.read_write {m : Mem} (x : Nat) (v : Byte) (a : Nat) (h : m.wf = true) :
    (m.write x v).read a = if a = x then v else m.read a := by
  cases m with
  | nil => by_cases hv : v = unlisted <;> by_cases ha : x = a <;> simp [Mem.write, Mem.read, hv, ha, eq_comm (a := a)]
  | cons c m =>
    obtain ⟨b, w⟩ := c
    simp only [Mem.wf, Mem.wfFrom, Bool.and_eq_true] at h
    cases b with
    | succ b =>
      exact Mem.read_write_from (lo := b) x v a (by simp [Mem.wfFrom, bne_iff_ne.mp h.1, h.2])
    | zero =>
      have hn : Mem.read m 0 = unlisted := Mem.wfFrom_some_lt h.2 (Nat.le_refl _)
      by_cases h2 : x = 0
      · subst h2
        by_cases hv : v = unlisted <;> by_cases ha : a = 0
        · subst ha; simp [Mem.write, hv, hn]
        · have : ¬ 0 = a := fun e => ha e.symm
          simp [Mem.write, hv, ha, Mem.read, this]
        · subst ha; simp [Mem.write, hv, Mem.read]
        · have : ¬ 0 = a := fun e => ha e.symm
          simp [Mem.write, hv, ha, Mem.read, this]
      · by_cases hb : 0 = a
        · subst hb
          have : ¬ 0 = x := fun e => h2 e.symm
          simp [Mem.write, h2, Mem.read, this]
        · simp [Mem.write, h2, Mem.read, hb, Mem.read_write_from x v a h.2]

/-- The canonical form reads as the list does. -/
@[simp] theorem Mem.read_canon (m : Mem) (a : Nat) : m.canon.read a = m.read a := by
  induction m with
  | nil => rfl
  | cons c m ih =>
    obtain ⟨b, v⟩ := c
    show (Mem.write (Mem.canon m) b v).read a = _
    rw [Mem.read_write b v a (Mem.wf_canon m)]
    by_cases h : a = b
    · simp [Mem.read, h]
    · have : ¬ b = a := fun e => h e.symm
      simp [Mem.read, h, this, ih]

/-- A cell below all others goes to the front. -/
theorem Mem.write_front {lo : Nat} {m : Mem} {v : Byte} (hv : v ≠ unlisted) (h : Mem.wfFrom (some lo) m = true) : m.write lo v = (lo, v) :: m := by
  cases m with
  | nil => simp [Mem.write, hv]
  | cons c m =>
    simp only [Mem.wfFrom, Bool.and_eq_true, decide_eq_true_eq] at h
    simp [Mem.write, h.1.1, hv]

/-- A canonical list is its own canonical form. -/
theorem Mem.canon_of_wf {m : Mem} (h : m.wf = true) : m.canon = m := by
  induction m with
  | nil => rfl
  | cons c m ih =>
    obtain ⟨a, v⟩ := c
    simp only [Mem.wf, Mem.wfFrom, Bool.and_eq_true, bne_iff_ne, ne_eq] at h
    show Mem.write (Mem.canon m) a v = _
    rw [ih (Mem.wfFrom_none h.2)]
    exact Mem.write_front h.1 h.2

/-- What a canonical memory reads after a write of several bytes. -/
theorem Mem.read_writeN {m : Mem} (a : Nat) (l : List Byte) (x : Nat) (h : m.wf = true) :
    (m.writeN a l).read x = if a ≤ x ∧ x < a + l.length then l.getD (x - a) unlisted else m.read x := by
  induction l generalizing m a with
  | nil => first | (simp [Mem.writeN]; done) | (simp [Mem.writeN]; intro _ _; omega)
  | cons v l ih =>
    simp only [Mem.writeN, ih (a + 1) (Mem.wf_write a v h), Mem.read_write a v x h, List.length_cons]
    by_cases hx : x = a
    · subst hx
      have h2 : ¬ (x + 1 ≤ x ∧ x < x + 1 + l.length) := by omega
      rw [if_neg h2]; simp
    · by_cases h1 : a ≤ x ∧ x < a + (l.length + 1)
      · have h2 : a + 1 ≤ x ∧ x < a + 1 + l.length := by omega
        rw [if_pos h2, if_pos h1]
        have : x - a = (x - (a + 1)) + 1 := by omega
        rw [this]; simp
      · have h2 : ¬ (a + 1 ≤ x ∧ x < a + 1 + l.length) := by omega
        rw [if_neg h2, if_neg h1, if_neg hx]

end Sys2Proof.Machine
end

