-- ==== Sys2Proof/Laws/Lift.lean ====
section
/-! SUPPORT. What `lift` answers, and that every command is the lift of an effect on the block. -/
namespace Sys2Proof.Machine

/-- A block in canonical form is its own canonical form. -/
theorem Block.canonMem_of_wf {b : Block} (h : b.mem.wf = true) : b.canonMem = b := by
  unfold Block.canonMem
  rw [Mem.canon_of_wf h]

@[simp] theorem Block.canonMem_byteAt (b : Block) (a : Nat) : b.canonMem.byteAt a = b.byteAt a := Mem.read_canon b.mem a
@[simp] theorem Block.canonMem_wf (b : Block) : b.canonMem.mem.wf = true := Mem.wf_canon b.mem
@[simp] theorem Block.canonMem_now (b : Block) : b.canonMem.now = b.now := rfl
@[simp] theorem Block.canonMem_free (b : Block) : b.canonMem.free = b.free := rfl
@[simp] theorem Block.canonMem_pins (b : Block) : b.canonMem.pins = b.pins := rfl
@[simp] theorem Block.canonMem_cal (b : Block) : b.canonMem.cal = b.cal := rfl
@[simp] theorem Block.canonMem_start (b : Block) : b.canonMem.start = b.start := rfl
@[simp] theorem Block.canonMem_screen (b : Block) : b.canonMem.screen = b.screen := rfl
@[simp] theorem Block.canonMem_tel (b : Block) : b.canonMem.tel = b.tel := rfl
@[simp] theorem Block.canonMem_ctrs (b : Block) : b.canonMem.ctrs = b.ctrs := rfl
@[simp] theorem Block.canonMem_errs (b : Block) : b.canonMem.errs = b.errs := rfl
@[simp] theorem Block.canonMem_lasts (b : Block) : b.canonMem.lasts = b.lasts := rfl
@[simp] theorem Block.canonMem_seats (b : Block) : b.canonMem.seats = b.seats := rfl
@[simp] theorem Block.canonMem_gables (b : Block) : b.canonMem.gables = b.gables := rfl
@[simp] theorem Block.canonMem_inq (b : Block) : b.canonMem.inq = b.inq := rfl
@[simp] theorem Block.canonMem_streams (b : Block) : b.canonMem.streams = b.streams := rfl
@[simp] theorem Block.canonMem_reads (b : Block) : b.canonMem.reads = b.reads := rfl
@[simp] theorem Block.canonMem_runs (b : Block) : b.canonMem.runs = b.runs := rfl
@[simp] theorem Block.canonMem_ended (b : Block) : b.canonMem.ended = b.ended := rfl
@[simp] theorem Block.canonMem_runOrder (b : Block) : b.canonMem.runOrder = b.runOrder := rfl
@[simp] theorem Block.canonMem_ridge (b : Block) : b.canonMem.ridge = b.ridge := rfl
@[simp] theorem Block.canonMem_cores (b : Block) : b.canonMem.cores = b.cores := rfl
@[simp] theorem Block.canonMem_nodeCaches (b : Block) : b.canonMem.nodeCaches = b.nodeCaches := rfl
@[simp] theorem Block.canonMem_vat (b : Block) : b.canonMem.vat = b.vat := rfl
@[simp] theorem Block.canonMem_eaves (b : Block) : b.canonMem.eaves = b.eaves := rfl
@[simp] theorem Block.canonMem_poison (b : Block) : b.canonMem.poison = b.poison := rfl
@[simp] theorem Block.canonMem_feltBad (b : Block) : b.canonMem.feltBad = b.feltBad := rfl
@[simp] theorem Block.canonMem_out (b : Block) : b.canonMem.out = b.out := rfl

/-- An effect that keeps memory canonical is answered as it stands. -/
theorem lift_canon (s : State) (f : Block → Block) (h : (f s.b).mem.wf = true) : lift s f = .next { s with b := f s.b } := by
  unfold lift
  rw [Block.canonMem_of_wf h]

/-- A lifted effect completes with whatever holds of its block in canonical memory. -/
theorem lift_post (s : State) (f : Block → Block) (post : Block → Prop) (h : post (f s.b).canonMem) :
    ∃ t, lift s f = .next t ∧ t.pending = s.pending ∧ post t.b :=
  ⟨_, rfl, rfl, h⟩

/-- Every command is the lift of one effect on the block, the same for every queue. -/
theorem exec_lift (c : Instr) : ∃ f : Block → Block, ∀ s, exec c s = lift s f := by
  cases c <;> simp only [exec] <;> exact ⟨_, fun _ => rfl⟩

/-- Memory is in canonical form after every command. -/
theorem exec_memSound {c : Instr} {s t : State} (h : exec c s = .next t) : t.memSound := by
  obtain ⟨f, hf⟩ := exec_lift c
  rw [hf s] at h
  cases h
  exact Mem.wf_canon _

/-- Memory that a command leaves alone reads as before. -/
theorem Block.memKept_canonMem {b old : Block} (h : b.mem = old.mem) : b.canonMem.memKept old := by
  intro a
  simp [Block.byteAt, Block.canonMem, h]

end Sys2Proof.Machine
end

