-- ==== Sys2Proof/Laws/State.lean ====
section
/-! SUPPORT. Each update of the block field by field: the one field it changes, and every field it leaves. -/
namespace Sys2Proof.Machine

/-! ### bump -/
@[simp] theorem Block.bump_now (b : Block) (a n : Nat) : (b.bump a n).now = b.now := rfl
@[simp] theorem Block.bump_free (b : Block) (a n : Nat) : (b.bump a n).free = b.free := rfl
@[simp] theorem Block.bump_pins (b : Block) (a n : Nat) : (b.bump a n).pins = b.pins := rfl
@[simp] theorem Block.bump_cal (b : Block) (a n : Nat) : (b.bump a n).cal = b.cal := rfl
@[simp] theorem Block.bump_start (b : Block) (a n : Nat) : (b.bump a n).start = b.start := rfl
@[simp] theorem Block.bump_screen (b : Block) (a n : Nat) : (b.bump a n).screen = b.screen := rfl
@[simp] theorem Block.bump_tel (b : Block) (a n : Nat) : (b.bump a n).tel = b.tel := rfl
@[simp] theorem Block.bump_errs (b : Block) (a n : Nat) : (b.bump a n).errs = b.errs := rfl
@[simp] theorem Block.bump_lasts (b : Block) (a n : Nat) : (b.bump a n).lasts = b.lasts := rfl
@[simp] theorem Block.bump_seats (b : Block) (a n : Nat) : (b.bump a n).seats = b.seats := rfl
@[simp] theorem Block.bump_gables (b : Block) (a n : Nat) : (b.bump a n).gables = b.gables := rfl
@[simp] theorem Block.bump_inq (b : Block) (a n : Nat) : (b.bump a n).inq = b.inq := rfl
@[simp] theorem Block.bump_streams (b : Block) (a n : Nat) : (b.bump a n).streams = b.streams := rfl
@[simp] theorem Block.bump_reads (b : Block) (a n : Nat) : (b.bump a n).reads = b.reads := rfl
@[simp] theorem Block.bump_runs (b : Block) (a n : Nat) : (b.bump a n).runs = b.runs := rfl
@[simp] theorem Block.bump_ended (b : Block) (a n : Nat) : (b.bump a n).ended = b.ended := rfl
@[simp] theorem Block.bump_runOrder (b : Block) (a n : Nat) : (b.bump a n).runOrder = b.runOrder := rfl
@[simp] theorem Block.bump_ridge (b : Block) (a n : Nat) : (b.bump a n).ridge = b.ridge := rfl
@[simp] theorem Block.bump_cores (b : Block) (a n : Nat) : (b.bump a n).cores = b.cores := rfl
@[simp] theorem Block.bump_nodeCaches (b : Block) (a n : Nat) : (b.bump a n).nodeCaches = b.nodeCaches := rfl
@[simp] theorem Block.bump_vat (b : Block) (a n : Nat) : (b.bump a n).vat = b.vat := rfl
@[simp] theorem Block.bump_eaves (b : Block) (a n : Nat) : (b.bump a n).eaves = b.eaves := rfl
@[simp] theorem Block.bump_mem (b : Block) (a n : Nat) : (b.bump a n).mem = b.mem := rfl
@[simp] theorem Block.bump_poison (b : Block) (a n : Nat) : (b.bump a n).poison = b.poison := rfl
@[simp] theorem Block.bump_feltBad (b : Block) (a n : Nat) : (b.bump a n).feltBad = b.feltBad := rfl
@[simp] theorem Block.bump_out (b : Block) (a n : Nat) : (b.bump a n).out = b.out := rfl

/-! ### bumpMax -/
@[simp] theorem Block.bumpMax_now (b : Block) (a n : Nat) : (b.bumpMax a n).now = b.now := rfl
@[simp] theorem Block.bumpMax_free (b : Block) (a n : Nat) : (b.bumpMax a n).free = b.free := rfl
@[simp] theorem Block.bumpMax_pins (b : Block) (a n : Nat) : (b.bumpMax a n).pins = b.pins := rfl
@[simp] theorem Block.bumpMax_cal (b : Block) (a n : Nat) : (b.bumpMax a n).cal = b.cal := rfl
@[simp] theorem Block.bumpMax_start (b : Block) (a n : Nat) : (b.bumpMax a n).start = b.start := rfl
@[simp] theorem Block.bumpMax_screen (b : Block) (a n : Nat) : (b.bumpMax a n).screen = b.screen := rfl
@[simp] theorem Block.bumpMax_tel (b : Block) (a n : Nat) : (b.bumpMax a n).tel = b.tel := rfl
@[simp] theorem Block.bumpMax_errs (b : Block) (a n : Nat) : (b.bumpMax a n).errs = b.errs := rfl
@[simp] theorem Block.bumpMax_lasts (b : Block) (a n : Nat) : (b.bumpMax a n).lasts = b.lasts := rfl
@[simp] theorem Block.bumpMax_seats (b : Block) (a n : Nat) : (b.bumpMax a n).seats = b.seats := rfl
@[simp] theorem Block.bumpMax_gables (b : Block) (a n : Nat) : (b.bumpMax a n).gables = b.gables := rfl
@[simp] theorem Block.bumpMax_inq (b : Block) (a n : Nat) : (b.bumpMax a n).inq = b.inq := rfl
@[simp] theorem Block.bumpMax_streams (b : Block) (a n : Nat) : (b.bumpMax a n).streams = b.streams := rfl
@[simp] theorem Block.bumpMax_reads (b : Block) (a n : Nat) : (b.bumpMax a n).reads = b.reads := rfl
@[simp] theorem Block.bumpMax_runs (b : Block) (a n : Nat) : (b.bumpMax a n).runs = b.runs := rfl
@[simp] theorem Block.bumpMax_ended (b : Block) (a n : Nat) : (b.bumpMax a n).ended = b.ended := rfl
@[simp] theorem Block.bumpMax_runOrder (b : Block) (a n : Nat) : (b.bumpMax a n).runOrder = b.runOrder := rfl
@[simp] theorem Block.bumpMax_ridge (b : Block) (a n : Nat) : (b.bumpMax a n).ridge = b.ridge := rfl
@[simp] theorem Block.bumpMax_cores (b : Block) (a n : Nat) : (b.bumpMax a n).cores = b.cores := rfl
@[simp] theorem Block.bumpMax_nodeCaches (b : Block) (a n : Nat) : (b.bumpMax a n).nodeCaches = b.nodeCaches := rfl
@[simp] theorem Block.bumpMax_vat (b : Block) (a n : Nat) : (b.bumpMax a n).vat = b.vat := rfl
@[simp] theorem Block.bumpMax_eaves (b : Block) (a n : Nat) : (b.bumpMax a n).eaves = b.eaves := rfl
@[simp] theorem Block.bumpMax_mem (b : Block) (a n : Nat) : (b.bumpMax a n).mem = b.mem := rfl
@[simp] theorem Block.bumpMax_poison (b : Block) (a n : Nat) : (b.bumpMax a n).poison = b.poison := rfl
@[simp] theorem Block.bumpMax_feltBad (b : Block) (a n : Nat) : (b.bumpMax a n).feltBad = b.feltBad := rfl
@[simp] theorem Block.bumpMax_out (b : Block) (a n : Nat) : (b.bumpMax a n).out = b.out := rfl

/-! ### setLast -/
@[simp] theorem Block.setLast_now (b : Block) (a : Nat) (w : Word) : (b.setLast a w).now = b.now := rfl
@[simp] theorem Block.setLast_free (b : Block) (a : Nat) (w : Word) : (b.setLast a w).free = b.free := rfl
@[simp] theorem Block.setLast_pins (b : Block) (a : Nat) (w : Word) : (b.setLast a w).pins = b.pins := rfl
@[simp] theorem Block.setLast_cal (b : Block) (a : Nat) (w : Word) : (b.setLast a w).cal = b.cal := rfl
@[simp] theorem Block.setLast_start (b : Block) (a : Nat) (w : Word) : (b.setLast a w).start = b.start := rfl
@[simp] theorem Block.setLast_screen (b : Block) (a : Nat) (w : Word) : (b.setLast a w).screen = b.screen := rfl
@[simp] theorem Block.setLast_tel (b : Block) (a : Nat) (w : Word) : (b.setLast a w).tel = b.tel := rfl
@[simp] theorem Block.setLast_ctrs (b : Block) (a : Nat) (w : Word) : (b.setLast a w).ctrs = b.ctrs := rfl
@[simp] theorem Block.setLast_errs (b : Block) (a : Nat) (w : Word) : (b.setLast a w).errs = b.errs := rfl
@[simp] theorem Block.setLast_lasts (b : Block) (a : Nat) (w : Word) : (b.setLast a w).lasts = b.lasts.set a w := rfl
@[simp] theorem Block.setLast_seats (b : Block) (a : Nat) (w : Word) : (b.setLast a w).seats = b.seats := rfl
@[simp] theorem Block.setLast_gables (b : Block) (a : Nat) (w : Word) : (b.setLast a w).gables = b.gables := rfl
@[simp] theorem Block.setLast_inq (b : Block) (a : Nat) (w : Word) : (b.setLast a w).inq = b.inq := rfl
@[simp] theorem Block.setLast_streams (b : Block) (a : Nat) (w : Word) : (b.setLast a w).streams = b.streams := rfl
@[simp] theorem Block.setLast_reads (b : Block) (a : Nat) (w : Word) : (b.setLast a w).reads = b.reads := rfl
@[simp] theorem Block.setLast_runs (b : Block) (a : Nat) (w : Word) : (b.setLast a w).runs = b.runs := rfl
@[simp] theorem Block.setLast_ended (b : Block) (a : Nat) (w : Word) : (b.setLast a w).ended = b.ended := rfl
@[simp] theorem Block.setLast_runOrder (b : Block) (a : Nat) (w : Word) : (b.setLast a w).runOrder = b.runOrder := rfl
@[simp] theorem Block.setLast_ridge (b : Block) (a : Nat) (w : Word) : (b.setLast a w).ridge = b.ridge := rfl
@[simp] theorem Block.setLast_cores (b : Block) (a : Nat) (w : Word) : (b.setLast a w).cores = b.cores := rfl
@[simp] theorem Block.setLast_nodeCaches (b : Block) (a : Nat) (w : Word) : (b.setLast a w).nodeCaches = b.nodeCaches := rfl
@[simp] theorem Block.setLast_vat (b : Block) (a : Nat) (w : Word) : (b.setLast a w).vat = b.vat := rfl
@[simp] theorem Block.setLast_eaves (b : Block) (a : Nat) (w : Word) : (b.setLast a w).eaves = b.eaves := rfl
@[simp] theorem Block.setLast_mem (b : Block) (a : Nat) (w : Word) : (b.setLast a w).mem = b.mem := rfl
@[simp] theorem Block.setLast_poison (b : Block) (a : Nat) (w : Word) : (b.setLast a w).poison = b.poison := rfl
@[simp] theorem Block.setLast_feltBad (b : Block) (a : Nat) (w : Word) : (b.setLast a w).feltBad = b.feltBad := rfl
@[simp] theorem Block.setLast_out (b : Block) (a : Nat) (w : Word) : (b.setLast a w).out = b.out := rfl

/-! ### emitOut -/
@[simp] theorem Block.emitOut_now (b : Block) (o : Out) : (b.emitOut o).now = b.now := rfl
@[simp] theorem Block.emitOut_free (b : Block) (o : Out) : (b.emitOut o).free = b.free := rfl
@[simp] theorem Block.emitOut_pins (b : Block) (o : Out) : (b.emitOut o).pins = b.pins := rfl
@[simp] theorem Block.emitOut_cal (b : Block) (o : Out) : (b.emitOut o).cal = b.cal := rfl
@[simp] theorem Block.emitOut_start (b : Block) (o : Out) : (b.emitOut o).start = b.start := rfl
@[simp] theorem Block.emitOut_screen (b : Block) (o : Out) : (b.emitOut o).screen = b.screen := rfl
@[simp] theorem Block.emitOut_tel (b : Block) (o : Out) : (b.emitOut o).tel = b.tel := rfl
@[simp] theorem Block.emitOut_ctrs (b : Block) (o : Out) : (b.emitOut o).ctrs = b.ctrs := rfl
@[simp] theorem Block.emitOut_errs (b : Block) (o : Out) : (b.emitOut o).errs = b.errs := rfl
@[simp] theorem Block.emitOut_lasts (b : Block) (o : Out) : (b.emitOut o).lasts = b.lasts := rfl
@[simp] theorem Block.emitOut_seats (b : Block) (o : Out) : (b.emitOut o).seats = b.seats := rfl
@[simp] theorem Block.emitOut_gables (b : Block) (o : Out) : (b.emitOut o).gables = b.gables := rfl
@[simp] theorem Block.emitOut_inq (b : Block) (o : Out) : (b.emitOut o).inq = b.inq := rfl
@[simp] theorem Block.emitOut_streams (b : Block) (o : Out) : (b.emitOut o).streams = b.streams := rfl
@[simp] theorem Block.emitOut_reads (b : Block) (o : Out) : (b.emitOut o).reads = b.reads := rfl
@[simp] theorem Block.emitOut_runs (b : Block) (o : Out) : (b.emitOut o).runs = b.runs := rfl
@[simp] theorem Block.emitOut_ended (b : Block) (o : Out) : (b.emitOut o).ended = b.ended := rfl
@[simp] theorem Block.emitOut_runOrder (b : Block) (o : Out) : (b.emitOut o).runOrder = b.runOrder := rfl
@[simp] theorem Block.emitOut_ridge (b : Block) (o : Out) : (b.emitOut o).ridge = b.ridge := rfl
@[simp] theorem Block.emitOut_cores (b : Block) (o : Out) : (b.emitOut o).cores = b.cores := rfl
@[simp] theorem Block.emitOut_nodeCaches (b : Block) (o : Out) : (b.emitOut o).nodeCaches = b.nodeCaches := rfl
@[simp] theorem Block.emitOut_vat (b : Block) (o : Out) : (b.emitOut o).vat = b.vat := rfl
@[simp] theorem Block.emitOut_eaves (b : Block) (o : Out) : (b.emitOut o).eaves = b.eaves := rfl
@[simp] theorem Block.emitOut_mem (b : Block) (o : Out) : (b.emitOut o).mem = b.mem := rfl
@[simp] theorem Block.emitOut_poison (b : Block) (o : Out) : (b.emitOut o).poison = b.poison := rfl
@[simp] theorem Block.emitOut_feltBad (b : Block) (o : Out) : (b.emitOut o).feltBad = b.feltBad := rfl
@[simp] theorem Block.emitOut_out (b : Block) (o : Out) : (b.emitOut o).out = b.out ++ [o] := rfl

/-! ### modSeat -/
@[simp] theorem Block.modSeat_now (b : Block) (n : Nat) (f : Seat → Seat) : (b.modSeat n f).now = b.now := rfl
@[simp] theorem Block.modSeat_free (b : Block) (n : Nat) (f : Seat → Seat) : (b.modSeat n f).free = b.free := rfl
@[simp] theorem Block.modSeat_pins (b : Block) (n : Nat) (f : Seat → Seat) : (b.modSeat n f).pins = b.pins := rfl
@[simp] theorem Block.modSeat_cal (b : Block) (n : Nat) (f : Seat → Seat) : (b.modSeat n f).cal = b.cal := rfl
@[simp] theorem Block.modSeat_start (b : Block) (n : Nat) (f : Seat → Seat) : (b.modSeat n f).start = b.start := rfl
@[simp] theorem Block.modSeat_screen (b : Block) (n : Nat) (f : Seat → Seat) : (b.modSeat n f).screen = b.screen := rfl
@[simp] theorem Block.modSeat_tel (b : Block) (n : Nat) (f : Seat → Seat) : (b.modSeat n f).tel = b.tel := rfl
@[simp] theorem Block.modSeat_ctrs (b : Block) (n : Nat) (f : Seat → Seat) : (b.modSeat n f).ctrs = b.ctrs := rfl
@[simp] theorem Block.modSeat_errs (b : Block) (n : Nat) (f : Seat → Seat) : (b.modSeat n f).errs = b.errs := rfl
@[simp] theorem Block.modSeat_lasts (b : Block) (n : Nat) (f : Seat → Seat) : (b.modSeat n f).lasts = b.lasts := rfl
@[simp] theorem Block.modSeat_seats (b : Block) (n : Nat) (f : Seat → Seat) : (b.modSeat n f).seats = modAt b.seats n f := rfl
@[simp] theorem Block.modSeat_gables (b : Block) (n : Nat) (f : Seat → Seat) : (b.modSeat n f).gables = b.gables := rfl
@[simp] theorem Block.modSeat_inq (b : Block) (n : Nat) (f : Seat → Seat) : (b.modSeat n f).inq = b.inq := rfl
@[simp] theorem Block.modSeat_streams (b : Block) (n : Nat) (f : Seat → Seat) : (b.modSeat n f).streams = b.streams := rfl
@[simp] theorem Block.modSeat_reads (b : Block) (n : Nat) (f : Seat → Seat) : (b.modSeat n f).reads = b.reads := rfl
@[simp] theorem Block.modSeat_runs (b : Block) (n : Nat) (f : Seat → Seat) : (b.modSeat n f).runs = b.runs := rfl
@[simp] theorem Block.modSeat_ended (b : Block) (n : Nat) (f : Seat → Seat) : (b.modSeat n f).ended = b.ended := rfl
@[simp] theorem Block.modSeat_runOrder (b : Block) (n : Nat) (f : Seat → Seat) : (b.modSeat n f).runOrder = b.runOrder := rfl
@[simp] theorem Block.modSeat_ridge (b : Block) (n : Nat) (f : Seat → Seat) : (b.modSeat n f).ridge = b.ridge := rfl
@[simp] theorem Block.modSeat_cores (b : Block) (n : Nat) (f : Seat → Seat) : (b.modSeat n f).cores = b.cores := rfl
@[simp] theorem Block.modSeat_nodeCaches (b : Block) (n : Nat) (f : Seat → Seat) : (b.modSeat n f).nodeCaches = b.nodeCaches := rfl
@[simp] theorem Block.modSeat_vat (b : Block) (n : Nat) (f : Seat → Seat) : (b.modSeat n f).vat = b.vat := rfl
@[simp] theorem Block.modSeat_eaves (b : Block) (n : Nat) (f : Seat → Seat) : (b.modSeat n f).eaves = b.eaves := rfl
@[simp] theorem Block.modSeat_mem (b : Block) (n : Nat) (f : Seat → Seat) : (b.modSeat n f).mem = b.mem := rfl
@[simp] theorem Block.modSeat_poison (b : Block) (n : Nat) (f : Seat → Seat) : (b.modSeat n f).poison = b.poison := rfl
@[simp] theorem Block.modSeat_feltBad (b : Block) (n : Nat) (f : Seat → Seat) : (b.modSeat n f).feltBad = b.feltBad := rfl
@[simp] theorem Block.modSeat_out (b : Block) (n : Nat) (f : Seat → Seat) : (b.modSeat n f).out = b.out := rfl

/-! ### modGable -/
@[simp] theorem Block.modGable_now (b : Block) (p : Nat) (f : Gable → Gable) : (b.modGable p f).now = b.now := rfl
@[simp] theorem Block.modGable_free (b : Block) (p : Nat) (f : Gable → Gable) : (b.modGable p f).free = b.free := rfl
@[simp] theorem Block.modGable_pins (b : Block) (p : Nat) (f : Gable → Gable) : (b.modGable p f).pins = b.pins := rfl
@[simp] theorem Block.modGable_cal (b : Block) (p : Nat) (f : Gable → Gable) : (b.modGable p f).cal = b.cal := rfl
@[simp] theorem Block.modGable_start (b : Block) (p : Nat) (f : Gable → Gable) : (b.modGable p f).start = b.start := rfl
@[simp] theorem Block.modGable_screen (b : Block) (p : Nat) (f : Gable → Gable) : (b.modGable p f).screen = b.screen := rfl
@[simp] theorem Block.modGable_tel (b : Block) (p : Nat) (f : Gable → Gable) : (b.modGable p f).tel = b.tel := rfl
@[simp] theorem Block.modGable_ctrs (b : Block) (p : Nat) (f : Gable → Gable) : (b.modGable p f).ctrs = b.ctrs := rfl
@[simp] theorem Block.modGable_errs (b : Block) (p : Nat) (f : Gable → Gable) : (b.modGable p f).errs = b.errs := rfl
@[simp] theorem Block.modGable_lasts (b : Block) (p : Nat) (f : Gable → Gable) : (b.modGable p f).lasts = b.lasts := rfl
@[simp] theorem Block.modGable_seats (b : Block) (p : Nat) (f : Gable → Gable) : (b.modGable p f).seats = b.seats := rfl
@[simp] theorem Block.modGable_gables (b : Block) (p : Nat) (f : Gable → Gable) : (b.modGable p f).gables = modAt b.gables p f := rfl
@[simp] theorem Block.modGable_inq (b : Block) (p : Nat) (f : Gable → Gable) : (b.modGable p f).inq = b.inq := rfl
@[simp] theorem Block.modGable_streams (b : Block) (p : Nat) (f : Gable → Gable) : (b.modGable p f).streams = b.streams := rfl
@[simp] theorem Block.modGable_reads (b : Block) (p : Nat) (f : Gable → Gable) : (b.modGable p f).reads = b.reads := rfl
@[simp] theorem Block.modGable_runs (b : Block) (p : Nat) (f : Gable → Gable) : (b.modGable p f).runs = b.runs := rfl
@[simp] theorem Block.modGable_ended (b : Block) (p : Nat) (f : Gable → Gable) : (b.modGable p f).ended = b.ended := rfl
@[simp] theorem Block.modGable_runOrder (b : Block) (p : Nat) (f : Gable → Gable) : (b.modGable p f).runOrder = b.runOrder := rfl
@[simp] theorem Block.modGable_ridge (b : Block) (p : Nat) (f : Gable → Gable) : (b.modGable p f).ridge = b.ridge := rfl
@[simp] theorem Block.modGable_cores (b : Block) (p : Nat) (f : Gable → Gable) : (b.modGable p f).cores = b.cores := rfl
@[simp] theorem Block.modGable_nodeCaches (b : Block) (p : Nat) (f : Gable → Gable) : (b.modGable p f).nodeCaches = b.nodeCaches := rfl
@[simp] theorem Block.modGable_vat (b : Block) (p : Nat) (f : Gable → Gable) : (b.modGable p f).vat = b.vat := rfl
@[simp] theorem Block.modGable_eaves (b : Block) (p : Nat) (f : Gable → Gable) : (b.modGable p f).eaves = b.eaves := rfl
@[simp] theorem Block.modGable_mem (b : Block) (p : Nat) (f : Gable → Gable) : (b.modGable p f).mem = b.mem := rfl
@[simp] theorem Block.modGable_poison (b : Block) (p : Nat) (f : Gable → Gable) : (b.modGable p f).poison = b.poison := rfl
@[simp] theorem Block.modGable_feltBad (b : Block) (p : Nat) (f : Gable → Gable) : (b.modGable p f).feltBad = b.feltBad := rfl
@[simp] theorem Block.modGable_out (b : Block) (p : Nat) (f : Gable → Gable) : (b.modGable p f).out = b.out := rfl

/-! ### modEave -/
@[simp] theorem Block.modEave_now (b : Block) (k : Nat) (f : Eave → Eave) : (b.modEave k f).now = b.now := rfl
@[simp] theorem Block.modEave_free (b : Block) (k : Nat) (f : Eave → Eave) : (b.modEave k f).free = b.free := rfl
@[simp] theorem Block.modEave_pins (b : Block) (k : Nat) (f : Eave → Eave) : (b.modEave k f).pins = b.pins := rfl
@[simp] theorem Block.modEave_cal (b : Block) (k : Nat) (f : Eave → Eave) : (b.modEave k f).cal = b.cal := rfl
@[simp] theorem Block.modEave_start (b : Block) (k : Nat) (f : Eave → Eave) : (b.modEave k f).start = b.start := rfl
@[simp] theorem Block.modEave_screen (b : Block) (k : Nat) (f : Eave → Eave) : (b.modEave k f).screen = b.screen := rfl
@[simp] theorem Block.modEave_tel (b : Block) (k : Nat) (f : Eave → Eave) : (b.modEave k f).tel = b.tel := rfl
@[simp] theorem Block.modEave_ctrs (b : Block) (k : Nat) (f : Eave → Eave) : (b.modEave k f).ctrs = b.ctrs := rfl
@[simp] theorem Block.modEave_errs (b : Block) (k : Nat) (f : Eave → Eave) : (b.modEave k f).errs = b.errs := rfl
@[simp] theorem Block.modEave_lasts (b : Block) (k : Nat) (f : Eave → Eave) : (b.modEave k f).lasts = b.lasts := rfl
@[simp] theorem Block.modEave_seats (b : Block) (k : Nat) (f : Eave → Eave) : (b.modEave k f).seats = b.seats := rfl
@[simp] theorem Block.modEave_gables (b : Block) (k : Nat) (f : Eave → Eave) : (b.modEave k f).gables = b.gables := rfl
@[simp] theorem Block.modEave_inq (b : Block) (k : Nat) (f : Eave → Eave) : (b.modEave k f).inq = b.inq := rfl
@[simp] theorem Block.modEave_streams (b : Block) (k : Nat) (f : Eave → Eave) : (b.modEave k f).streams = b.streams := rfl
@[simp] theorem Block.modEave_reads (b : Block) (k : Nat) (f : Eave → Eave) : (b.modEave k f).reads = b.reads := rfl
@[simp] theorem Block.modEave_runs (b : Block) (k : Nat) (f : Eave → Eave) : (b.modEave k f).runs = b.runs := rfl
@[simp] theorem Block.modEave_ended (b : Block) (k : Nat) (f : Eave → Eave) : (b.modEave k f).ended = b.ended := rfl
@[simp] theorem Block.modEave_runOrder (b : Block) (k : Nat) (f : Eave → Eave) : (b.modEave k f).runOrder = b.runOrder := rfl
@[simp] theorem Block.modEave_ridge (b : Block) (k : Nat) (f : Eave → Eave) : (b.modEave k f).ridge = b.ridge := rfl
@[simp] theorem Block.modEave_cores (b : Block) (k : Nat) (f : Eave → Eave) : (b.modEave k f).cores = b.cores := rfl
@[simp] theorem Block.modEave_nodeCaches (b : Block) (k : Nat) (f : Eave → Eave) : (b.modEave k f).nodeCaches = b.nodeCaches := rfl
@[simp] theorem Block.modEave_vat (b : Block) (k : Nat) (f : Eave → Eave) : (b.modEave k f).vat = b.vat := rfl
@[simp] theorem Block.modEave_eaves (b : Block) (k : Nat) (f : Eave → Eave) : (b.modEave k f).eaves = modAt b.eaves k f := rfl
@[simp] theorem Block.modEave_mem (b : Block) (k : Nat) (f : Eave → Eave) : (b.modEave k f).mem = b.mem := rfl
@[simp] theorem Block.modEave_poison (b : Block) (k : Nat) (f : Eave → Eave) : (b.modEave k f).poison = b.poison := rfl
@[simp] theorem Block.modEave_feltBad (b : Block) (k : Nat) (f : Eave → Eave) : (b.modEave k f).feltBad = b.feltBad := rfl
@[simp] theorem Block.modEave_out (b : Block) (k : Nat) (f : Eave → Eave) : (b.modEave k f).out = b.out := rfl

/-! ### modStrm -/
@[simp] theorem Block.modStrm_now (b : Block) (t s : Nat) (f : Stream → Stream) : (b.modStrm t s f).now = b.now := rfl
@[simp] theorem Block.modStrm_free (b : Block) (t s : Nat) (f : Stream → Stream) : (b.modStrm t s f).free = b.free := rfl
@[simp] theorem Block.modStrm_pins (b : Block) (t s : Nat) (f : Stream → Stream) : (b.modStrm t s f).pins = b.pins := rfl
@[simp] theorem Block.modStrm_cal (b : Block) (t s : Nat) (f : Stream → Stream) : (b.modStrm t s f).cal = b.cal := rfl
@[simp] theorem Block.modStrm_start (b : Block) (t s : Nat) (f : Stream → Stream) : (b.modStrm t s f).start = b.start := rfl
@[simp] theorem Block.modStrm_screen (b : Block) (t s : Nat) (f : Stream → Stream) : (b.modStrm t s f).screen = b.screen := rfl
@[simp] theorem Block.modStrm_tel (b : Block) (t s : Nat) (f : Stream → Stream) : (b.modStrm t s f).tel = b.tel := rfl
@[simp] theorem Block.modStrm_ctrs (b : Block) (t s : Nat) (f : Stream → Stream) : (b.modStrm t s f).ctrs = b.ctrs := rfl
@[simp] theorem Block.modStrm_errs (b : Block) (t s : Nat) (f : Stream → Stream) : (b.modStrm t s f).errs = b.errs := rfl
@[simp] theorem Block.modStrm_lasts (b : Block) (t s : Nat) (f : Stream → Stream) : (b.modStrm t s f).lasts = b.lasts := rfl
@[simp] theorem Block.modStrm_seats (b : Block) (t s : Nat) (f : Stream → Stream) : (b.modStrm t s f).seats = b.seats := rfl
@[simp] theorem Block.modStrm_gables (b : Block) (t s : Nat) (f : Stream → Stream) : (b.modStrm t s f).gables = b.gables := rfl
@[simp] theorem Block.modStrm_inq (b : Block) (t s : Nat) (f : Stream → Stream) : (b.modStrm t s f).inq = b.inq := rfl
@[simp] theorem Block.modStrm_streams (b : Block) (t s : Nat) (f : Stream → Stream) : (b.modStrm t s f).streams = b.streams.set (t, s) (f (b.strm t s)) := rfl
@[simp] theorem Block.modStrm_reads (b : Block) (t s : Nat) (f : Stream → Stream) : (b.modStrm t s f).reads = b.reads := rfl
@[simp] theorem Block.modStrm_runs (b : Block) (t s : Nat) (f : Stream → Stream) : (b.modStrm t s f).runs = b.runs := rfl
@[simp] theorem Block.modStrm_ended (b : Block) (t s : Nat) (f : Stream → Stream) : (b.modStrm t s f).ended = b.ended := rfl
@[simp] theorem Block.modStrm_runOrder (b : Block) (t s : Nat) (f : Stream → Stream) : (b.modStrm t s f).runOrder = b.runOrder := rfl
@[simp] theorem Block.modStrm_ridge (b : Block) (t s : Nat) (f : Stream → Stream) : (b.modStrm t s f).ridge = b.ridge := rfl
@[simp] theorem Block.modStrm_cores (b : Block) (t s : Nat) (f : Stream → Stream) : (b.modStrm t s f).cores = b.cores := rfl
@[simp] theorem Block.modStrm_nodeCaches (b : Block) (t s : Nat) (f : Stream → Stream) : (b.modStrm t s f).nodeCaches = b.nodeCaches := rfl
@[simp] theorem Block.modStrm_vat (b : Block) (t s : Nat) (f : Stream → Stream) : (b.modStrm t s f).vat = b.vat := rfl
@[simp] theorem Block.modStrm_eaves (b : Block) (t s : Nat) (f : Stream → Stream) : (b.modStrm t s f).eaves = b.eaves := rfl
@[simp] theorem Block.modStrm_mem (b : Block) (t s : Nat) (f : Stream → Stream) : (b.modStrm t s f).mem = b.mem := rfl
@[simp] theorem Block.modStrm_poison (b : Block) (t s : Nat) (f : Stream → Stream) : (b.modStrm t s f).poison = b.poison := rfl
@[simp] theorem Block.modStrm_feltBad (b : Block) (t s : Nat) (f : Stream → Stream) : (b.modStrm t s f).feltBad = b.feltBad := rfl
@[simp] theorem Block.modStrm_out (b : Block) (t s : Nat) (f : Stream → Stream) : (b.modStrm t s f).out = b.out := rfl

/-! ### modCore -/
@[simp] theorem Block.modCore_now (b : Block) (c : Nat) (f : LCore → LCore) : (b.modCore c f).now = b.now := rfl
@[simp] theorem Block.modCore_free (b : Block) (c : Nat) (f : LCore → LCore) : (b.modCore c f).free = b.free := rfl
@[simp] theorem Block.modCore_pins (b : Block) (c : Nat) (f : LCore → LCore) : (b.modCore c f).pins = b.pins := rfl
@[simp] theorem Block.modCore_cal (b : Block) (c : Nat) (f : LCore → LCore) : (b.modCore c f).cal = b.cal := rfl
@[simp] theorem Block.modCore_start (b : Block) (c : Nat) (f : LCore → LCore) : (b.modCore c f).start = b.start := rfl
@[simp] theorem Block.modCore_screen (b : Block) (c : Nat) (f : LCore → LCore) : (b.modCore c f).screen = b.screen := rfl
@[simp] theorem Block.modCore_tel (b : Block) (c : Nat) (f : LCore → LCore) : (b.modCore c f).tel = b.tel := rfl
@[simp] theorem Block.modCore_ctrs (b : Block) (c : Nat) (f : LCore → LCore) : (b.modCore c f).ctrs = b.ctrs := rfl
@[simp] theorem Block.modCore_errs (b : Block) (c : Nat) (f : LCore → LCore) : (b.modCore c f).errs = b.errs := rfl
@[simp] theorem Block.modCore_lasts (b : Block) (c : Nat) (f : LCore → LCore) : (b.modCore c f).lasts = b.lasts := rfl
@[simp] theorem Block.modCore_seats (b : Block) (c : Nat) (f : LCore → LCore) : (b.modCore c f).seats = b.seats := rfl
@[simp] theorem Block.modCore_gables (b : Block) (c : Nat) (f : LCore → LCore) : (b.modCore c f).gables = b.gables := rfl
@[simp] theorem Block.modCore_inq (b : Block) (c : Nat) (f : LCore → LCore) : (b.modCore c f).inq = b.inq := rfl
@[simp] theorem Block.modCore_streams (b : Block) (c : Nat) (f : LCore → LCore) : (b.modCore c f).streams = b.streams := rfl
@[simp] theorem Block.modCore_reads (b : Block) (c : Nat) (f : LCore → LCore) : (b.modCore c f).reads = b.reads := rfl
@[simp] theorem Block.modCore_runs (b : Block) (c : Nat) (f : LCore → LCore) : (b.modCore c f).runs = b.runs := rfl
@[simp] theorem Block.modCore_ended (b : Block) (c : Nat) (f : LCore → LCore) : (b.modCore c f).ended = b.ended := rfl
@[simp] theorem Block.modCore_runOrder (b : Block) (c : Nat) (f : LCore → LCore) : (b.modCore c f).runOrder = b.runOrder := rfl
@[simp] theorem Block.modCore_ridge (b : Block) (c : Nat) (f : LCore → LCore) : (b.modCore c f).ridge = b.ridge := rfl
@[simp] theorem Block.modCore_cores (b : Block) (c : Nat) (f : LCore → LCore) : (b.modCore c f).cores = b.cores.set c (f (b.core c)) := rfl
@[simp] theorem Block.modCore_nodeCaches (b : Block) (c : Nat) (f : LCore → LCore) : (b.modCore c f).nodeCaches = b.nodeCaches := rfl
@[simp] theorem Block.modCore_vat (b : Block) (c : Nat) (f : LCore → LCore) : (b.modCore c f).vat = b.vat := rfl
@[simp] theorem Block.modCore_eaves (b : Block) (c : Nat) (f : LCore → LCore) : (b.modCore c f).eaves = b.eaves := rfl
@[simp] theorem Block.modCore_mem (b : Block) (c : Nat) (f : LCore → LCore) : (b.modCore c f).mem = b.mem := rfl
@[simp] theorem Block.modCore_poison (b : Block) (c : Nat) (f : LCore → LCore) : (b.modCore c f).poison = b.poison := rfl
@[simp] theorem Block.modCore_feltBad (b : Block) (c : Nat) (f : LCore → LCore) : (b.modCore c f).feltBad = b.feltBad := rfl
@[simp] theorem Block.modCore_out (b : Block) (c : Nat) (f : LCore → LCore) : (b.modCore c f).out = b.out := rfl

/-! ### modRun -/
@[simp] theorem Block.modRun_now (b : Block) (r : RunRef) (f : Run → Run) : (b.modRun r f).now = b.now := rfl
@[simp] theorem Block.modRun_free (b : Block) (r : RunRef) (f : Run → Run) : (b.modRun r f).free = b.free := rfl
@[simp] theorem Block.modRun_pins (b : Block) (r : RunRef) (f : Run → Run) : (b.modRun r f).pins = b.pins := rfl
@[simp] theorem Block.modRun_cal (b : Block) (r : RunRef) (f : Run → Run) : (b.modRun r f).cal = b.cal := rfl
@[simp] theorem Block.modRun_start (b : Block) (r : RunRef) (f : Run → Run) : (b.modRun r f).start = b.start := rfl
@[simp] theorem Block.modRun_screen (b : Block) (r : RunRef) (f : Run → Run) : (b.modRun r f).screen = b.screen := rfl
@[simp] theorem Block.modRun_tel (b : Block) (r : RunRef) (f : Run → Run) : (b.modRun r f).tel = b.tel := rfl
@[simp] theorem Block.modRun_ctrs (b : Block) (r : RunRef) (f : Run → Run) : (b.modRun r f).ctrs = b.ctrs := rfl
@[simp] theorem Block.modRun_errs (b : Block) (r : RunRef) (f : Run → Run) : (b.modRun r f).errs = b.errs := rfl
@[simp] theorem Block.modRun_lasts (b : Block) (r : RunRef) (f : Run → Run) : (b.modRun r f).lasts = b.lasts := rfl
@[simp] theorem Block.modRun_seats (b : Block) (r : RunRef) (f : Run → Run) : (b.modRun r f).seats = b.seats := rfl
@[simp] theorem Block.modRun_gables (b : Block) (r : RunRef) (f : Run → Run) : (b.modRun r f).gables = b.gables := rfl
@[simp] theorem Block.modRun_inq (b : Block) (r : RunRef) (f : Run → Run) : (b.modRun r f).inq = b.inq := rfl
@[simp] theorem Block.modRun_streams (b : Block) (r : RunRef) (f : Run → Run) : (b.modRun r f).streams = b.streams := rfl
@[simp] theorem Block.modRun_reads (b : Block) (r : RunRef) (f : Run → Run) : (b.modRun r f).reads = b.reads := rfl
@[simp] theorem Block.modRun_runs (b : Block) (r : RunRef) (f : Run → Run) : (b.modRun r f).runs = b.runs.map (fun x => if x.ref = r then f x else x) := rfl
@[simp] theorem Block.modRun_ended (b : Block) (r : RunRef) (f : Run → Run) : (b.modRun r f).ended = b.ended := rfl
@[simp] theorem Block.modRun_runOrder (b : Block) (r : RunRef) (f : Run → Run) : (b.modRun r f).runOrder = b.runOrder := rfl
@[simp] theorem Block.modRun_ridge (b : Block) (r : RunRef) (f : Run → Run) : (b.modRun r f).ridge = b.ridge := rfl
@[simp] theorem Block.modRun_cores (b : Block) (r : RunRef) (f : Run → Run) : (b.modRun r f).cores = b.cores := rfl
@[simp] theorem Block.modRun_nodeCaches (b : Block) (r : RunRef) (f : Run → Run) : (b.modRun r f).nodeCaches = b.nodeCaches := rfl
@[simp] theorem Block.modRun_vat (b : Block) (r : RunRef) (f : Run → Run) : (b.modRun r f).vat = b.vat := rfl
@[simp] theorem Block.modRun_eaves (b : Block) (r : RunRef) (f : Run → Run) : (b.modRun r f).eaves = b.eaves := rfl
@[simp] theorem Block.modRun_mem (b : Block) (r : RunRef) (f : Run → Run) : (b.modRun r f).mem = b.mem := rfl
@[simp] theorem Block.modRun_poison (b : Block) (r : RunRef) (f : Run → Run) : (b.modRun r f).poison = b.poison := rfl
@[simp] theorem Block.modRun_feltBad (b : Block) (r : RunRef) (f : Run → Run) : (b.modRun r f).feltBad = b.feltBad := rfl
@[simp] theorem Block.modRun_out (b : Block) (r : RunRef) (f : Run → Run) : (b.modRun r f).out = b.out := rfl

end Sys2Proof.Machine
end

