-- ==== Sys2Proof/Laws/Ops.lean ====
section
/-! SUPPORT. What each shared operation can do, once: tables and lists, counters and error registers, answers and events, kills and stops. -/
namespace Sys2Proof.Machine

/-! ## Tables and lists -/

section
variable {κ ν : Type} [DecidableEq κ]

/-- A table reads what was last set at a key. -/
@[simp] theorem Kv.get_set_self (m : Kv κ ν) (k : κ) (v : ν) : Kv.get (Kv.set m k v) k = some v := by
  induction m with
  | nil => simp [Kv.set, Kv.get]
  | cons c m ih =>
    obtain ⟨a, w⟩ := c
    by_cases h : a = k
    · simp [Kv.set, Kv.get, h]
    · simpa [Kv.set, Kv.get, h] using ih

/-- Setting one key leaves the others. -/
theorem Kv.get_set_ne (m : Kv κ ν) {k x : κ} (v : ν) (h : k ≠ x) : Kv.get (Kv.set m k v) x = Kv.get m x := by
  induction m with
  | nil => simp [Kv.set, Kv.get, h]
  | cons c m ih =>
    obtain ⟨a, w⟩ := c
    by_cases ha : a = k
    · have hx : a ≠ x := fun e => h (ha.symm.trans e)
      simp [Kv.set, Kv.get, ha, h]
    · by_cases hx : a = x
      · subst hx
        simp [Kv.set, Kv.get, ha]
      · simpa [Kv.set, Kv.get, ha, hx] using ih

@[simp] theorem Kv.getD_set_self (m : Kv κ ν) (k : κ) (v d : ν) : Kv.getD (Kv.set m k v) k d = v := by simp [Kv.getD]
theorem Kv.getD_set_ne (m : Kv κ ν) {k x : κ} (v d : ν) (h : k ≠ x) : Kv.getD (Kv.set m k v) x d = Kv.getD m x d := by
  simp [Kv.getD, Kv.get_set_ne m v h]

/-- A deleted key has no entry. -/
@[simp] theorem Kv.get_del_self (m : Kv κ ν) (k : κ) : Kv.get (Kv.del m k) k = none := by
  induction m with
  | nil => rfl
  | cons c m ih =>
    obtain ⟨a, w⟩ := c
    by_cases h : a = k
    · simpa [Kv.del, h] using ih
    · simpa [Kv.del, Kv.get, h] using ih

/-- Deleting one key leaves the others. -/
theorem Kv.get_del_ne (m : Kv κ ν) {k x : κ} (h : k ≠ x) : Kv.get (Kv.del m k) x = Kv.get m x := by
  induction m with
  | nil => rfl
  | cons c m ih =>
    obtain ⟨a, w⟩ := c
    by_cases ha : a = k
    · have hx : a ≠ x := fun e => h (ha.symm.trans e)
      simpa [Kv.del, Kv.get, ha, h] using ih
    · by_cases hx : a = x
      · subst hx
        simp [Kv.del, Kv.get, ha]
      · simpa [Kv.del, Kv.get, ha, hx] using ih

end

section
variable {α : Type}

@[simp] theorem modAt_length (l : List α) (n : Nat) (f : α → α) : (modAt l n f).length = l.length := by
  induction l generalizing n with
  | nil => rfl
  | cons a l ih => cases n <;> simp [modAt, ih]

/-- The element that `modAt` changes. -/
theorem modAt_getD_self (l : List α) (n : Nat) (f : α → α) (d : α) (h : n < l.length) : (modAt l n f).getD n d = f (l.getD n d) := by
  induction l generalizing n with
  | nil => exact absurd h (Nat.not_lt_zero n)
  | cons a l ih =>
    cases n with
    | zero => rfl
    | succ n => simpa [modAt] using ih n (by simpa using h)

/-- The elements that `modAt` leaves. -/
theorem modAt_getD_ne (l : List α) {n m : Nat} (f : α → α) (d : α) (h : n ≠ m) : (modAt l n f).getD m d = l.getD m d := by
  induction l generalizing n m with
  | nil => rfl
  | cons a l ih =>
    cases n with
    | zero => cases m with
      | zero => exact absurd rfl h
      | succ m => rfl
    | succ n => cases m with
      | zero => rfl
      | succ m => simpa [modAt] using ih (n := n) (m := m) (fun e => h (congrArg _ e))

end

theorem Block.seat_modSeat_self (b : Block) (n : Nat) (f : Seat → Seat) (h : n < b.seats.length) : (b.modSeat n f).seat n = f (b.seat n) :=
  modAt_getD_self b.seats n f _ h
theorem Block.seat_modSeat_ne (b : Block) {n m : Nat} (f : Seat → Seat) (h : n ≠ m) : (b.modSeat n f).seat m = b.seat m :=
  modAt_getD_ne b.seats f _ h
theorem Block.gable_modGable_self (b : Block) (p : Nat) (f : Gable → Gable) (h : p < b.gables.length) : (b.modGable p f).gable p = f (b.gable p) :=
  modAt_getD_self b.gables p f _ h
theorem Block.gable_modGable_ne (b : Block) {p q : Nat} (f : Gable → Gable) (h : p ≠ q) : (b.modGable p f).gable q = b.gable q :=
  modAt_getD_ne b.gables f _ h
theorem Block.eave_modEave_self (b : Block) (k : Nat) (f : Eave → Eave) (h : k < b.eaves.length) : (b.modEave k f).eave k = f (b.eave k) :=
  modAt_getD_self b.eaves k f _ h
theorem Block.eave_modEave_ne (b : Block) {k j : Nat} (f : Eave → Eave) (h : k ≠ j) : (b.modEave k f).eave j = b.eave j :=
  modAt_getD_ne b.eaves f _ h
@[simp] theorem Block.strm_modStrm_self (b : Block) (t s : Nat) (f : Stream → Stream) : (b.modStrm t s f).strm t s = f (b.strm t s) := by
  simp [Block.modStrm, Block.strm]
theorem Block.strm_modStrm_ne (b : Block) {t s u v : Nat} (f : Stream → Stream) (h : (t, s) ≠ (u, v)) : (b.modStrm t s f).strm u v = b.strm u v := by
  simp [Block.modStrm, Block.strm, Kv.getD_set_ne _ _ _ h]
@[simp] theorem Block.core_modCore_self (b : Block) (c : Nat) (f : LCore → LCore) : (b.modCore c f).core c = f (b.core c) := by
  simp [Block.modCore, Block.core]
theorem Block.core_modCore_ne (b : Block) {c d : Nat} (f : LCore → LCore) (h : c ≠ d) : (b.modCore c f).core d = b.core d := by
  simp [Block.modCore, Block.core, Kv.getD_set_ne _ _ _ h]

/-! ## Counters, error registers and alerts -/

/-- A counter that counts `n` events. -/
@[simp] theorem Block.ctr_bump_self (b : Block) (a n : Nat) : (b.bump a n).ctr a = b.ctr a + BitVec.ofNat 32 n := by simp [Block.bump, Block.ctr]
/-- The counters that another's events leave. -/
theorem Block.ctr_bump_ne (b : Block) {a c : Nat} (n : Nat) (h : a ≠ c) : (b.bump a n).ctr c = b.ctr c := by simp [Block.bump, Block.ctr, Kv.getD_set_ne _ _ _ h]

/-- All that an alert can do. -/
theorem Block.alert_eq (b : Block) : ∃ p o, b.alert = { b with pins := { b.pins with mgAlertN := p }, out := o } := by
  unfold Block.alert
  split <;> exact ⟨_, _, rfl⟩

/-- All that the rise of summary bits can do. -/
theorem Block.alertRise_eq (b : Block) (w : Word) : ∃ p o, b.alertRise w = { b with pins := { b.pins with mgAlertN := p }, out := o } := by
  unfold Block.alertRise
  split
  · exact ⟨_, _, rfl⟩
  · exact b.alert_eq

/-- All that setting bits of an error register can do. -/
theorem Block.setErr_eq (b : Block) (a : Nat) (m : Word) :
    ∃ p o, b.setErr a m = { b with errs := b.errs.set a (b.err a ||| m), pins := { b.pins with mgAlertN := p }, out := o } := by
  unfold Block.setErr
  split
  · exact Block.alert_eq { b with errs := b.errs.set a (b.err a ||| m) }
  · exact Block.alertRise_eq { b with errs := b.errs.set a (b.err a ||| m) } b.errSum

/-- The register whose bits an event sets. -/
@[simp] theorem Block.err_setErr_self (b : Block) (a : Nat) (m : Word) : (b.setErr a m).err a = b.err a ||| m := by
  obtain ⟨p, o, h⟩ := b.setErr_eq a m
  rw [h]
  simp [Block.err]

/-- The error registers that the event leaves. -/
theorem Block.err_setErr_ne (b : Block) {a c : Nat} (m : Word) (h : a ≠ c) : (b.setErr a m).err c = b.err c := by
  obtain ⟨p, o, hb⟩ := b.setErr_eq a m
  rw [hb]
  simp [Block.err, Kv.getD_set_ne _ _ _ h]

/-! ## Answers and events -/

/-- All that the sender of a seat link can do. -/
theorem Block.pumpSeat_eq (b : Block) (n : Nat) : ∃ ss cs o, b.pumpSeat n = { b with seats := ss, ctrs := cs, out := o } := by
  simp only [Block.pumpSeat]
  split
  · split <;> exact ⟨_, _, _, rfl⟩
  · exact ⟨_, _, _, rfl⟩

/-- All that a packet to a seat can do. -/
theorem Block.seatSend_eq (b : Block) (n : Nat) (p : SeatOut) : ∃ ss cs o, b.seatSend n p = { b with seats := ss, ctrs := cs, out := o } := by
  unfold Block.seatSend
  split
  · exact Block.pumpSeat_eq (b.modSeat n (fun s => { s with outq := s.outq ++ [p] })) n
  · exact ⟨_, _, _, rfl⟩

/-- All that an entry of a response ring can do. -/
theorem Block.ringSend_eq (b : Block) (p : Nat) (l : List Byte) (e : Bool) (r : Option (Nat × Word)) :
    ∃ gs o, b.ringSend p l e r = { b with gables := gs, out := o } := ⟨_, _, rfl⟩

/-- All that a record to a source can do. -/
theorem Block.sendRecord_eq (b : Block) (src : Nat) (ws : List Word) (e : Bool) :
    ∃ ss gs cs o, b.sendRecord src ws e = { b with seats := ss, gables := gs, ctrs := cs, out := o } := by
  unfold Block.sendRecord
  split
  · obtain ⟨ss, cs, o, h⟩ := b.seatSend_eq src { kind := 5, hdr := mkHdr 5 (ceilDiv (mkPacket 0x43 false false 0 0 0#32 0 [] (wordsBytes ws)).length 16) 0 0 0 0 0, data := padTo 16 (mkPacket 0x43 false false 0 0 0#32 0 [] (wordsBytes ws)), cells := 1 + ceilDiv (mkPacket 0x43 false false 0 0 0#32 0 [] (wordsBytes ws)).length 16, sent := 0, run := none }
    exact ⟨ss, _, cs, o, h⟩
  · exact ⟨_, _, _, _, rfl⟩

/-- All that an event record to a source can do. -/
theorem Block.sendEvent_eq (b : Block) (src code cause : Nat) (h : Word) (d : List Word) :
    ∃ ss gs cs o, b.sendEvent src code cause h d = { b with seats := ss, gables := gs, ctrs := cs, out := o } := b.sendRecord_eq _ _ _

/-- All that an event record to a tenant can do. -/
theorem Block.tenantEvent_eq (b : Block) (t code : Nat) (d : List Word) :
    ∃ ss gs cs o, b.tenantEvent t code d = { b with seats := ss, gables := gs, ctrs := cs, out := o } := by
  unfold Block.tenantEvent
  split
  · exact b.sendEvent_eq _ _ _ _ _
  · exact ⟨_, _, _, _, rfl⟩

/-- All that counting a status can do. -/
theorem Block.countStatus_eq (b : Block) (src status : Nat) :
    ∃ cs es p o, b.countStatus src status = { b with ctrs := cs, errs := es, pins := { b.pins with mgAlertN := p }, out := o } := by
  unfold Block.countStatus Block.setErrBit
  split
  · obtain ⟨p, o, h⟩ := (b.bump Map.flsRangeCnt 1).setErr_eq (Map.flsSrcErr src) (BitVec.ofNat 32 (2 ^ 0))
    exact ⟨_, _, p, o, h⟩
  · split
    · obtain ⟨p, o, h⟩ := (b.bump Map.flsRangeCnt 1).setErr_eq (Map.flsSrcErr src) (BitVec.ofNat 32 (2 ^ 2))
      exact ⟨_, _, p, o, h⟩
    · split
      · obtain ⟨p, o, h⟩ := (b.bump Map.flsSeqCnt 1).setErr_eq (Map.flsSrcErr src) (BitVec.ofNat 32 (2 ^ 1))
        exact ⟨_, _, p, o, h⟩
      · exact ⟨_, _, _, _, rfl⟩

/-- All that the answer to a packet can do. -/
theorem Block.answer_eq (b : Block) (p : Pkt) (status : Nat) (r0 r1 : Word) (d : Nat) :
    ∃ ss gs cs es a o, b.answer p status r0 r1 d = { b with seats := ss, gables := gs, ctrs := cs, errs := es, pins := { b.pins with mgAlertN := a }, out := o } := by
  obtain ⟨cs, es, a, o, h⟩ := b.countStatus_eq p.src status
  unfold Block.answer
  simp only [h]
  split
  · exact ⟨_, _, _, _, _, _, rfl⟩
  · obtain ⟨ss, gs, cs', o', h'⟩ := Block.sendRecord_eq { b with ctrs := cs, errs := es, pins := { b.pins with mgAlertN := a }, out := o } p.src (completionWords p status r0 r1 d b.recTime) false
    exact ⟨ss, gs, cs', es, a, o', h'⟩

/-- All that the completion of a packet can do. -/
theorem Block.complete_eq (b : Block) (t : Nat) (p : Pkt) (status : Nat) (r0 r1 : Word) (d : Nat) :
    ∃ ss gs ms cs es a o, b.complete t p status r0 r1 d =
      { b with seats := ss, gables := gs, streams := ms, ctrs := cs, errs := es, pins := { b.pins with mgAlertN := a }, out := o } := by
  obtain ⟨ss, gs, cs, es, a, o, h⟩ := Block.answer_eq (b.modStrm t p.stream (fun s => { s with live := dropLive p.nums s.live })) p status r0 r1 d
  exact ⟨ss, gs, _, cs, es, a, o, h⟩

/-! ## Kills and stops -/

/-- All that a kill of a run can do. -/
theorem Block.killRun_eq (b : Block) (r : RunRef) (cause station : Nat) (d : Word) :
    ∃ rs g ss, b.killRun r cause station d = { b with runs := rs, ridge := g, seats := ss } := by
  unfold Block.killRun Block.killOrd
  split
  · exact ⟨_, _, _, rfl⟩
  · simp only []
    split
    · split <;> exact ⟨_, _, _, rfl⟩
    · exact ⟨_, _, _, rfl⟩

/-- What every abrupt stop leaves. -/
theorem Block.abruptStop_leaves (b : Block) (x : BlockState) :
    (b.abruptStop x).start.state = x ∧ (b.abruptStop x).start.phase = 0 ∧ (b.abruptStop x).cal.ramp.isSome = true ∧ (b.abruptStop x).runs = [] ∧
    (b.abruptStop x).streams = [] ∧ (b.abruptStop x).inq = [] ∧ (b.abruptStop x).reads = [] ∧ (b.abruptStop x).cores = [] ∧
    (b.abruptStop x).screen.records = b.screen.records ∧ (b.abruptStop x).pins = { b.pins with flTri := flashReleased x b.pins.flReleaseN } ∧ (b.abruptStop x).tel = b.tel ∧ (b.abruptStop x).mem = b.mem := by
  simp only [Block.abruptStop, Block.setState]
  split <;> and_intros <;> first | trivial | rfl | assumption

/-- What a block-fatal error leaves (R506, R507). -/
theorem Block.fatal_leaves (b : Block) (code d : Nat) :
    (b.fatal code d).start.state = .stopped ∧ (b.fatal code d).pins.faultN = false ∧ (b.fatal code d).runs = [] ∧ (b.fatal code d).cal.ramp.isSome = true := by
  have h := Block.abruptStop_leaves (Block.alertRise (if (wbit b.tel.fatalCause 16 && !(b.tel.fatalAt = b.now && decide (code < wfield b.tel.fatalCause 0 8))) = true then b else
    { b with tel := { b.tel with fatalCause := BitVec.ofNat 32 (code + 256 * d + 65536), fatalTime := b.mgmtTime, fatalAt := b.now } }) b.errSum) .stopped
  exact ⟨h.1, rfl, h.2.2.2.1, h.2.2.1⟩

end Sys2Proof.Machine
end

