-- ==== Sys2Proof/WellFormed.lean ====
section
/-! DEFINITION. Well-formed commands: every operand names a part that the block has and a value that its field can hold. -/
namespace Sys2Proof
open Sys2Proof.Machine

namespace Wf

/-- Fields F0 to F7 (R18). -/
def field (f : Nat) : Bool := decide (f < 8)
/-- Seats 0 to 7 (R18). -/
def seat (n : Nat) : Bool := decide (n < 8)
/-- Eaves and stacks E[0] to E[23] (R18). -/
def eave (k : Nat) : Bool := decide (k < 24)
/-- Pseudo-channels 0 to 63 (R413). -/
def pc (p : Nat) : Bool := decide (p < 64)
/-- Gable ports 0 to 11 (R19). -/
def port (p : Nat) : Bool := decide (p < 12)
/-- Sources 0 to 19: seats, then gable ports (R143). -/
def source (n : Nat) : Bool := decide (n < 20)
/-- Tenants 0 to 15 (R143). -/
def tenant (t : Nat) : Bool := decide (t < 16)
/-- Streams 0 to 255 (R149). -/
def stream (s : Nat) : Bool := decide (s < 256)
/-- Virtual and packet addresses have 48 bits (R144). -/
def addr48 (a : Nat) : Bool := decide (a < 2 ^ 48)
/-- A register holds 32 bits and an address of the map fits in one (R11). -/
def addr32 (a : Nat) : Bool := decide (a < 2 ^ 32)
/-- A station of a run: 64 at most (table "run descriptor header"). -/
def station (a : StRef) : Bool := tenant a.tenant && decide (a.station < 64)
/-- A sheaf in a slot of a core: 576 cores, 16 slots, 16 sheafs (R325, R332). -/
def sheaf (a : LathAt) : Bool := decide (a.core < 576 ∧ a.slot < 16 ∧ a.sheaf < 16)
/-- Words 2 and 3 are there only where bit 31 of word 1 says so (R338). -/
def instr (i : LInstr) : Bool := i.w1.getLsbD 31 || decide (i.imm = 0#64)
/-- An instruction at a sheaf. -/
def issue (a : LathAt) (i : LInstr) : Bool := sheaf a && instr i
/-- Sizes of loads and stores in bytes; another size stands for an encoding that the table does not define (R339). -/
def size (n : Nat) : Bool := decide (n ≤ 16)
/-- Cells of 16 bytes. -/
def cells (l : List Byte) : Bool := decide (l.length % 16 = 0)
/-- Screen groups 0 to 255: 32 × field + group of the field (R491). -/
def group (g : Nat) : Bool := decide (g < 256)
/-- Pages 0 to 511 of a sheet. -/
def page (p : Nat) : Bool := decide (p < 512)
/-- A step of the Calender names a field, an Eave or a group. -/
def step : StepName → Bool
  | .wake f => field f
  | .train k => eave k
  | .window k => eave k
  | .group g => group g
/-- A register space: the management map, or BAR2 of a port. -/
def space : RegSpace → Bool
  | .mgmt => true
  | .bar2 p => port p
/-- Symbols 0 to 35 of a codeword (R414). -/
def symbols (l : SymErrs) : Bool := l.all (fun e => decide (e.1 < 36))
/-- An error of a codeword of a stack. -/
def stackErr (e : StackErr) : Bool := symbols e.errs

end Wf

/-- A command whose operands are all in range. -/
def Instr.wf : Instr → Bool
  | .pwrGoodRise _ _ => true
  | .pwrGoodFall => true
  | .rstNFall => true
  | .rstNRise => true
  | .stopRampEnd => true
  | .rootLock r1 r2 => decide (r1.length = 8 ∧ r2.length = 8)
  | .rootLockTimeout => true
  | .rootLockLoss => true
  | .flashReadDone _ l => decide (l.length = 4096)
  | .flashReadTimeout => true
  | .imageShareExpiry _ => true
  | .flReleaseNChange _ => true
  | .startPhaseDone _ links devs => links.all (fun x => Wf.port x.port) && devs.all (fun x => Wf.port x.port)
  | .phaseBudgetExpiry _ _ => true
  | .fieldWakeDone f => Wf.field f
  | .stackTrainingDone k _ ident => Wf.eave k && decide (ident.length = 4)
  | .restart _ => true
  | .enterMaint _ => true
  | .exitMaint _ => true
  | .drainDone => true
  | .maintDrainTimeout => true
  | .cattrip k => Wf.eave k
  | .seatAlert n => Wf.seat n
  | .seatUncorrectableLinkError n _ => Wf.seat n
  | .seatLinkRetrainDone n _ spares => Wf.seat n && decide (spares ≤ 2048)
  | .seatLinkFlit n _ _ _ => Wf.seat n
  | .seatLoad n _ _ => Wf.seat n
  | .loadData n _ => Wf.seat n
  | .seatStore n _ l _ => Wf.seat n && Wf.cells l
  | .storeDone n _ => Wf.seat n
  | .seatCommand n _ l => Wf.seat n && Wf.cells l
  | .stageAck n _ => Wf.seat n
  | .seatCreditTimeout n => Wf.seat n
  | .stageAckTimeout n t _ => Wf.seat n && Wf.tenant t
  | .gabSlotWrite p k _ _ => Wf.port p && decide (k < 4096)
  | .gabCommit p k _ => Wf.port p && decide (k < 4096)
  | .gabRingSizeWrite p _ => Wf.port p
  | .gabRingHeadWrite p _ => Wf.port p
  | .hostConfigRequest p => Wf.port p
  | .gaPerstNFall p => Wf.port p
  | .gaPerstNRise p _ => Wf.port p
  | .farReadCompletion t _ p _ => Wf.tenant t && Wf.page p
  | .gableCompletionTimeout t _ p => Wf.tenant t && Wf.page p
  | .i3cDynamicAddress _ => true
  | .registerWrite sp a _ _ => Wf.space sp && Wf.addr32 a
  | .clearingRead sp a _ => Wf.space sp && Wf.addr32 a
  | .runtimeSettingWrite a _ => Wf.addr32 a
  | .calenderInterval _ _ _ _ _ => true
  | .calenderCalibration _ _ => true
  | .preloadDone n => Wf.step n
  | .fastLoopEnd n => Wf.step n
  | .thermalSample l => decide (l.length = 64)
  | .testDeferTimeout => true
  | .packetArrival n _ => Wf.source n
  | .write t s _ => Wf.tenant t && Wf.stream s
  | .read t s _ => Wf.tenant t && Wf.stream s
  | .readData _ => true
  | .fence t s => Wf.tenant t && Wf.stream s
  | .fenceTargetReached t s => Wf.tenant t && Wf.stream s
  | .run t s => Wf.tenant t && Wf.stream s
  | .runKill t s => Wf.tenant t && Wf.stream s
  | .tile t s => Wf.tenant t && Wf.stream s
  | .alloc t s => Wf.tenant t && Wf.stream s
  | .free t s => Wf.tenant t && Wf.stream s
  | .hint t s => Wf.tenant t && Wf.stream s
  | .grow t s => Wf.tenant t && Wf.stream s
  | .streamReset n => Wf.source n
  | .regRead s => Wf.stream s
  | .regWrite s => Wf.stream s
  | .nop t s => Wf.tenant t && Wf.stream s
  | .streamGapTimeout t s => Wf.tenant t && Wf.stream s
  | .runLaunch t _ _ => Wf.tenant t
  | .stageEnd t _ => Wf.tenant t
  | .runKillDone t _ => Wf.tenant t
  | .watchdogTimeout a _ => Wf.station a
  | .operandArrival a p _ => Wf.station a && decide (p < 4)
  | .itemDispatch f _ => Wf.field f
  | .itemComplete a _ => Wf.station a
  | .ridgeToken _ => true
  | .queueHeldResume t => Wf.tenant t
  | .sizingTile a _ => Wf.station a
  | .treeDescriptorArrival a _ => Wf.station a
  | .yealmTraversal a _ _ => Wf.station a
  | .yealmComplete a _ => Wf.station a
  | .build a _ _ => Wf.station a
  | .refit a _ _ => Wf.station a
  | .check a _ _ => Wf.station a
  | .mouldJobToBack f => Wf.field f
  | .mouldTileOut a => Wf.station a
  | .yealmWindowAlloc a _ => Wf.station a
  | .yealmWindowSort a => Wf.station a
  | .yealmEmit a => Wf.station a
  | .cohortClose a => Wf.station a
  | .hitTileIngest a _ => Wf.station a
  | .batchEmit a _ => Wf.station a
  | .courseHeaderWrite a _ => Wf.station a
  | .replay a _ => Wf.station a
  | .int a i _ => Wf.issue a i
  | .fvec a i _ _ => Wf.issue a i
  | .cvt a i => Wf.issue a i
  | .mxConvertSheaf a i => Wf.issue a i
  | .bra a i => Wf.issue a i
  | .jmpr a i => Wf.issue a i
  | .exit a i => Wf.issue a i
  | .barItem a i => Wf.issue a i
  | .trap a i => Wf.issue a i
  | .lathNop a i => Wf.issue a i
  | .ldG a i n _ => Wf.issue a i && Wf.size n
  | .ldGNc a i n _ => Wf.issue a i && Wf.size n
  | .stG a i n _ => Wf.issue a i && Wf.size n
  | .ldp a i n => Wf.issue a i && Wf.size n
  | .ldL a i n => Wf.issue a i && Wf.size n
  | .stL a i n => Wf.issue a i && Wf.size n
  | .atom gs _ _ => gs.all (fun g => Wf.issue g.at_ g.i)
  | .memoryAccessDone c _ => decide (c < 576)
  | .mmaT a i => Wf.issue a i
  | .mmaSheaf a i => Wf.issue a i
  | .mmaComplete c => decide (c < 576)
  | .tin a i => Wf.issue a i
  | .emit a i => Wf.issue a i
  | .fenceC a i => Wf.issue a i
  | .fenceF a i => Wf.issue a i
  | .cinv a i => Wf.issue a i
  | .rdsr a i _ => Wf.issue a i
  | .divergedMatrix a => Wf.sheaf a
  | .vatLoadTile a _ _ => Wf.station a
  | .vatStoreTile a _ _ => Wf.station a
  | .vatHintRecord a _ => Wf.station a
  | .translationMiss f t a => Wf.field f && Wf.tenant t && Wf.addr48 a
  | .firstTouchFill t a => Wf.tenant t && Wf.addr48 a
  | .demandPageIn t a _ => Wf.tenant t && Wf.addr48 a
  | .pageArrival t _ => Wf.tenant t
  | .evictionCancel t _ => Wf.tenant t
  | .prefetchServe => true
  | .eaveRead k _ errs _ mates => Wf.eave k && Wf.symbols errs && mates.all Wf.stackErr
  | .eaveStore k _ l errs => Wf.eave k && decide (l.length ≤ 64) && errs.all Wf.stackErr
  | .parityDifference k => Wf.eave k
  | .stackResponseTimeout k _ _ => Wf.eave k
  | .stackTemperatureRead k _ => Wf.eave k
  | .selfRefreshEntry k => Wf.eave k
  | .scrub k hits => Wf.eave k && hits.all (fun h => Wf.pc h.pc && Wf.symbols h.errs)
  | .retrainingWindowOpen k p => Wf.eave k && Wf.pc p
  | .retrainingWindowEnd k _ => Wf.eave k
  | .zoneCopyDone _ _ _ _ => true
  | .rowRemapDone k p _ _ _ => Wf.eave k && Wf.pc p
  | .pageRetire k _ => Wf.eave k
  | .maintenanceWindow k _ _ => Wf.eave k
  | .binInputTile a _ _ => Wf.station a
  | .binScatter a _ => Wf.station a
  | .growTimeout a => Wf.station a
  | .fragmentStore a _ _ => Wf.station a
  | .blendEndTile a _ _ => Wf.station a
  | .upstreamGradientTile a _ _ => Wf.station a
  | .blendFinish a _ => Wf.station a
  | .pack a _ => Wf.station a
  | .unpack a _ => Wf.station a
  | .screenGroupStart g => Wf.group g
  | .screenGroupDone g _ _ => Wf.group g
  | .rotationSlot => true
  | .rotationTestStart => true
  | .rotationTestDone _ => true
  | .unit _ => true
  | .eave _ => true
  | .block _ => true
  | .blockD _ => true
  | .rotPause _ => true
  | .rotResume _ => true
  | .telemetrySample => true
  | .telemetryConfigWrite a _ => Wf.addr32 a
  | .refresh k => Wf.eave k
  | .writeQueueDrain k => Wf.eave k
  | .farSlotWriteDone t _ => Wf.tenant t
  | .tap1500Access k => Wf.eave k

end Sys2Proof
end

