-- ==== Sys2Proof/Tests/Slice0.lean ====
section
/-! SUPPORT. Small tests of single commands, and states that meet the hypotheses of the statements. -/
namespace Sys2Proof.Tests
set_option maxRecDepth 20000
set_option Elab.async false
open Sys2Proof.Machine

/-! ## Small states -/

/-- A tenant of an image: enabled, every source, plain quotas. -/
def tTenant : TenantCfg :=
  { enabled := true, prioMax := 7, streams := 256, sources := 0xFFFFF#20, quotaHbm := 100, quotaFelt := 100, quotaFar := 100, gutter := 4 }

/-- An image with the default timeouts of R132 and one tenant. -/
def tImg : Image :=
  { serial := 1#32, gabEnable := 0xFFF#12, gabFar := 0#12, vendor := 0, device := 0, seatCreditTo := 1000, slew := 500, stopRamp := 400000, pwrCap := 900,
    height := 0, density := 0, pinRate := 0, stackEnable := 0xFFFFFF#24, parity := false, fieldEnable := 0xFF#8, seatEnable := 0xFF#8, tenants := [tTenant],
    rayState := 1, matchStore := 1, gapTo := 1000, watchdog := 1000, gcplTo := 1000, stackTo := 4000, growTo := 1000, maintDrain := 1000, kernels := [], kernelBytes := 0 }

/-- A page of Felt memory of tenant 0 at 2 MiB. -/
def tObj : Obj :=
  { tenant := 0, base := 0x200000, pages := 4, cls := 3, placed := 3, field := 0, rd := true, wr := true, ex := true, spread := false,
    felt := [physFelt 0 0, physFelt 0 4096, physFelt 0 8192, physFelt 0 12288], feltTouched := [0, 1, 2, 3] }

/-- A seat link that is open. -/
def tSeat : Seat := { Seat.reset with state := .opened, present := true, rstN := true, loadCr := 8, storeCr := 8, cmdCr := 8, respCr := 8 }

/-- An open host port. -/
def tGable : Gable := { Gable.reset with perstN := true, width := 3, rate := 3, opened := true }

/-- An Eave in service. -/
def tEave : Eave := { Eave.reset with inService := true, resetN := true }

/-- A block in OPEN with one tenant. -/
def tB : Block :=
  { Block.reset with
    now := 1000000000
    pins := { Pins.reset with pwrGood := true, rstN := true }
    start := { Start.reset with state := .opened, img := some tImg, woken := List.range 8, locked := true }
    seats := List.replicate 8 tSeat
    gables := List.replicate 12 tGable
    eaves := List.replicate 24 tEave
    vat := { Vat.reset with tenants := List.replicate 16 { opened := true, prioMax := 7, quotaHbm := 100, quotaFelt := 100, quotaFar := 100 }, objs := [tObj] } }

def tS (b : Block) : State := { pending := [], b := b }

/-- The block as a command leaves it. -/
def after (c : Instr) (b : Block) : Block := match exec c (tS b) with | .next t => t.b | _ => b

/-- A block with another start record. -/
def tStart (f : Start → Start) : Block := { tB with start := f tB.start }

/-- A block with another Calender. -/
def tCal (f : Cal → Cal) : Block := { tB with cal := f tB.cal }

/-- A block whose seat 0 differs. -/
def tSt0 (f : Seat → Seat) : Block := tB.modSeat 0 f

/-- A header of a command packet. -/
def tPkt (op : Nat) (addr : Nat) (args : List Word) (payload : List Byte) : Pkt :=
  { src := 8, op := op, plen := payload.length, more := false, cpl := false, seq := 0, stream := 0, tag := 0#32, addr := addr, args := args, rsvdOk := true,
    seq0 := 0, src0 := 8, lenOk := true, payload := payload }

/-- A block in which a packet stands at the front of stream 0 of tenant 0. -/
def tFront (p : Pkt) : Block := tB.modStrm 0 0 (fun s => { s with adm := [p], live := [p.seq] })

/-- A run of tenant 0 with handle 1. -/
def tRef : RunRef := { tenant := 0, handle := 1#32 }
def tRun (stations : List Station) (edges : List Edge) : Run :=
  { ref := tRef, src := 8, pkt := tPkt 4 0 [] [], desc := [], nstage := 1, prio := 0, seed := 0#64, phase := .active 0, launchedAt := 0, order := 0,
    stations := stations, edges := edges, bufs := [], ovf := false, unf := false, queued := true, read := false, waitQ := false, waitPool := false, killed := none }

/-- A station entry of a type. -/
def tEntry (type : StType) : StationEntry :=
  { type := type, stage := 0, field := 0, pin := false, units := 1, kernel := 0, split := 0, sheafs := 1, paramAddr := 0, paramLen := 0, gsource := 8,
    gout := false, gstream := 0, gfmt := 0, codeAddr := 0 }

/-- A station with one unit in field 0. -/
def tStn (type : StType) (params : List Byte) (body : Body) : Station :=
  { entry := tEntry type, params := params, units := [(0, 0)], outbox := [], takenAt := [], closedIn := [], made := 0, dispatched := 0, completed := 0,
    active := [], finished := false, queue := 0, body := body }

/-- A dispatched item with the tiles of its slots. -/
def tItem (tiles : List (Nat × Tile)) : Active :=
  { ordinal := 0, field := 0, unit := 0, slots := tiles.map (fun x => (x.1, .tile x.2)), at_ := 0, done := false, freed := false }

/-- A station that works on item 0. -/
def tWork (type : StType) (params : List Byte) (body : Body) (tiles : List (Nat × Tile)) : Station :=
  { tStn type params body with active := [tItem tiles], made := 1, dispatched := 1 }

/-- An edge between ports. -/
def tEdge (src sport dst dport fmt rows cols : Nat) : Edge :=
  { entry := { src := src, sport := sport, dst := dst, dport := dport, fmt := fmt, depth := 4, rows := rows, cols := cols }, tiles := [], taken := 0,
    emitted := 0, closed := false, drained := false, queue := 0 }

/-- A block with one run, its stations and its edges. -/
def tRuns (stations : List Station) (edges : List Edge) : Block := { tB with runs := [tRun stations edges] }

/-- Station 0 of that run. -/
def tAt : StRef := { tenant := 0, handle := 1#32, station := 0 }

/-- A run that waits for its launch: a GATE input, a GATE output and the edge between them. -/
def tWait : Run :=
  { tRun [] [] with
    phase := .waiting
    desc := leBytes 4 0x00015255 ++ leBytes 4 0x00010102 ++ List.replicate 56 0#8 ++ leBytes 4 0x01000002 ++ List.replicate 16 0#8 ++ leBytes 4 8 ++
      List.replicate 8 0#8 ++ leBytes 4 0x01000002 ++ List.replicate 16 0#8 ++ leBytes 4 0x28 ++ List.replicate 8 0#8 ++ leBytes 4 0x00010000 ++
      leBytes 4 0x0200 ++ leBytes 4 0x00010001 ++ leBytes 4 0 }

/-- A run whose stations hold `n` queues of the pool. -/
def tFull (n : Nat) : Run := { tRun (List.replicate n (tStn .size [] .none)) [] with ref := { tenant := 0, handle := 2#32 } }

theorem full_queues (n : Nat) : ({ tB with runs := [tWait, tFull n] } : Block).queuesFree = 61440 - n := by
  simp [Block.queuesFree, Block.queuesUsed, Run.queues, tWait, tRun, tFull, tStn, tEntry]

theorem full_mayLaunch (n : Nat) : ({ tB with runs := [tWait, tFull n] } : Block).mayLaunch tWait = true := rfl

/-- A tile of bytes 1, its shape and its data bytes given. -/
def tTile (fmt rows cols dbytes : Nat) : Tile :=
  { fmt := fmt, ovf := false, unf := false, last := false, flags := 0, rows := rows, cols := cols, no := 0, dbytes := dbytes, seq := 0,
    data := List.replicate dbytes 1#8 }

/-- How a run was killed. -/
def tKill : KillInfo := { cause := 0x12, station := 0, ord := 0, detail := 0#32, stage := 0, at_ := 0 }

/-- A row of four zones, two sheet slots. -/
def tRow : ZRow :=
  { id := 0, kind := .near 0, table := [{ eave := 0, pc := 0, idx := 0 }, { eave := 0, pc := 1, idx := 0 }, { eave := 0, pc := 2, idx := 0 }, { eave := 0, pc := 3, idx := 0 }],
    retired := [], copies := [] }

theorem odd_row (n : Nat) : n * 40503 % 4 = (3 * n) % 4 := by omega

/-- Column and offset of a byte of a slot of that row. -/
theorem row_phys (j x : Nat) : ∃ c, c < 4 ∧ c = ((j * 4096 + x / 512) % 4 + 3 * ((j * 4096 + x / 512) / 4) % 4) % 4 ∧
    tRow.phys j x = c * 2 ^ 39 + ((j * 4096 + x / 512) / 4 * 512 + x % 512) := by
  refine ⟨_, Nat.mod_lt _ (by decide), rfl, ?_⟩
  have h : ((j * 4096 + x / 512) % 4 + 3 * ((j * 4096 + x / 512) / 4) % 4) % 4 < 4 := Nat.mod_lt _ (by decide)
  simp only [ZRow.phys, ZRow.locate, tRow, List.length, Nat.reduceAdd, odd_row]
  generalize ((j * 4096 + x / 512) % 4 + 3 * ((j * 4096 + x / 512) / 4) % 4) % 4 = c at h ⊢
  rcases c with _ | _ | _ | _ | c <;> simp [physStack] <;> omega

/-- Where a byte of the row's four zones lies. -/
theorem zone_slot (v : Vat) (hv : v.rows = [tRow]) (c o : Nat) (hc : c < 4) (ho : o < 1048576) :
    v.slotOf (c * 2 ^ 39 + o) = some (0, (o / 512 * 4 + (c + 4 - 3 * (o / 512) % 4) % 4) / 4096, (o / 512 * 4 + (c + 4 - 3 * (o / 512) % 4) % 4) % 4096 * 512 + o % 512) := by
  have h0 : (c * 2 ^ 39 + o) / 2 ^ 50 = 0 := by omega
  have h1 : (c * 2 ^ 39 + o) / 2 ^ 45 % 2 ^ 5 = 0 := by omega
  have h2 : (c * 2 ^ 39 + o) / 2 ^ 39 % 2 ^ 6 = c := by omega
  have h3 : (c * 2 ^ 39 + o) % 2 ^ 39 = o := by omega
  have h4 : o / 1048576 = 0 := by omega
  have h5 : o % 1048576 = o := by omega
  simp only [Vat.slotOf, Vat.zoneAt, hv, regionOf, eaveOf, pcOf, offOf, bits, h0, h1, h2, h3, h4, h5]
  rcases c with _ | _ | _ | _ | c
  · simp [tRow, List.findIdx?_cons, ZRow.slotAt, odd_row]
  · simp [tRow, List.findIdx?_cons, ZRow.slotAt, odd_row]
  · simp [tRow, List.findIdx?_cons, ZRow.slotAt, odd_row]
  · simp [tRow, List.findIdx?_cons, ZRow.slotAt, odd_row]
  · omega

theorem slot_zone (v : Vat) (hv : v.rows = [tRow]) (q : Nat) (y : Nat × Nat × Nat) (h : v.slotOf q = some y) : ∃ c o, c < 4 ∧ o < 1048576 ∧ q = c * 2 ^ 39 + o := by
  by_cases h0 : q / 2 ^ 50 = 0
  · by_cases h1 : q / 2 ^ 45 % 2 ^ 5 = 0 ∧ q % 2 ^ 39 / 1048576 = 0 ∧ q / 2 ^ 39 % 2 ^ 6 < 4
    · exact ⟨q / 2 ^ 39 % 2 ^ 6, q % 2 ^ 39, h1.2.2, by omega, by omega⟩
    · exfalso
      have hn : ∀ c, c < 4 → ¬ (0 = q / 35184372088832 % 32 ∧ c = q / 549755813888 % 64 ∧ 0 = q % 549755813888 / 1048576) := by intro c hc; omega
      have n0 := hn 0 (by decide)
      have n1 := hn 1 (by decide)
      have n2 := hn 2 (by decide)
      have n3 := hn 3 (by decide)
      simp [Vat.slotOf, Vat.zoneAt, hv, tRow, List.findIdx?_cons, regionOf, eaveOf, pcOf, offOf, bits, h0, n0, n1, n2, n3] at h
  · rw [Vat.slotOf, if_neg (show ¬ regionOf q = 0 from h0)] at h; cases h

theorem slot_phys (v : Vat) (hv : v.rows = [tRow]) (q j a : Nat) (h : v.slotOf q = some (0, j, a)) : q = tRow.phys j a := by
  obtain ⟨c, o, hc, ho, rfl⟩ := slot_zone v hv q _ h
  rw [zone_slot v hv c o hc ho] at h
  obtain ⟨d, hd, e, hp⟩ := row_phys j a
  rw [hp]
  clear hp
  simp only [Option.some.injEq, Prod.mk.injEq, true_and] at h
  obtain ⟨hj, ha⟩ := h
  clear hv
  obtain ⟨r, hr⟩ : ∃ r, r = (c + 4 - 3 * (o / 512) % 4) % 4 := ⟨_, rfl⟩
  rw [← hr] at hj ha
  have h1 : j * 4096 + a / 512 = o / 512 * 4 + r := by omega
  have h2 : a % 512 = o % 512 := by omega
  rw [h1] at e
  have h3 : (o / 512 * 4 + r) / 4 = o / 512 := by omega
  have h4 : (o / 512 * 4 + r) % 4 = r := by omega
  rw [h3, h4] at e
  have h5 : d = c := by omega
  rw [h1, h3, h2, h5]
  omega

theorem phys_slot (v : Vat) (hv : v.rows = [tRow]) (j a : Nat) (hj : j < 2) (ha : a < sheetBytes) : v.slotOf (tRow.phys j a) = some (0, j, a) := by
  obtain ⟨d, hd, e, hp⟩ := row_phys j a
  rw [hp, zone_slot v hv d _ hd (by clear hp hv; simp only [sheetBytes] at ha; omega)]
  clear hp hv
  simp only [sheetBytes] at ha
  simp only [Option.some.injEq, Prod.mk.injEq, true_and]
  obtain ⟨w, hw⟩ : ∃ w, w = (j * 4096 + a / 512) / 4 := ⟨_, rfl⟩
  obtain ⟨r, hr⟩ : ∃ r, r = (j * 4096 + a / 512) % 4 := ⟨_, rfl⟩
  rw [← hw, ← hr] at e
  rw [← hw]
  have h1 : (w * 512 + a % 512) / 512 = w := by omega
  have h2 : (w * 512 + a % 512) % 512 = a % 512 := by omega
  rw [h1, h2]
  have h3 : (d + 4 - 3 * w % 4) % 4 = r := by omega
  rw [h3]
  omega

theorem row_inj (x y : Nat) (hx : x < sheetBytes) (hy : y < sheetBytes) (h : tRow.phys 0 x = tRow.phys 0 y) : x = y := by
  have v : ∃ v : Vat, v.rows = [tRow] := ⟨{ Vat.reset with rows := [tRow] }, rfl⟩
  obtain ⟨v, hv⟩ := v
  have a := phys_slot v hv 0 x (by decide) hx
  have b := phys_slot v hv 0 y (by decide) hy
  rw [h, b] at a
  simp at a
  exact a.symm

theorem slot_inj (v : Vat) (hv : v.rows = [tRow]) (q q' o : Nat) (h : v.slotOf q = some (0, 0, o)) (h' : v.slotOf q' = some (0, 0, o)) : q = q' := by
  rw [slot_phys v hv q 0 o h, slot_phys v hv q' 0 o h']

/-- A page-in of page 3 without a slot yet. -/
def tPaging : Paging := { dst := none, first := 3, out := [], got := [], arrived := [], needs := [], prefetch := false, since := 0 }

/-- Sheet 2 of tenant 0. -/
def tSheet : Sheet :=
  { tenant := 0, num := 2, place := .far 0 0, spar := false, lastUse := 0, touched := true, farCopy := none, dirty := false, paging := none, evict := none }

/-- The object of that sheet. -/
def tFarObj : Obj := { tObj with base := 0x400000, pages := 512, cls := 1, placed := 1, felt := [], feltTouched := [] }

/-- A block that holds the sheet, with one row and one far-tier device. -/
def tVat (sh : Sheet) : Block :=
  { tB with vat := { tB.vat with objs := [tObj, tFarObj], sheets := [sh], rows := [tRow], nextRow := 1, devs := [{ port := 0, sheets := 100, inService := true, fails := [] }] } }

/-- YEALM state with given windows. -/
def tYSt (ws : List YWindow) : YealmSt :=
  { rows := [], formed := 0, windows := ws, opened := ws.length, asked := none, cohort := 0, pass := 0, window := 0, yealm := 0, total := none }

/-- A YEALM parameter block: its first word, passes 1 and 16 rays a window, cohort 1, no projection, a camera of 4 by 4. -/
def tYPar (w0 : Word) : List Byte := wordsBytes ([w0, 0x00040001#32, 1#32] ++ List.replicate 25 0#32 ++ [0x00040004#32] ++ List.replicate 3 0#32)

/-- A window of one ray whose entry is all zeros. -/
def tYWin (order : Option (List Nat)) (tokens : List Nat) : YWindow :=
  { no := 0, slots := List.range 16, rays := [List.replicate 16 0#32], full := true, order := order, tokens := tokens }

/-- A yealm tile with one valid ray. -/
def tYTile (kind : Nat) : Tile :=
  { tTile 0 1 (if kind = 2 then 2176 else 1152) (if kind = 2 then 2176 else 1152) with
    data := wordsBytes ([0#32, 1#32] ++ List.replicate 3 0#32 ++ [0x00001000#32] ++ List.replicate 26 0#32 ++ List.replicate (if kind = 2 then 512 else 256) 0#32) }

/-- A YEALM feeding a RAFTER that feeds a COUCH, stations 0, 1 and 2. -/
def tWalk (raf cou : Station) (tiles : List Tile) : Block :=
  tRuns [tStn .yealm (tYPar 1#32) (.yealm (tYSt [])), raf, cou]
    [tEdge 0 0 1 0 0 1 1152, { tEdge 1 0 2 0 0 4 32 with tiles := tiles }, tEdge 2 0 3 0 0 200 32]

/-- Station 1 or 2 of that run. -/
def tAt1 : StRef := { tAt with station := 1 }
def tAt2 : StRef := { tAt with station := 2 }

def tCouch (w0 : Word) (w : List Word) (c : CouchSt) : Station := tStn .couch (wordsBytes (w0 :: w)) (.couch c)
def tRafter (w : List Word) (body : RafterSt) (tiles : List (Nat × Tile)) : Station := tWork .rafter (wordsBytes w) (.rafter body) tiles
def tRaf0 : RafterSt := { trees := [], got := 0, high := none, done := [] }

/-- A batch of window 0 with one hit entry, its one yealm in. -/
def tBatch : Batch := { window := 0, tree := 0, entries := [List.replicate 8 0#32], spilled := 0, tokens := 1, ycount := 1, declared := 1, field := 0 }

/-- A triangle of the plane z = 1 that holds (0, 0, 1), its record of 64 bytes. -/
def tPrim : List Byte :=
  wordsBytes ([0#32, 0#32, 0xBF800000#32, 0xBF800000#32, 0x3F800000#32, 0x40400000#32, 0xBF800000#32, 0x3F800000#32, 0xBF800000#32, 0x40400000#32, 0x3F800000#32] ++
    List.replicate 5 0#32)

/-- A job descriptor for that triangle at 0x200000, its region at 0x201000. -/
def tJob (op rlen : Nat) : Tile :=
  { tTile 0 1 64 64 with
    data := wordsBytes ([BitVec.ofNat 32 (16 + op), 1#32, 0x200000#32, 0#32] ++ List.replicate 7 0#32 ++ [0x201000#32, 0#32, BitVec.ofNat 32 rlen, 0#32, 0#32]) }

/-- A MOULD station with that job in front. -/
def tMould (op rlen : Nat) (jobs : List MouldJob) : Station := tWork .mould [] (.mould { jobs := jobs, next := 0 }) [(0, tJob op rlen)]

/-- A block whose memory holds the triangle, and the same block once BUILD is done. -/
def tTri (op rlen : Nat) (jobs : List MouldJob) : Block :=
  { tRuns [tMould op rlen jobs] [tEdge 0 0 1 0 0 1 64] with mem := Mem.writeN [] (physFelt 0 0) tPrim }
def tTree : Block := after (.build tAt 0 []) (tTri 0 4096 [])

/-- A yealm tile with one ray from the origin along +z. -/
def tRayTile : Tile :=
  { tTile 0 1 1152 1152 with
    data := wordsBytes ([0#32, 1#32] ++ List.replicate 3 0#32 ++ [0x00001000#32] ++ List.replicate 26 0#32 ++
      [0#32, 0#32, 0#32, 0#32, 0#32, 0#32, 0#32, 0x3F800000#32, 0#32, 0x41200000#32] ++ List.replicate 246 0#32) }

/-- A RAFTER that walks the tree at 0x201000 for that ray, in the block that holds it. -/
def tWalker (cap : Word) : Station := { tRafter [0#32, 0#32, 0x201000#32, 0#32, cap] tRaf0 [(0, tRayTile)] with entry := { tEntry .rafter with paramLen := 64 } }
def tSpace (mem : Mem) (raf : Station) : Block :=
  { tRuns [tStn .yealm (tYPar 0#32) (.yealm (tYSt [])), raf, tCouch 0#32 [] CouchSt.start] [tEdge 0 0 1 0 0 1 1152, tEdge 1 0 2 0 0 4 32, tEdge 2 0 3 0 0 200 32] with mem := mem }

/-- A tree descriptor tile of a given depth. -/
def tTreeTile (depth : Nat) : Tile :=
  { tTile 0 1 64 64 with
    data := wordsBytes ([BitVec.ofNat 32 (0x5452 + depth * 2 ^ 20), 1#32, 1#32, 0#32, 0x201040#32, 0#32, 0x2010C0#32, 0#32] ++ List.replicate 8 0#32) }

/-- A running thread at a program counter with two registers. -/
def tThr (pc : Nat) (r2 r4 : Word) : Thread :=
  { pc := pc, regs := [(2, r2), (4, r4)], preds := 0#7, toks := List.replicate 7 0, gen := 1#32, state := .running, busy := [] }

/-- A Lath core with one sheaf of these threads. -/
def tLCore (ts : List Thread) (waitAt : Option Nat) : LCore :=
  { LCore.reset with
    launch := some { run := tRef, station := 0, slots := 1, window := 8192, ws := 1, regs := 32, cacheBytes := 4096, codeLen := 4096, splat := false }
    items := [(0, { ordinal := 0, tiles := [(0, tTile 1 1 2 8)], sheafs := [{ threads := ts, waitAt := waitAt }], ovf := false, unf := false, at_ := 0 })]
    windows := [(0, { run := 0, station := 0, base := none, bytes := [] })] }

/-- A LATH station on core 575, the last. -/
def tLathSt (held : Kv Nat Tile) : Station :=
  tWork .lath (List.replicate 64 0#8) (.lath { regs := 32, ws := 1, code := 4096, ins := [0], held := held, ovf := false, unf := false }) []
def tCore (c : LCore) (held : Kv Nat Tile) : Block := { tRuns [tLathSt held] [tEdge 0 0 1 0 1 1 2] with cores := [(575, c)] }
def tLath (ts : List Thread) : Block := tCore (tLCore ts none) []
def tLa : LathAt := { core := 575, slot := 0, sheaf := 0 }

/-- A short instruction of a class, 16 times its operation field and 1,024 for a sheaf-wide one added, with its mod bits, registers and token, no guard. -/
def tI (cls mods dst a b c setTok : Nat) : LInstr :=
  { w0 := BitVec.ofNat 32 (cls + 2 ^ 11 * mods + 2 ^ 16 * dst + 2 ^ 24 * a), w1 := BitVec.ofNat 32 (b + 2 ^ 8 * c + 2 ^ 16 * 7 + 2 ^ 20 * setTok), imm := 0#64 }

/-- A branch by 8 bytes. -/
def tBra : LInstr := { tI 3 0 0 0 0 0 0 with w1 := 0x80070000#32, imm := 8#64 }

/-- An outstanding operation of that core. -/
def tOp (kind : LOpKind) (status : Nat) : LOp := { id := 5, slot := 0, sheaf := 0, lanes := [0], tok := 1, kind := kind, ranges := [], status := status, pc := 8, global := true }

/-- A queued MMA.T of the smallest shape on zero operands. -/
def tMat : MatOp :=
  { slot := 0, sheaf := 0, tok := 1, accumulate := false, aE5 := false, bE5 := false,
    kind := .tile 0 0 512 1024 1 1 1 (List.replicate 264 0#8) (List.replicate 264 0#8) (List.replicate 256 0#8) }

/-- In a block whose one thread acts, every other thread has exited or waits. -/
theorem one_thread (t0 : Thread) (g : LGroup) (h : 0 ∈ g.act) (x : LathAt) (k : Nat) (t : Thread) (hc : x.core = tLa.core) (hs : x.slot = tLa.slot)
    (ht : (tS (tLath [t0])).b.threadAt x k = some t) (hn : ¬(x = tLa ∧ k ∈ g.act)) : t.state = .exited ∨ t.state = .atBar := by
  obtain ⟨c, sl, sh⟩ := x
  simp only at hc hs
  subst hc hs
  cases sh with
  | zero =>
    cases k with
    | zero => exact absurd ⟨rfl, h⟩ hn
    | succ n => cases ht
  | succ n => cases ht

/-- A read of a seat outstanding at an Eave. -/
def tRead : EaveRead := { addr := physStack 23 5 64, req := .seat 7 3, at_ := 0, tries := 0, held := false, passed := 0 }

/-- A block whose last Eave is changed. -/
def tEv (f : Eave → Eave) : Block := tB.modEave 23 f

theorem tB_par (k : Nat) : (tB.eave k).par = [] := by
  simp only [Block.eave, tB, List.getD_eq_getElem?_getD, List.getElem?_replicate]
  split <;> rfl

/-- A BIN parameter block: a frame of 16 by 16, its course store of two sheets at 0x600000. -/
def tBinPar (w0 : Word) : List Byte := wordsBytes ([w0, 0x00100010#32, 0x600000#32, 0#32, 2#32] ++ List.replicate 11 0#32)
def tBin : BinSt := { prims := 0, boxes := [], draw := 0, ended := false, segEnd := 0, sks := [], segs := [], park := none, lastTile := 0 }

/-- A BIN station on that block, with its store's two sheets in the row of four zones. -/
def tBinB (w0 : Word) (y : BinSt) (rows : List (Nat × Tile)) (closed : Bool) : Block :=
  let n := if rows.isEmpty then 0 else 1
  let st : Station :=
    { tStn .bin (tBinPar w0) (.bin y) with active := if rows.isEmpty then [] else [tItem rows], made := n, dispatched := n, closedIn := if closed then [0] else [] }
  { tRuns [st] [tEdge 0 0 1 0 0 4 32] with
    vat := { tB.vat with rows := [tRow], nextRow := 1, sheets := [{ tSheet with num := 3, place := .stack 0 0 }, { tSheet with num := 4, place := .stack 0 1 }] } }

/-- A primitive tile for a BIN, all zeros. -/
def tPrims : Tile := { tTile 0 1 64 64 with data := List.replicate 64 0#8 }

/-- A BLEND parameter block: a frame of 8 by 8. -/
def tBlendPar (w0 : Word) : List Byte := wordsBytes ([w0, 0x00080008#32, 0x800000#32, 0#32, 0#32, 0#32, 0#32, 0#32, 0#32] ++ List.replicate 7 0#32)
def tSh : Shingle := { nextSk := 0, loaded := true, up := true, held := [], px := [], touched := [], staged := [], ovf := false, unf := false }

/-- A fragment of skew number `sk` and alpha one half. -/
def tFrag (sk off : Nat) : Frag :=
  { core := 0, op := 1, slot := 0, sheaf := 0, lane := 0, item := 0, x := 0, q := 0, words := [BitVec.ofNat 32 (sk + 65536 * off), 0x3F000000#32, 0x3C00#32, 0#32] }
def tBlend (sh : Shingle) (inbound : List Frag) : BlendSt := { inbound := inbound, sh := [(0, sh)], ups := 0, done := false }
def tBlendB (w0 : Word) (y : BlendSt) (tiles : List (Nat × Tile)) (closed : List Nat) : Block :=
  tRuns [{ tWork .blend (tBlendPar w0) (.blend y) tiles with closedIn := closed, active := (if tiles.isEmpty then [] else [tItem tiles]) }] [tEdge 0 0 1 0 0 4 64]

/-- A PACK station on an item of these tiles. -/
def tPack (w0 : Word) (tiles : List (Nat × Tile)) : Block := tRuns [tWork .pack (wordsBytes (w0 :: List.replicate 15 0#32)) (.pack []) tiles] [tEdge 0 0 1 0 0 1 1028]
def tRaw : Tile := { tTile 0 1 1028 1028 with data := leBytes 4 0xC04 ++ List.replicate 1024 1#8 }

/-- A block whose Screen is changed. -/
def tScr (f : Screen → Screen) : Block := { tB with screen := f tB.screen }
theorem pair_fst {α β γ : Type} {p : β} {q : γ} (x : α × β × γ) (h : x.2 = (p, q)) : x = (x.1, p, q) := by rw [← h]
theorem gfMulAux_zero (f b : Nat) : gfMulAux f 0 b 0 = 0 := by
  induction f generalizing b with
  | zero => rfl
  | succ f ih => simp only [gfMulAux]; simpa using ih (b / 2)
theorem gfMul_zero (b : Nat) : gfMul 0 b = 0 := gfMulAux_zero 16 b
theorem gfMulAux_right (f a acc : Nat) : gfMulAux f a 0 acc = acc := by
  induction f generalizing a with
  | zero => rfl
  | succ f ih => simp only [gfMulAux]; simpa using ih _
theorem gfMul_right (a : Nat) : gfMul a 0 = 0 := gfMulAux_right 16 a 0
/-- A pattern whose first two syndromes are zero and that is not clean is UNCORRECTABLE. -/
theorem rsDecode_bad (n : Nat) (l : List (Nat × Nat)) (h0 : rsSyn n 0 l = 0) (h1 : rsSyn n 1 l = 0) (h2 : rsSyn n 2 l ≠ 0) : rsDecode n l = .bad := by
  have hf : ∀ m : List Nat, m.find? (fun _ => false) = none := fun m => by simp
  have hs : ∀ m : List (Nat × Nat), m.findSome? (fun _ => (none : Option (List (Nat × Nat)))) = none := fun m => by simp
  simp [rsDecode, List.range, List.range.loop, h0, h1, h2, gfMul_right, gfMul_zero, hf, hs]

/-- Whether a walk came to its end, the walk then, and whether it was truncated. -/
def tDone : WalkEnd → Bool
  | .done _ _ => true
  | _ => false
def tWalkOf : WalkEnd → Walk
  | .done w _ => w
  | _ => { cur := .node 0 1, stack := [], best := .fin false 0 0, thr := .fin false 0 0, tmax := .fin false 0 0, pruned := 0, hits := [], closest := none, nodes := 0, leaves := 0,
           prunes := 0, reads := [] }
def tTruncOf : WalkEnd → Bool
  | .done _ b => b
  | _ => false
theorem walk_done (e : WalkEnd) (h : tDone e = true) : e = .done (tWalkOf e) (tTruncOf e) := by
  cases e with
  | done w b => rfl
  | _ => cases h

/-! ## Well-formedness: a term that each check refuses, beside one of its kind that it lets pass -/

/-- An instruction of all zeros. -/
def tZero : LInstr := { w0 := 0#32, w1 := 0#32, imm := 0#64 }

theorem test_wf_units :
    [Instr.fieldWakeDone 7, .storeDone 7 0, .cattrip 23, .retrainingWindowOpen 23 63, .hostConfigRequest 11, .packetArrival 19 [], .write 15 255 []].all Instr.wf = true ∧
    [Instr.fieldWakeDone 8, .storeDone 8 0, .cattrip 24, .retrainingWindowOpen 23 64, .hostConfigRequest 12, .packetArrival 20 [], .write 16 0 [], .write 0 256 []].any Instr.wf = false := by decide +kernel
theorem test_wf_addresses :
    [Instr.firstTouchFill 0 (2 ^ 48 - 1), .clearingRead .mgmt (2 ^ 32 - 1) 4, .telemetryConfigWrite 0x6000 0#32, .farReadCompletion 0 0 511 false].all Instr.wf = true ∧
    [Instr.firstTouchFill 0 (2 ^ 48), .clearingRead .mgmt (2 ^ 32) 4, .registerWrite (.bar2 12) 0 0#32 4, .farReadCompletion 0 0 512 false].any Instr.wf = false := by decide +kernel
theorem test_wf_stations :
    [Instr.pack { tenant := 15, handle := 0#32, station := 63 } 0, .operandArrival tAt 3 [], .preloadDone (.group 255)].all Instr.wf = true ∧
    [Instr.pack { tenant := 15, handle := 0#32, station := 64 } 0, .operandArrival tAt 4 [], .preloadDone (.group 256), .preloadDone (.wake 8), .screenGroupStart 256].any Instr.wf = false := by decide +kernel
theorem test_wf_cores :
    [Instr.lathNop { core := 575, slot := 15, sheaf := 15 } tZero, .ldL { core := 0, slot := 0, sheaf := 0 } tZero 16, .mmaComplete 575].all Instr.wf = true ∧
    [Instr.lathNop { core := 576, slot := 0, sheaf := 0 } tZero, .lathNop { core := 0, slot := 16, sheaf := 0 } tZero, .lathNop { core := 0, slot := 0, sheaf := 16 } tZero,
      .lathNop { core := 0, slot := 0, sheaf := 0 } { tZero with imm := 1#64 },
      .ldL { core := 0, slot := 0, sheaf := 0 } tZero 17, .mmaComplete 576].any Instr.wf = false := by decide +kernel
theorem test_wf_data :
    [Instr.eaveRead 0 0 [(35, 1#16)] false [], .eaveStore 0 0 (List.replicate 64 0#8) [], .thermalSample (List.replicate 64 0#12), .gabSlotWrite 0 4095 0 []].all Instr.wf = true ∧
    [Instr.eaveRead 0 0 [(36, 1#16)] false [], .eaveStore 0 0 (List.replicate 65 0#8) [], .thermalSample (List.replicate 63 0#12), .gabSlotWrite 0 4096 0 [],
      .seatStore 0 { w0 := 0#32, w1 := 0#32, w2 := 0#32, w3 := 0#32 } (List.replicate 17 0#8) [], .stackTrainingDone 0 true [0#32], .flashReadDone true []].any Instr.wf = false := by decide +kernel

/-! ## Worked examples of the spec -/

/-- An item of one block, named by its source. -/
def tItemOf (n : Nat) : BItem := { n := 1, keys := 64, rho := Sys2Proof.Machine.Num.zero, lo := [], hi := [], src := n, kind := none }
/-- The merged list of the example "32 lanes add to one F32 word": what each lane receives, and what the word ends with. -/
def tAtom : List Word × Word := AtomOp.merge .add .f32 ((List.range 32).map (fun k => { part := 0, lane := k, val := if k = 0 then 0x4B800000#32 else 0x3F800000#32, cmp := 0#32 })) 0#32
/-- A SPREAD row over all 24 stacks. -/
def tSpread : ZRow := { id := 0, kind := .spread, table := List.replicate 1536 { eave := 0, pc := 0, idx := 40 }, retired := [], copies := [] }
def tPar (rev : Bool) : BlendPar := { reverse := rev, save := false, w := 16, h := 16, win := 0, state := 0, alphaMin := f32 0x3B808081, tStop := f32 0x38D1B717, bin := 0 }
def tFwd (px : List Word) (x : Frag) : List Word := ((tPar false).forward px x).1
/-- A pixel after one fragment of REVERSE, with the record's words 3 to 6. -/
def tBwd (px : List Word) (x : Frag) : List Word × List Word :=
  let r := (tPar true).backward px x
  (r.1, match r.2.2 with | some l => [wordAt l 3, wordAt l 4, wordAt l 5, wordAt l 6] | none => [])

/-- The example under R209: 470 overflows E4M3 to NaN, or to 448 when it saturates, and sets OVF. -/
theorem test_e4m3_470 :
    (Fmt.e4m3.encode false .rne (f32 0x43EB0000)).code = 0x7F ∧ (Fmt.e4m3.encode true .rne (f32 0x43EB0000)).code = 0x7E ∧ (Fmt.e4m3.encode true .rne (f32 0x43EB0000)).ovf = true ∧ (Fmt.e4m3.encode false .rne (f32 0x43E80000)).code = 0x7E := by decide +kernel

/-- The example "one group and its accumulation" of chapter 07. -/
theorem test_group_and_accumulation :
    (groupResult .e4m3 .e4m3 ([0x7E, 0xB6, 0x0F] ++ List.replicate 29 0) ([0x7E, 0x40, 0x0F] ++ List.replicate 29 0) 0x85 0x7A).code = 0x48C3FF90 ∧
    (accGroup 0xC4800800 (groupResult .e4m3 .e4m3 ([0x7E, 0xB6, 0x0F] ++ List.replicate 29 0) ([0x7E, 0x40, 0x0F] ++ List.replicate 29 0) 0x85 0x7A)).code = 0x48C37F88 := by decide +kernel

/-- The same example with scales 0xFE and 0x90, then 0x01 and 0x01. -/
theorem test_group_out_of_range :
    (accGroup 0xC4800800 (groupResult .e4m3 .e4m3 [0x7E, 0xB6, 0x0F] [0x7E, 0x40, 0x0F] 0xFE 0x90)).code = 0x7F800000 ∧
    (groupResult .e4m3 .e4m3 [0x7E, 0xB6, 0x0F] [0x7E, 0x40, 0x0F] 0xFE 0x90).ovf = true ∧
    (accGroup 0xC4800800 (groupResult .e4m3 .e4m3 [0x7E, 0xB6, 0x0F] [0x7E, 0x40, 0x0F] 0x01 0x01)).code = 0xC4800800 ∧
    (groupResult .e4m3 .e4m3 [0x7E, 0xB6, 0x0F] [0x7E, 0x40, 0x0F] 0x01 0x01).unf = true := by decide +kernel

/-- The example "FP32 to BF16 by each rounding mode" of chapter 07. -/
theorem test_bf16_each_rounding :
    (Fmt.bf16.encode false .rne (f32 0x3F80C000)).code = 0x3F81 ∧ xorshift32 1#32 = 0x00042021#32 ∧
    (Fmt.bf16.encode false (.sr (srBits (xorshift32 1#32))) (f32 0x3F80C000)).code = 0x3F80 ∧
    (Fmt.bf16.encode false (.sr 0x4000) (f32 0x3F80C000)).code = 0x3F81 := by decide +kernel

/-- The root's children of the example of chapter 08: u is 21, 37 and −10. -/
theorem test_node_bounds :
    f32code (upperBound [f32 0x41400000, f32 0xC0800000, f32 0x40000000] (f32 0x40800000) [(f32 0x00000000, f32 0x3F800000), (f32 0xBF000000, f32 0x3F000000), (f32 0x00000000, f32 0x40000000)] (f32 0x3F400000)) = 0x41A80000 ∧
    f32code (upperBound [f32 0x41400000, f32 0xC0800000, f32 0x40000000] (f32 0x40800000) [(f32 0x40000000, f32 0x40400000), (f32 0x00000000, f32 0x3F800000), (f32 0xBF800000, f32 0x00000000)] (f32 0x3E800000)) = 0x42140000 ∧
    f32code (upperBound [f32 0x41400000, f32 0xC0800000, f32 0x40000000] (f32 0x40800000) [(f32 0xC0000000, f32 0xBF800000), (f32 0x3F800000, f32 0x40000000), (f32 0x00000000, f32 0x3F800000)] (f32 0x3F800000)) = 0xC1200000 := by decide +kernel

/-- Key 1 of the leaf of the same example: u is 21.25 and l is 17. -/
theorem test_key_bounds :
    f32code (upperBound [f32 0x41400000, f32 0xC0800000, f32 0x40000000] (f32 0x40800000) [(f32 0x40000000, f32 0x40080000), (f32 0x3F600000, f32 0x3F800000), (f32 0xBF800000, f32 0xBF600000)] (f32 0x3E800000)) = 0x41AA0000 ∧ f32code (lowerBound [f32 0x41400000, f32 0xC0800000, f32 0x40000000] (f32 0x40800000) [(f32 0x40000000, f32 0x40080000), (f32 0x3F600000, f32 0x3F800000), (f32 0xBF800000, f32 0xBF600000)] (f32 0x3E800000)) = 0x41880000 := by decide +kernel

/-- Its mass bound, 351 × exp↑(21.25 − 32.75), is about 0.0035557, rounded up. -/
theorem test_pruned_mass :
    (f32 0x3B690512).lt ((Sys2Proof.Machine.Num.ofNat 351).mul (expUp (f32 0xC1380000))) = true ∧ ((Sys2Proof.Machine.Num.ofNat 351).mul (expUp (f32 0xC1380000))).lt (f32 0x3B69086D) = true := by decide +kernel

/-- The codes of the table "item boxes and grid values" of chapter 09. -/
theorem test_morton_codes :
    [morton [64, 64, 0, 0, 0, 0, 0, 0], morton [896, 896, 0, 0, 0, 0, 0, 0], morton [128, 160, 0, 0, 0, 0, 0, 0], morton [928, 128, 0, 0, 0, 0, 0, 0], morton [512, 512, 0, 0, 0, 0, 0, 0]] =
    [0x00000030, 0x30303000, 0x00003000, 0x20203000, 0x30000000] := by decide +kernel

/-- Its grid value of L3 and its root quantization: e_0 = 0x7B, e_1 = 0x7A, and 0x01 for a span of 0; a leaf's 256 steps reach 2 at 0x78. -/
theorem test_grid_and_steps :
    gridOf (7 * 2 ^ 149) (15 * 2 ^ 148) 0 (8 * 2 ^ 149) = 928 ∧ stepCode 255 (8 * 2 ^ 149) = 0x7B ∧ stepCode 255 (4 * 2 ^ 149) = 0x7A ∧ stepCode 255 0 = 0x01 ∧ stepCode 256 (2 * 2 ^ 149) = 0x78 ∧
    stepsOf false (2 ^ 148) 0x7B = 8 ∧ stepsOf true (3 * 2 ^ 148) 0x7B = 24 := by decide +kernel

/-- The sorted order, the binary tree and its collapse in the same example: L0, L2, L3, L4, L1, all leaves of the root. -/
theorem test_five_blocks_tree :
    (btree 5 0 (sortBy (fun x y => decide (x.1 ≤ y.1)) ([(0x00000030, 0), (0x30303000, 1), (0x00003000, 2), (0x20203000, 3), (0x30000000, 4)].map (fun x => (x.1 * 2 ^ 32 + x.2, tItemOf x.2))))).map
      (fun t => (wideChildren false 0 t).map (fun c => (c.item.src, c.isLeaf false 0))) = some [(0, true), (2, true), (3, true), (4, true), (1, true)] := by decide +kernel

/-- That example: the word ends with 16,777,246, and lanes 0, 1, 2, 4, 5 and 31 receive the values of its table. -/
theorem test_atomic_list :
    tAtom.2 = 0x4B80000F#32 ∧ [tAtom.1[0]?, tAtom.1[1]?, tAtom.1[2]?, tAtom.1[4]?, tAtom.1[5]?, tAtom.1[31]?] = [some 0#32, some 0x4B800000#32, some 0x4B800000#32, some 0x4B800001#32, some 0x4B800002#32, some 0x4B80000E#32] := by decide +kernel

/-- The example "a SPREAD granule" of chapter 15: byte 0x12345 of the sheet in slot 5, all entries zone 40. -/
theorem test_spread_granule :
    physStack 12 14 (40 * 1048576 + (tSpread.locate 5 0x12345).2) = 0x1870002801B45 ∧ (tSpread.locate 5 0x12345).1 = 348 ∧ segOf 0x1870002801B45 = 23409 ∧ eaveOf 0x1870002801B45 = 12 ∧ pcOf 0x1870002801B45 = 14 ∧ homeField 0x1870002801B45 = 4 := by decide +kernel

/-- The example "a NEAR table that does not fit its field" of chapter 14. -/
theorem test_near_order :
    (fieldsFrom 5).take 4 = [5, 1, 4, 6] ∧ [purlinCost 0 5, purlinCost 0 1, purlinCost 0 4] = [28, 24, 4 + 4] ∧ [purlinCost 3 5, purlinCost 3 1, purlinCost 3 4] = [52, 48, 76] := by decide +kernel

/-- The two addresses worked out under R511. -/
theorem test_map_addresses :
    Map.rafNcMiss 3 = 0x0013101C ∧ Map.rdgQc 4096 - 8 = 0x00310000 := by decide +kernel

/-- The example pixel of chapter 17: P, then Q. -/
theorem test_blend_pixel :
    tFwd (tFwd pixelStart { core := 0, op := 1, slot := 0, sheaf := 0, lane := 0, item := 0, x := 500, q := 17, words := [0x00000000#32, 0x3F000000#32, 0x00003C00#32, 0#32] }) { core := 0, op := 1, slot := 0, sheaf := 0, lane := 0, item := 0, x := 500, q := 17, words := [0x00000001#32, 0x3E800000#32, 0x3C000000#32, 0#32] } =
    [0x3F000000#32, 0x3E000000#32, 0#32, 0x3EC00000#32, 2#32, 2#32, 1#32, 2#32] := by decide +kernel

/-- The same pixel in reverse: Q gives dα = 0.5 and d = 0.125, P gives dα = 0.75 and d = 0.5. -/
theorem test_blend_gradient :
    (tBwd [0#32, 0#32, 0#32, 0x3EC00000#32, 0x3EC00000#32, 0x3F800000#32, 0x3F800000#32, 0x3F800000#32, 0#32, 2#32, 2#32, 0xFFFFFFFF#32] { core := 0, op := 1, slot := 0, sheaf := 0, lane := 0, item := 0, x := 500, q := 17, words := [0x00000001#32, 0x3E800000#32, 0x3C000000#32, 0#32] }).2 = [0x3F000000#32, 0x3E000000#32, 0x3E000000#32, 0x3E000000#32] ∧ (tBwd [0#32, 0#32, 0#32, 0x3EC00000#32, 0x3EC00000#32, 0x3F800000#32, 0x3F800000#32, 0x3F800000#32, 0#32, 2#32, 2#32, 0xFFFFFFFF#32] { core := 0, op := 1, slot := 0, sheaf := 0, lane := 0, item := 0, x := 500, q := 17, words := [0x00000001#32, 0x3E800000#32, 0x3C000000#32, 0#32] }).1.take 4 = [0#32, 0x3E000000#32, 0#32, 0x3F000000#32] ∧
    (tBwd (tBwd [0#32, 0#32, 0#32, 0x3EC00000#32, 0x3EC00000#32, 0x3F800000#32, 0x3F800000#32, 0x3F800000#32, 0#32, 2#32, 2#32, 0xFFFFFFFF#32] { core := 0, op := 1, slot := 0, sheaf := 0, lane := 0, item := 0, x := 500, q := 17, words := [0x00000001#32, 0x3E800000#32, 0x3C000000#32, 0#32] }).1 { core := 0, op := 1, slot := 0, sheaf := 0, lane := 0, item := 0, x := 500, q := 17, words := [0x00000000#32, 0x3F000000#32, 0x00003C00#32, 0#32] }).2 = [0x3F400000#32, 0x3F000000#32, 0x3F000000#32, 0x3F000000#32] := by decide +kernel

/-! ## Witnesses: the hypotheses of each statement are met, clause by clause -/

/-- States and operands that meet the hypotheses of MemoryCanonicalKept, clause by clause. -/
theorem witness_MemoryCanonicalKept :
    ∃ (s t : State), s.memSound ∧ step s = .next t :=
  ⟨State.reset, State.reset, ⟨rfl, rfl⟩⟩

/-- States and operands that meet the hypotheses of IdleStepIsACycle, clause by clause. -/
theorem witness_IdleStepIsACycle :
    (∃ (s : State), s.pending = [] ∧ (s.b.pins.pwrGood = true ∨ s.b.cal.ramp.isSome = true)) ∧
    (∃ (s : State), s.pending = [] ∧ (s.b.pins.pwrGood = true ∨ s.b.cal.ramp.isSome = true) ∧ (∀ x ∈ s.b.vat.sheets, x.evict = none ∧ x.waits = false)) ∧
    (∃ (s : State), s.pending = [] ∧ s.b.pins.pwrGood = false ∧ s.b.cal.ramp = none) :=
  ⟨⟨tS tB, by and_intros <;> decide +kernel⟩,
    ⟨tS tB, by and_intros <;> decide +kernel⟩,
    ⟨State.reset, by and_intros <;> decide +kernel⟩⟩

/-- States and operands that meet the hypotheses of PowerGoodEdges, clause by clause. -/
theorem witness_PowerGoodEdges :
    (∃ (s : State), s.b.pins.pwrGood = false) ∧
    (∃ (s : State), s.b.pins.pwrGood = true) :=
  ⟨⟨State.reset, by decide +kernel⟩,
    ⟨tS tB, by decide +kernel⟩⟩

/-- States and operands that meet the hypotheses of ResetPinEdges, clause by clause. -/
theorem witness_ResetPinEdges :
    (∃ (s : State), s.b.pins.rstN = true ∧ s.b.start.state ≠ .reset) ∧
    (∃ (s : State), s.b.pins.rstN = false ∧ s.b.pins.pwrGood = true ∧ s.b.start.state = .reset) ∧
    (∃ (s : State), ∃ (r : Ramp), s.b.cal.ramp = some r ∧ r.t0 + r.cycles ≤ s.b.now) :=
  ⟨⟨tS tB, by and_intros <;> decide +kernel⟩,
    ⟨tS { Block.reset with pins := { Pins.reset with pwrGood := true } }, by and_intros <;> decide +kernel⟩,
    ⟨tS (tCal (fun c => { c with ramp := some { start := 5, post := 1, t0 := 0, cycles := 9, stacksLow := true } })), { start := 5, post := 1, t0 := 0, cycles := 9, stacksLow := true }, by and_intros <;> decide +kernel⟩⟩

/-- States and operands that meet the hypotheses of RootLock, clause by clause. -/
theorem witness_RootLock :
    (∃ (s : State), ∃ (r : List Word), s.b.start.state = .starting ∧ s.b.start.phase = 2 ∧ r.length = 8 ∧ ((sliceBytes (wordsBytes r) 16 16).all (fun x => x = 0#8) = false) ∧ ((sliceBytes (wordsBytes r) 16 16).all (fun x => x = 0xFF#8) = false)) ∧
    (∃ (s : State), ∃ (r q : List Word), s.b.start.state = .starting ∧ s.b.start.phase = 2 ∧ r.length = 8 ∧ q.length = 8 ∧ r ≠ q) ∧
    (∃ (s : State), ∃ (r : List Word), s.b.start.state = .starting ∧ s.b.start.phase = 2 ∧ r.length = 8 ∧ ((sliceBytes (wordsBytes r) 16 16).all (fun x => x = 0#8) = true ∨ (sliceBytes (wordsBytes r) 16 16).all (fun x => x = 0xFF#8) = true)) ∧
    (∃ (s : State), s.b.start.state = .starting ∧ s.b.start.phase = 2 ∧ s.b.start.seqAt + 200000 ≤ s.b.now) ∧
    (∃ (s : State), s.b.start.locked = true ∧ s.b.start.state ≠ .reset) :=
  ⟨⟨tS (tStart (fun x => { x with state := .starting, phase := 2 })), [1#32, 2#32, 3#32, 4#32, 5#32, 6#32, 7#32, 8#32], by and_intros <;> decide +kernel⟩,
    ⟨tS (tStart (fun x => { x with state := .starting, phase := 2 })), List.replicate 8 1#32, List.replicate 8 2#32, by and_intros <;> decide +kernel⟩,
    ⟨tS (tStart (fun x => { x with state := .starting, phase := 2 })), List.replicate 8 0#32, by and_intros <;> decide +kernel⟩,
    ⟨tS (tStart (fun x => { x with state := .starting, phase := 2 })), by and_intros <;> decide +kernel⟩,
    ⟨tS tB, by and_intros <;> decide +kernel⟩⟩

/-- States and operands that meet the hypotheses of FlashReads, clause by clause. -/
theorem witness_FlashReads :
    (∃ (s : State), ∃ (second : Bool), ∃ (l : List Byte), s.b.start.reading = some second ∧ s.b.start.flWait = false ∧ (s.b.start.buf ++ sliceBytes l 0 4096).length < readLength (s.b.start.buf ++ sliceBytes l 0 4096)) ∧
    (∃ (s : State), ∃ (second : Bool), ∃ (l img : List Byte), ∃ (code : Nat), ∃ (off : Option Nat), s.b.start.reading = some second ∧ s.b.start.flWait = false ∧ readLength (s.b.start.buf ++ sliceBytes l 0 4096) ≤ (s.b.start.buf ++ sliceBytes l 0 4096).length ∧ img = (s.b.start.buf ++ sliceBytes l 0 4096).take (readLength (s.b.start.buf ++ sliceBytes l 0 4096)) ∧ imgCheck img s.b.keyHash = (code, off)) ∧
    (∃ (s : State), s.b.start.flWait = false ∧ s.b.start.readAt + 40000000 ≤ s.b.now ∧ s.b.start.reading = some false) ∧
    (∃ (s : State), s.b.start.flWait = false ∧ s.b.start.readAt + 40000000 ≤ s.b.now ∧ s.b.start.reading = some true) ∧
    (∃ (s : State), s.b.start.flWait = false ∧ s.b.start.spiNow = false ∧ s.b.start.imgAt + 18980000 ≤ s.b.now ∧ s.b.start.reading = some false) ∧
    (∃ (s : State), s.b.start.flWait = false ∧ s.b.start.spiNow = false ∧ s.b.start.imgAt + 18980000 ≤ s.b.now ∧ s.b.start.reading = some true) ∧
    (∃ (s : State), s.b.start.flWait = false ∧ s.b.start.reading.isSome = true) :=
  ⟨⟨tS (tStart (fun x => { x with state := .starting, phase := 3, reading := some false })), false, leBytes 4 0x564F4C50 ++ leBytes 4 3 ++ leBytes 4 3 ++ leBytes 4 65536 ++ leBytes 4 0 ++ leBytes 4 8 ++ List.replicate 100 0#8, by and_intros <;> decide +kernel⟩,
    ⟨tS (tStart (fun x => { x with state := .starting, phase := 3, reading := some false })), false, List.replicate 4096 0#8, List.replicate 4096 0#8, 3, some 0, by and_intros <;> decide +kernel⟩,
    ⟨tS (tStart (fun x => { x with state := .starting, phase := 3, reading := some false })), by and_intros <;> decide +kernel⟩,
    ⟨tS (tStart (fun x => { x with state := .starting, phase := 3, reading := some true })), by and_intros <;> decide +kernel⟩,
    ⟨tS (tStart (fun x => { x with state := .starting, phase := 3, reading := some false })), by and_intros <;> decide +kernel⟩,
    ⟨tS (tStart (fun x => { x with state := .starting, phase := 3, reading := some true })), by and_intros <;> decide +kernel⟩,
    ⟨tS (tStart (fun x => { x with state := .starting, phase := 3, reading := some false })), by and_intros <;> decide +kernel⟩⟩

/-- States and operands that meet the hypotheses of StartPhases, clause by clause. -/
theorem witness_StartPhases :
    (∃ (s : State), s.b.start.state = .starting ∧ s.b.start.phase = 1) ∧
    (∃ (s : State), ∃ g, s.b.start.state = .starting ∧ s.b.start.phase = 3 ∧ s.b.start.reading = none ∧ s.b.start.img = some g) ∧
    (∃ (s : State), ∃ g, s.b.start.state = .starting ∧ s.b.start.phase = 4 ∧ s.b.start.img = some g ∧ s.b.phaseReady = true) ∧
    (∃ (s : State), ∃ g, s.b.start.state = .starting ∧ s.b.start.phase = 7 ∧ s.b.start.img = some g) ∧
    (∃ (s : State), ∃ g, s.b.start.state = .starting ∧ s.b.start.phase = 5 ∧ s.b.toTrain = [] ∧ s.b.start.img = some g ∧ s.b.feltFits g = true) ∧
    (∃ (s : State), ∃ g, s.b.start.state = .starting ∧ s.b.start.phase = 5 ∧ s.b.toTrain = [] ∧ s.b.start.img = some g ∧ s.b.feltFits g = false) ∧
    (∃ (s : State), ∃ g, s.b.start.state = .starting ∧ s.b.start.phase = 6 ∧ s.b.start.img = some g ∧ s.b.gutterFits g = true) ∧
    (∃ (s : State), ∃ g, s.b.start.state = .starting ∧ s.b.start.phase = 6 ∧ s.b.start.img = some g ∧ s.b.gutterFits g = false) ∧
    (∃ (s : State), ∃ g, s.b.start.state = .starting ∧ s.b.start.phase = 8 ∧ s.b.start.img = some g) :=
  ⟨⟨tS (tStart (fun x => { x with state := .starting, phase := 1 })), by and_intros <;> decide +kernel⟩,
    ⟨tS (tStart (fun x => { x with state := .starting, phase := 3 })), tImg, by and_intros <;> decide +kernel⟩,
    ⟨tS { tStart (fun x => { x with state := .starting, phase := 4 }) with screen := { Screen.reset with groups := (List.range 256).map (fun g => (g, .ended 0)) } }, tImg, by and_intros <;> decide +kernel⟩,
    ⟨tS (tStart (fun x => { x with state := .starting, phase := 7 })), tImg, by and_intros <;> decide +kernel⟩,
    ⟨tS { tStart (fun x => { x with state := .starting, phase := 5, trained := List.range 24 }) with mem := [(5, 7#8), (2 ^ 50, 3#8)] }, tImg, by and_intros <;> decide +kernel⟩,
    ⟨tS (tStart (fun x => { x with state := .starting, phase := 5, trained := List.range 24, img := some { tImg with rayState := 400 } })), { tImg with rayState := 400 }, by and_intros <;> decide +kernel⟩,
    ⟨tS (tStart (fun x => { x with state := .starting, phase := 6 })), tImg, by and_intros <;> decide +kernel⟩,
    ⟨tS { tStart (fun x => { x with state := .starting, phase := 6, img := some { tImg with tenants := [{ tTenant with gutter := 1000000 }] } }) with vat := tB.vat }, { tImg with tenants := [{ tTenant with gutter := 1000000 }] }, by and_intros <;> decide +kernel⟩,
    ⟨tS (tStart (fun x => { x with state := .starting, phase := 8 })), tImg, by and_intros <;> decide +kernel⟩⟩

/-- States and operands that meet the hypotheses of PhaseBudgets, clause by clause. -/
theorem witness_PhaseBudgets :
    (∃ (s : State), ((s.b.start.state = .starting ∧ s.b.start.phase = 4) ∨ s.b.start.qTests = true) ∧ s.b.start.phaseAt + 400000000 ≤ s.b.now) ∧
    (∃ (s : State), s.b.start.state = .starting ∧ s.b.start.phase = 5 ∧ s.b.start.qTests = false ∧ s.b.start.phaseAt + 280000000 ≤ s.b.now) ∧
    (∃ (s : State), s.b.start.state = .starting ∧ s.b.start.phase = 7 ∧ s.b.start.qTests = false ∧ s.b.start.phaseAt + 76000000 ≤ s.b.now) ∧
    (∃ (s : State), ∃ (f t0 : Nat), s.b.start.waking = some (f, t0) ∧ t0 + 8000 ≤ s.b.now) ∧
    (∃ (s : State), ∃ (k t0 : Nat), ∃ (ident : List Word), ∃ (g : Image), k < 24 ∧ s.b.eaves.length = 24 ∧ ident.length = 4 ∧ (k, t0) ∈ s.b.start.training ∧ s.b.start.img = some g ∧ Config.stackKind ident = (g.height, g.density, g.pinRate)) ∧
    (∃ (s : State), ∃ (k t0 : Nat), ∃ (passed : Bool), ∃ (ident : List Word), k < 24 ∧ s.b.eaves.length = 24 ∧ ident.length = 4 ∧ (k, t0) ∈ s.b.start.training ∧ (passed = false ∨ ∀ g, s.b.start.img = some g → Config.stackKind ident ≠ (g.height, g.density, g.pinRate))) :=
  ⟨⟨tS (tStart (fun x => { x with state := .starting, phase := 4, woken := [3] })), by and_intros <;> decide +kernel⟩,
    ⟨tS (tStart (fun x => { x with state := .starting, phase := 5, trained := List.range 23 })), by and_intros <;> decide +kernel⟩,
    ⟨tS (tStart (fun x => { x with state := .starting, phase := 7 })), by and_intros <;> decide +kernel⟩,
    ⟨tS (tStart (fun x => { x with state := .starting, phase := 4, waking := some (3, 5) })), 3, 5, by and_intros <;> decide +kernel⟩,
    ⟨tS (tStart (fun x => { x with state := .starting, phase := 5, training := [(23, 5)], img := some { tImg with height := (Config.stackKind (List.replicate 4 1#32)).1, density := (Config.stackKind (List.replicate 4 1#32)).2.1, pinRate := (Config.stackKind (List.replicate 4 1#32)).2.2 } })), 23, 5, List.replicate 4 1#32, { tImg with height := (Config.stackKind (List.replicate 4 1#32)).1, density := (Config.stackKind (List.replicate 4 1#32)).2.1, pinRate := (Config.stackKind (List.replicate 4 1#32)).2.2 }, by decide +kernel, by decide +kernel, by decide +kernel, by decide +kernel, rfl, rfl⟩,
    ⟨tS (tStart (fun x => { x with state := .starting, phase := 5, training := [(23, 5)] })), 23, 5, false, List.replicate 4 1#32, by and_intros <;> decide +kernel⟩⟩

/-- States and operands that meet the hypotheses of StartCommands, clause by clause. -/
theorem witness_StartCommands :
    (∃ (s : State), ∃ (key : BitVec 16), ∃ c, s.b.pins.pwrGood = true ∧ key ≠ 0x4B4C#16 ∧ c ∈ [Instr.restart key, .enterMaint key, .exitMaint key]) ∧
    (∃ (s : State), s.b.pins.pwrGood = true ∧ (s.b.start.state = .quarantine ∨ s.b.start.state = .maintenance)) ∧
    (∃ (s : State), ∃ c, s.b.pins.pwrGood = true ∧ s.b.start.state = .starting ∧ c ∈ [Instr.restart 0x4B4C#16, .enterMaint 0x4B4C#16, .exitMaint 0x4B4C#16]) ∧
    (∃ (s : State), s.b.pins.pwrGood = true ∧ s.b.start.state = .opened ∧ s.b.start.drainAt = none) ∧
    (∃ (s : State), s.b.pins.pwrGood = true ∧ s.b.start.state = .maintenance) ∧
    (∃ (s : State), s.b.start.drainAt.isSome = true ∧ (∀ r ∈ s.b.runs, r.phase = .waiting)) ∧
    (∃ (s : State), ∃ (t0 : Nat), ∃ (g : Image), s.b.start.drainAt = some t0 ∧ s.b.start.img = some g ∧ t0 + g.maintDrain ≤ s.b.now) :=
  ⟨⟨tS tB, 7#16, .restart 7#16, by and_intros <;> decide +kernel⟩,
    ⟨tS (tStart (fun x => { x with state := .quarantine })), by and_intros <;> decide +kernel⟩,
    ⟨tS (tStart (fun x => { x with state := .starting, phase := 4 })), .enterMaint 0x4B4C#16, by and_intros <;> decide +kernel⟩,
    ⟨tS { tB with runs := [{ tRun [] [] with phase := .waiting }] }, by and_intros <;> decide +kernel⟩,
    ⟨tS (tStart (fun x => { x with state := .maintenance })), by and_intros <;> decide +kernel⟩,
    ⟨tS (tStart (fun x => { x with drainAt := some 0 })), by and_intros <;> decide +kernel⟩,
    ⟨tS { tStart (fun x => { x with drainAt := some 0 }) with runs := [tRun [] []] }, 0, tImg, by and_intros <;> decide +kernel⟩⟩

/-- States and operands that meet the hypotheses of CattripIsFatal, clause by clause. -/
theorem witness_CattripIsFatal :
    ∃ (s : State), ∃ (k : Nat), s.b.pins.pwrGood = true ∧ k < 24 :=
  ⟨tS tB, 23, by and_intros <;> decide +kernel⟩

/-- States and operands that meet the hypotheses of SeatLinkFaults, clause by clause. -/
theorem witness_SeatLinkFaults :
    (∃ (s : State), ∃ (n bits t0 : Nat), ∃ c, n < 8 ∧ (s.b.seat n).state = .opened ∧ 2 ≤ bits ∧ (s.b.seat n).creditAt = some t0 ∧ (s.b.seat n).outq ≠ [] ∧ s.b.seatCreditTo ≤ s.b.ctlSince t0 ∧ c ∈ [Instr.seatAlert n, .seatUncorrectableLinkError n bits, .seatCreditTimeout n]) ∧
    (∃ (s : State), ∃ (n : Nat), n < 8 ∧ (s.b.seat n).state = .opened) :=
  ⟨⟨tS (tSt0 (fun x => { x with creditAt := some 0, outq := [{ kind := 3, hdr := mkHdr 3 0 1 0 0 0 0, data := [], cells := 1, sent := 0, run := none }] })), 0, 2, 0, .seatCreditTimeout 0, by and_intros <;> decide +kernel⟩,
    ⟨tS tB, 7, by and_intros <;> decide +kernel⟩⟩

/-- States and operands that meet the hypotheses of SeatLinkReopens, clause by clause. -/
theorem witness_SeatLinkReopens :
    (∃ (s : State), ∃ (n : Nat), n < 8 ∧ (s.b.seat n).state = .fault ∧ (s.b.seat n).stages = [] ∧ s.b.serving = true) ∧
    (∃ (s : State), ∃ (n : Nat), ∃ (w : StageWait), n < 8 ∧ (s.b.seat n).state = .fault ∧ (s.b.seat n).stages = [w] ∧ (s.b.seat n).outq = [] ∧ (s.b.seat n).respCr = 0 ∧ (s.b.seat n).creditAt = none ∧ s.b.serving = true) ∧
    (∃ (s : State), ∃ (n : Nat), n < 8 ∧ (s.b.seat n).state = .fault) ∧
    (∃ (s : State), ∃ (n k : Nat), n < 8 ∧ (s.b.seat n).state = .opened ∧ s.b.serving = true ∧ (s.b.seat n).outq = [] ∧ (k = (if (s.b.owner n).any (fun t => s.b.admissionHeld t) then 0 else (s.b.seat n).cmdRet))) ∧
    (∃ (s : State), ∃ (n : Nat), ∃ (p : SeatOut), n < 8 ∧ (s.b.seat n).state = .opened ∧ s.b.serving = true ∧ (s.b.seat n).outq = [p] ∧ p.cells = 1 ∧ p.sent = 0 ∧ (s.b.seat n).respCr = 0) ∧
    (∃ (s : State), ∃ (n : Nat), n < 8 ∧ (s.b.seat n).state = .fault) :=
  ⟨⟨tS (tSt0 (fun x => { x with state := .fault })), 0, by and_intros <;> decide +kernel⟩,
    ⟨tS (tSt0 (fun x => { x with state := .fault, respCr := 0, stages := [{ tenant := 0, handle := 1#32, stage := 1, armed := 0 }] })), 0, { tenant := 0, handle := 1#32, stage := 1, armed := 0 }, by and_intros <;> decide +kernel⟩,
    ⟨tS (tSt0 (fun x => { x with state := .fault })), 0, by and_intros <;> decide +kernel⟩,
    ⟨tS tB, 7, 0, by and_intros <;> decide +kernel⟩,
    ⟨tS (tSt0 (fun x => { x with respCr := 0, outq := [{ kind := 3, hdr := mkHdr 3 0 1 0 0 0 0, data := [], cells := 1, sent := 0, run := none }] })), 0, { kind := 3, hdr := mkHdr 3 0 1 0 0 0 0, data := [], cells := 1, sent := 0, run := none }, by and_intros <;> decide +kernel⟩,
    ⟨tS (tSt0 (fun x => { x with state := .fault })), 0, by and_intros <;> decide +kernel⟩⟩

/-- States and operands that meet the hypotheses of SeatLoads, clause by clause. -/
theorem witness_SeatLoads :
    (∃ (s : State), ∃ (n : Nat), ∃ (h : SeatHdr), n < 8 ∧ (s.b.seat n).state = .opened ∧ h.kind = 1 ∧ h.ok = true ∧ 0 < (s.b.seat n).loadCr) ∧
    (∃ (s : State), ∃ (n t pa : Nat), ∃ (h : SeatHdr), n < 8 ∧ (s.b.seat n).state = .opened ∧ h.kind = 1 ∧ h.ok = true ∧ 0 < (s.b.seat n).loadCr ∧ s.b.owner n = some t ∧ (s.b.seat n).ops = [] ∧ h.addr % 64 + h.size ≤ 64 ∧ s.b.vat.translate t h.addr .load = .ok pa ∧ regionOf pa = 1 ∧ s.b.stays t h.addr ∧ s.b.feltBadIn pa h.size = []) ∧
    (∃ (s : State), ∃ (n : Nat), ∃ (o : MemOp), n < 8 ∧ (s.b.seat n).state = .opened ∧ s.b.serving = true ∧ (s.b.seat n).ops = [o] ∧ o.store = false ∧ o.acted = true ∧ o.status = 0 ∧ s.b.readsOut (.seat n o.num) = false ∧ (s.b.seat n).outq = [] ∧ (s.b.seat n).respCr = 0 ∧ (s.b.seat n).creditAt = none) ∧
    (∃ (s : State), ∃ (n : Nat), ∃ (o : MemOp), n < 8 ∧ (s.b.seat n).state = .opened ∧ s.b.serving = true ∧ (s.b.seat n).ops = [o] ∧ o.store = false ∧ o.acted = true ∧ o.status ≠ 0 ∧ s.b.readsOut (.seat n o.num) = false ∧ (s.b.seat n).outq = [] ∧ (s.b.seat n).respCr = 0 ∧ (s.b.seat n).creditAt = none) :=
  ⟨⟨tS tB, 7, { w0 := 0x00010001#32, w1 := 0x200008#32, w2 := 0x00080000#32, w3 := 0#32 }, by and_intros <;> decide +kernel⟩,
    ⟨tS tB, 0, 0, physFelt 0 8, { w0 := 0x00010001#32, w1 := 0x200008#32, w2 := 0x00080000#32, w3 := 0#32 }, by and_intros <;> first | decide +kernel | exact rfl | exact ⟨rfl, rfl, rfl, by decide⟩ | (unfold Block.noneWaits; decide +kernel) | (intro x h; cases h; done)⟩,
    ⟨tS (tSt0 (fun x => { x with respCr := 0, ops := [{ num := 0, store := false, addr := 0x200000, size := 8, tag := 1#16, ack := false, data := [1#8, 2#8], acted := true, status := 0 }] })), 0, { num := 0, store := false, addr := 0x200000, size := 8, tag := 1#16, ack := false, data := [1#8, 2#8], acted := true, status := 0 }, by and_intros <;> decide +kernel⟩,
    ⟨tS (tSt0 (fun x => { x with respCr := 0, ops := [{ num := 0, store := false, addr := 0x200000, size := 8, tag := 1#16, ack := false, data := [], acted := true, status := 2 }] })), 0, { num := 0, store := false, addr := 0x200000, size := 8, tag := 1#16, ack := false, data := [], acted := true, status := 2 }, by and_intros <;> decide +kernel⟩⟩

/-- States and operands that meet the hypotheses of SeatStores, clause by clause. -/
theorem witness_SeatStores :
    (∃ (s : State), ∃ (n t pa : Nat), ∃ (h : SeatHdr), ∃ (cells : List Byte), s.memSound ∧ n < 8 ∧ (s.b.seat n).state = .opened ∧ h.kind = 2 ∧ h.ok = true ∧ 1 + h.ncells ≤ (s.b.seat n).storeCr ∧ s.b.owner n = some t ∧ (s.b.seat n).ops = [] ∧ h.addr % 64 + h.size ≤ 64 ∧ h.size ≤ cells.length ∧ s.b.vat.translate t h.addr .store = .ok pa ∧ regionOf pa = 1 ∧ s.b.stays t h.addr ∧ s.b.feltBadIn pa h.size = []) ∧
    (∃ (s : State), ∃ (n : Nat), ∃ (o : MemOp), n < 8 ∧ (s.b.seat n).ops = [o] ∧ o.store = true ∧ o.acted = true ∧ o.status = 0 ∧ o.ack = false ∧ (s.b.seat n).cmds = [] ∧ (∀ t, s.b.owner n = some t → s.b.parWaits t o.addr o.size = false)) ∧
    (∃ (s : State), ∃ (n : Nat), ∃ (h : SeatHdr), n < 8 ∧ (s.b.seat n).state = .opened ∧ h.kind = 5 ∧ h.ok = true ∧ 1 + h.ncells ≤ (s.b.seat n).cmdCr ∧ (s.b.seat n).ops = [] ∧ (s.b.seat n).cmds = []) ∧
    (∃ (s : State), ∃ (n : Nat), ∃ (h : SeatHdr), n < 8 ∧ (s.b.seat n).state = .opened ∧ (h.kind = 2 ∧ (s.b.seat n).storeCr < 1 + h.ncells ∨ h.kind = 5 ∧ (s.b.seat n).cmdCr < 1 + h.ncells)) :=
  ⟨⟨tS tB, 0, 0, physFelt 0 8, { w0 := 0x00010012#32, w1 := 0x200008#32, w2 := 0x00080000#32, w3 := 0#32 }, List.replicate 16 9#8, by and_intros <;> first | decide +kernel | exact rfl | exact ⟨rfl, rfl, rfl, by decide⟩ | (unfold Block.noneWaits; decide +kernel) | (intro x h; cases h; done)⟩,
    ⟨tS (tSt0 (fun x => { x with ops := [{ num := 0, store := true, addr := 0x200000, size := 8, tag := 1#16, ack := false, data := [1#8, 2#8], acted := true, status := 0 }] })), 0, { num := 0, store := true, addr := 0x200000, size := 8, tag := 1#16, ack := false, data := [1#8, 2#8], acted := true, status := 0 }, by and_intros <;> decide +kernel⟩,
    ⟨tS tB, 0, { w0 := 0x45#32, w1 := 0#32, w2 := 0#32, w3 := 0#32 }, by and_intros <;> decide +kernel⟩,
    ⟨tS (tSt0 (fun x => { x with cmdCr := 1 })), 0, { w0 := 0x45#32, w1 := 0#32, w2 := 0#32, w3 := 0#32 }, by and_intros <;> decide +kernel⟩⟩

/-- States and operands that meet the hypotheses of SeatStages, clause by clause. -/
theorem witness_SeatStages :
    (∃ (s : State), ∃ (n t k : Nat), ∃ (h : SeatHdr), ∃ (w : StageWait), ∃ (r : Run), n < 8 ∧ (s.b.seat n).state = .opened ∧ h.kind = 7 ∧ h.ok = true ∧ s.b.owner n = some t ∧ w.tenant = t ∧ w.handle = h.w1 ∧ w.stage = wfield h.w2 0 16 ∧ (s.b.seat n).stages = [w] ∧ wfield h.w2 0 16 = k + 1 ∧ s.b.runs = [r] ∧ r.ref = { tenant := t, handle := h.w1 } ∧ r.phase = .staging (k + 1) [n]) ∧
    (∃ (s : State), ∃ (n t : Nat), ∃ (h : SeatHdr), ∃ (w : StageWait), ∃ (r : Run), n < 8 ∧ (s.b.seat n).state = .opened ∧ h.kind = 7 ∧ h.ok = true ∧ s.b.owner n = some t ∧ w.tenant = t ∧ w.handle = h.w1 ∧ w.stage = 0 ∧ wfield h.w2 0 16 = 0 ∧ (s.b.seat n).stages = [w] ∧ s.b.runs = [r] ∧ r.ref = { tenant := t, handle := h.w1 } ∧ r.phase = .staging 0 [n] ∧ r.pkt.cpl = false) ∧
    (∃ (s : State), ∃ (n t : Nat), ∃ (h : SeatHdr), n < 8 ∧ (s.b.seat n).state = .opened ∧ h.kind = 7 ∧ h.ok = true ∧ s.b.owner n = some t ∧ (s.b.seat n).stages = [] ∧ s.b.ended = [] ∧ s.b.runs = []) ∧
    (∃ (s : State), ∃ (n t : Nat), ∃ (handle : Word), ∃ (w : StageWait), ∃ (r : Run), n < 8 ∧ (s.b.seat n).state ≠ .fault ∧ (s.b.seat n).stages = [w] ∧ w.tenant = t ∧ w.handle = handle ∧ s.b.seatCreditTo ≤ s.b.ctlSince w.armed ∧ s.b.runs = [r] ∧ r.ref = { tenant := t, handle := handle } ∧ r.killed = none) :=
  ⟨⟨tS { tSt0 (fun x => { x with stages := [{ tenant := 0, handle := 1#32, stage := 1, armed := 0 }] }) with runs := [{ tRun [] [] with nstage := 2, phase := .staging 1 [0] }] }, 0, 0, 0, { w0 := 0x7#32, w1 := 1#32, w2 := 1#32, w3 := 0#32 }, { tenant := 0, handle := 1#32, stage := 1, armed := 0 }, { tRun [] [] with nstage := 2, phase := .staging 1 [0] }, by and_intros <;> decide +kernel⟩,
    ⟨tS { tSt0 (fun x => { x with stages := [{ tenant := 0, handle := 1#32, stage := 0, armed := 0 }] }) with runs := [{ tRun [] [] with nstage := 2, phase := .staging 0 [0] }] }, 0, 0, { w0 := 0x7#32, w1 := 1#32, w2 := 0#32, w3 := 0#32 }, { tenant := 0, handle := 1#32, stage := 0, armed := 0 }, { tRun [] [] with nstage := 2, phase := .staging 0 [0] }, by and_intros <;> decide +kernel⟩,
    ⟨tS tB, 0, 0, { w0 := 0x7#32, w1 := 1#32, w2 := 1#32, w3 := 0#32 }, by and_intros <;> decide +kernel⟩,
    ⟨tS { tSt0 (fun x => { x with stages := [{ tenant := 0, handle := 1#32, stage := 1, armed := 0 }] }) with runs := [{ tRun [] [] with nstage := 2, phase := .staging 1 [0] }] }, 0, 0, 1#32, { tenant := 0, handle := 1#32, stage := 1, armed := 0 }, { tRun [] [] with nstage := 2, phase := .staging 1 [0] }, by and_intros <;> decide +kernel⟩⟩

/-- States and operands that meet the hypotheses of GableSlots, clause by clause. -/
theorem witness_GableSlots :
    (∃ (s : State), ∃ (p k off : Nat), ∃ (l : List Byte), p < 12 ∧ k < 4096 ∧ off + l.length ≤ 4092 ∧ s.b.hostOpen p = true ∧ ((s.b.gable p).slot k).committed = false) ∧
    (∃ (s : State), ∃ (p k off : Nat), ∃ (l : List Byte), ∃ (w : Word), ∃ c, p < 12 ∧ k < 4096 ∧ off + l.length ≤ 4092 ∧ s.b.hostOpen p = true ∧ ((s.b.gable p).slot k).committed = true ∧ c ∈ [Instr.gabSlotWrite p k off l, .gabCommit p k w]) ∧
    (∃ (s : State), ∃ (p k off : Nat), ∃ (l : List Byte), s.b.hostOpen p = true ∧ (4096 ≤ k ∨ 4092 < off + l.length)) ∧
    (∃ (s : State), ∃ (p k : Nat), p < 12 ∧ k < 4096 ∧ s.b.hostOpen p = true ∧ s.b.serving = true ∧ ((s.b.gable p).ringSize = 0 ∨ (s.b.gable p).held = []) ∧ ((s.b.gable p).slot k).committed = false ∧ (s.b.gable p).waiting = [] ∧ (∀ t, s.b.owner (8 + p) = some t → s.b.admissionHeld t = false)) ∧
    (∃ (s : State), ∃ (p : Nat), p < 12 ∧ s.b.hostOpen p = true) :=
  ⟨⟨tS tB, 11, 4095, 4090, [1#8, 2#8], by and_intros <;> decide +kernel⟩,
    ⟨tS (tB.modGable 11 (fun x => { x with slots := [(5, { bytes := [], committed := true })] })), 11, 5, 4090, [1#8, 2#8], 1#32, .gabCommit 11 5 1#32, by and_intros <;> decide +kernel⟩,
    ⟨tS tB, 11, 5, 4090, [1#8, 2#8, 3#8], by and_intros <;> decide +kernel⟩,
    ⟨tS tB, 11, 4095, by and_intros <;> decide +kernel⟩,
    ⟨tS tB, 11, by and_intros <;> decide +kernel⟩⟩

/-- States and operands that meet the hypotheses of GableRings, clause by clause. -/
theorem witness_GableRings :
    (∃ (s : State), ∃ (p : Nat), ∃ (v : Word), p < 12 ∧ s.b.hostOpen p = true ∧ (s.b.gable p).held = [] ∧ 16 ≤ v.toNat ∧ v.toNat ≤ 28) ∧
    (∃ (s : State), ∃ (p : Nat), ∃ (v : Word), p < 12 ∧ s.b.hostOpen p = true ∧ (v.toNat < 16 ∨ 28 < v.toNat)) ∧
    (∃ (s : State), ∃ (p : Nat), ∃ (v : Word), ∃ (e : RingEntry), p < 12 ∧ s.b.hostOpen p = true ∧ (s.b.gable p).held = [e] ∧ 16 ≤ (s.b.gable p).ringSize ∧ (s.b.gable p).ringTail + e.bytes.length < 2 ^ (s.b.gable p).ringSize ∧ v.toNat = (s.b.gable p).ringTail ∧ e.bytes.length < 2 ^ (s.b.gable p).ringSize - 1) :=
  ⟨⟨tS tB, 11, 28#32, by and_intros <;> decide +kernel⟩,
    ⟨tS tB, 11, 29#32, by and_intros <;> decide +kernel⟩,
    ⟨tS (tB.modGable 11 (fun x => { x with ringSize := 16, ringTail := 65472, ringHead := 65504, held := [{ bytes := List.replicate 32 1#8, event := false, run := none }] })), 11, 65472#32, { bytes := List.replicate 32 1#8, event := false, run := none }, by and_intros <;> decide +kernel⟩⟩

/-- States and operands that meet the hypotheses of GableResets, clause by clause. -/
theorem witness_GableResets :
    (∃ (s : State), ∃ (p : Nat), p < 12 ∧ p < s.b.gables.length ∧ (s.b.gable p).far = false) ∧
    (∃ (s : State), ∃ (p : Nat), ∃ (g : Image), p < 12 ∧ p < s.b.gables.length ∧ (s.b.gable p).far = false ∧ s.b.phyGPassed p = true ∧ s.b.start.img = some g ∧ g.gabEnable.getLsbD p = true ∧ (s.b.owner (8 + p)).isSome = true ∧ s.b.serving = true ∧ (s.b.gable p).opened = false) ∧
    (∃ (s : State), s.b.pins.pwrGood = true ∧ s.b.pins.mgMode = false) ∧
    (∃ (s : State), s.b.pins.mgMode = true) ∧
    (∃ (k : Nat), k < 24) :=
  ⟨⟨tS tB, 11, by and_intros <;> decide +kernel⟩,
    ⟨tS { tB.modGable 11 (fun x => { x with opened := false, perstN := false }) with screen := { tB.screen with groups := [(32 * gableField 11 + 5, .ended 0)] } }, 11, tImg, by and_intros <;> decide +kernel⟩,
    ⟨tS tB, by and_intros <;> decide +kernel⟩,
    ⟨tS { tB with pins := { tB.pins with mgMode := true } }, by decide +kernel⟩,
    ⟨23, by decide +kernel⟩⟩

/-- States and operands that meet the hypotheses of RegisterWrites, clause by clause. -/
theorem witness_RegisterWrites :
    (∃ (s : State), ∃ (a : Nat), s.b.pins.pwrGood = true ∧ a % 4 = 0 ∧ regAccess a = some .rw1c ∧ runtimeSet a = false ∧ s.b.setFrozen a = false) ∧
    (∃ (s : State), ∃ (a n : Nat), (n ≠ 4 ∨ a % 4 ≠ 0 ∨ regAccess a = none ∨ regAccess a = some .ro ∨ regAccess a = some .rc ∨ regAccess a = some .rwi ∨ runtimeSet a = true ∨ s.b.setFrozen a = true)) ∧
    (∃ (s : State), s.b.pins.pwrGood = true) ∧
    (∃ (s : State), ∃ (p : Nat), s.b.hostOpen p = true) :=
  ⟨⟨tS (tB.setErr 0x2020 6#32), 0x2020, by and_intros <;> decide +kernel⟩,
    ⟨tS tB, 0x1000, 4, by decide +kernel⟩,
    ⟨tS tB, by decide +kernel⟩,
    ⟨tS (tB.modGable 11 (fun x => { x with err := 7#32 })), 11, by decide +kernel⟩⟩

/-- States and operands that meet the hypotheses of ClearingReads, clause by clause. -/
theorem witness_ClearingReads :
    (∃ (s : State), ∃ (a : Nat), s.b.pins.pwrGood = true ∧ a % 4 = 0 ∧ regAccess a = some .rc ∧ telMaxSlot a = none) ∧
    (∃ (s : State), ∃ (a i : Nat), s.b.pins.pwrGood = true ∧ a % 4 = 0 ∧ regAccess a = some .rc ∧ telMaxSlot a = some i) ∧
    (∃ (s : State), ∃ (a : Nat), s.b.pins.pwrGood = true ∧ a % 4 = 0 ∧ regAccess a ≠ some .rc) ∧
    (∃ (s : State), ∃ (a n : Nat), s.b.pins.pwrGood = true ∧ (n ≠ 4 ∨ a % 4 ≠ 0)) ∧
    (∃ (s : State), ∃ (p a : Nat), s.b.hostOpen p = true ∧ a % 4 = 0) :=
  ⟨⟨tS (tB.bump 0x3040 3), 0x3040, by and_intros <;> decide +kernel⟩,
    ⟨tS { tB with tel := { tB.tel with slots := modAt tB.tel.slots 15 (fun x => { x with max := 9#32 }) } }, 0x61FC, 15, by and_intros <;> decide +kernel⟩,
    ⟨tS tB, 0x1000, by and_intros <;> decide +kernel⟩,
    ⟨tS tB, 0x3040, 8, by and_intros <;> decide +kernel⟩,
    ⟨tS tB, 11, 16, by and_intros <;> decide +kernel⟩⟩

/-- States and operands that meet the hypotheses of RuntimeSettings, clause by clause. -/
theorem witness_RuntimeSettings :
    (∃ (s : State), ∃ (t : Nat), s.b.serving = true ∧ t < 16 ∧ s.b.vat.tenants.length = 16) ∧
    (∃ (s : State), s.b.serving = true) ∧
    (∃ (s : State), ∃ (v : Word), s.b.serving = true ∧ v.toNat % 2 ^ 24 ≠ 0) ∧
    (∃ (s : State), ∃ (v : Word), s.b.serving = true ∧ v.toNat % 2 = 1 ∧ s.b.tel.enable = false) ∧
    (∃ (s : State), ∃ (i : Nat), ∃ (v : Word), s.b.serving = true ∧ i < 16 ∧ v.toNat % 4 = 0) ∧
    (∃ (s : State), ∃ (v : Word), s.b.serving = true ∧ v.toNat % 2 = 0) ∧
    (∃ (s : State), ∃ (a : Nat), ∃ (v : Word), ∃ c, s.b.serving = false ∧ c ∈ [Instr.runtimeSettingWrite a v, .telemetryConfigWrite a v]) :=
  ⟨⟨tS tB, 15, by and_intros <;> decide +kernel⟩,
    ⟨tS tB, by decide +kernel⟩,
    ⟨tS tB, 5#32, by and_intros <;> decide +kernel⟩,
    ⟨tS tB, 1#32, by and_intros <;> decide +kernel⟩,
    ⟨tS tB, 15, 0x3040#32, by and_intros <;> decide +kernel⟩,
    ⟨tS tB, 2#32, by and_intros <;> decide +kernel⟩,
    ⟨tS (tStart (fun x => { x with state := .quarantine })), 0x6000, 1#32, .telemetryConfigWrite 0x6000 1#32, by and_intros <;> decide +kernel⟩⟩

/-- States and operands that meet the hypotheses of TelemetrySample, clause by clause. -/
theorem witness_TelemetrySample :
    (∃ (s : State), s.b.tel.enable = true ∧ s.b.tel.sampleAt + 2000 * s.b.tel.period ≤ s.b.now) ∧
    (∃ (s : State), (s.b.tel.enable = false ∨ s.b.now < s.b.tel.sampleAt + 2000 * s.b.tel.period)) :=
  ⟨⟨tS { tB with tel := { Tel.reset with enable := true, period := 1000 } }, by and_intros <;> decide +kernel⟩,
    ⟨tS tB, by decide +kernel⟩⟩

/-- States and operands that meet the hypotheses of PacketArrivals, clause by clause. -/
theorem witness_PacketArrivals :
    (∃ (s : State), ∃ (src t : Nat), ∃ (p : Pkt), (s.b.inq.find? (fun q => q.src = src) = some p) ∧ s.b.owner src = some t ∧ p.op ≠ 0x0B ∧ s.b.headerOk t p = true ∧ (s.b.strm t p.stream).broken = false ∧ p.seq = (s.b.strm t p.stream).next ∧ (s.b.strm t p.stream).fenced = false ∧ (s.b.strm t p.stream).chain = [] ∧ (s.b.strm t p.stream).held = [] ∧ p.more = false ∧ joined p.op = false ∧ (t = 0 ∨ (p.op ≠ 0x0C ∧ p.op ≠ 0x0D))) ∧
    (∃ (s : State), ∃ (src t : Nat), ∃ (p : Pkt), (s.b.inq.find? (fun q => q.src = src) = some p) ∧ s.b.owner src = some t ∧ p.op ≠ 0x0B ∧ s.b.headerOk t p = true ∧ (s.b.strm t p.stream).broken = false ∧ p.seq = (s.b.strm t p.stream).next ∧ (s.b.strm t p.stream).fenced = false ∧ (s.b.strm t p.stream).chain = [] ∧ (s.b.strm t p.stream).held = [] ∧ p.more = true ∧ (p.op = 0x04 ∨ p.op = 0x06)) ∧
    (∃ (s : State), ∃ (src t : Nat), ∃ (p : Pkt), (s.b.inq.find? (fun q => q.src = src) = some p) ∧ s.b.owner src = some t ∧ p.op ≠ 0x0B ∧ s.b.headerOk t p = true ∧ (s.b.strm t p.stream).broken = false ∧ p.seq = (s.b.strm t p.stream).next ∧ (s.b.strm t p.stream).fenced = false ∧ (s.b.strm t p.stream).chain = [] ∧ (s.b.strm t p.stream).held = [] ∧ p.more = false ∧ p.op = 0x04 ∧ s.b.start.state = .opened ∧ s.b.start.drainAt = none ∧ s.b.findRun { tenant := t, handle := p.arg 0 } = none) ∧
    (∃ (s : State), ∃ (src t : Nat), ∃ (p : Pkt), (s.b.inq.find? (fun q => q.src = src) = some p) ∧ s.b.owner src = some t ∧ p.op ≠ 0x0B ∧ s.b.headerOk t p = true ∧ (s.b.strm t p.stream).broken = false ∧ p.seq = (s.b.strm t p.stream).next ∧ (s.b.strm t p.stream).fenced = false ∧ (s.b.strm t p.stream).chain = [] ∧ (s.b.strm t p.stream).held = [] ∧ p.more = false ∧ p.op = 0x06 ∧ (s.b.findRun { tenant := t, handle := p.arg 0 }).isSome = true) ∧
    (∃ (s : State), ∃ (src t : Nat), ∃ (p : Pkt), (s.b.inq.find? (fun q => q.src = src) = some p) ∧ s.b.owner src = some t ∧ p.op ≠ 0x0B ∧ s.b.headerOk t p = true ∧ (s.b.strm t p.stream).broken = false ∧ ((s.b.strm t p.stream).next < p.seq ∨ (p.seq = (s.b.strm t p.stream).next ∧ (s.b.strm t p.stream).fenced = true)) ∧ p.seq < (s.b.strm t p.stream).next + 1024 ∧ ((s.b.strm t p.stream).held.any (fun h => h.seq = p.seq) = false) ∧ s.b.isHeld t (.admission p.stream) = false ∧ 1 + needsPage (s.b.strm t p.stream).held.length ((s.b.strm t p.stream).held.length + 1) ≤ s.b.gutterFree t) ∧
    (∃ (s : State), ∃ (src t : Nat), ∃ (p : Pkt), (s.b.inq.find? (fun q => q.src = src) = some p) ∧ s.b.owner src = some t ∧ p.op ≠ 0x0B ∧ (s.b.headerOk t p = false ∨ (s.b.strm t p.stream).broken = true ∨ p.seq < (s.b.strm t p.stream).next ∨ (s.b.strm t p.stream).next + 1024 ≤ p.seq ∨ ((s.b.strm t p.stream).next < p.seq ∧ (s.b.strm t p.stream).held.any (fun h => h.seq = p.seq) = true))) ∧
    (∃ (s : State), ∃ (src : Nat), ∃ (p : Pkt), (s.b.inq.find? (fun q => q.src = src) = some p) ∧ s.b.owner src = none) :=
  ⟨⟨tS { tB with inq := [tPkt 0x0E 0 [] []] }, 8, 0, tPkt 0x0E 0 [] [], by and_intros <;> decide +kernel⟩,
    ⟨tS { tB with inq := [{ tPkt 4 0 [1#32] [7#8] with more := true }] }, 8, 0, { tPkt 4 0 [1#32] [7#8] with more := true }, by and_intros <;> decide +kernel⟩,
    ⟨tS { tB with inq := [tPkt 4 0 [1#32] [7#8]] }, 8, 0, tPkt 4 0 [1#32] [7#8], by and_intros <;> decide +kernel⟩,
    ⟨tS { tRuns [] [] with inq := [tPkt 6 0 [1#32] [7#8]] }, 8, 0, tPkt 6 0 [1#32] [7#8], by and_intros <;> decide +kernel⟩,
    ⟨tS { tB with inq := [{ tPkt 0x0E 0 [] [] with seq := 1023 }] }, 8, 0, { tPkt 0x0E 0 [] [] with seq := 1023 }, by and_intros <;> decide +kernel⟩,
    ⟨tS { tB with inq := [{ tPkt 0x0E 0 [] [] with seq := 1024 }] }, 8, 0, { tPkt 0x0E 0 [] [] with seq := 1024 }, by and_intros <;> decide +kernel⟩,
    ⟨tS { tStart (fun x => { x with img := some { tImg with tenants := [{ tTenant with sources := 1#20 }] } }) with inq := [tPkt 0x0E 0 [] []] }, 8, tPkt 0x0E 0 [] [], by and_intros <;> decide +kernel⟩⟩

/-- States and operands that meet the hypotheses of PacketDataMoves, clause by clause. -/
theorem witness_PacketDataMoves :
    (∃ (s : State), ∃ (t strm : Nat), ∃ (p : Pkt), s.b.front t strm 0x0E = some p ∧ p.cpl = false ∧ p.stream = strm) ∧
    (∃ (s : State), ∃ (t strm pa : Nat), ∃ (p : Pkt), s.memSound ∧ s.b.front t strm 0x01 = some p ∧ p.cpl = false ∧ p.stream = strm ∧ 1 ≤ p.payload.length ∧ p.addr % 64 + p.payload.length ≤ 64 ∧ s.b.vat.translate t p.addr .store = .ok pa ∧ regionOf pa = 1 ∧ s.b.stays t p.addr ∧ s.b.feltBadIn pa p.payload.length = [] ∧ (∀ k, (s.b.eave k).par = [])) ∧
    (∃ (s : State), ∃ (t strm pa : Nat), ∃ (p : Pkt), s.b.front t strm 0x02 = some p ∧ 1 ≤ (p.arg 0).toNat ∧ p.addr % 64 + (p.arg 0).toNat ≤ 64 ∧ s.b.vat.translate t p.addr .load = .ok pa ∧ regionOf pa = 1 ∧ s.b.stays t p.addr ∧ s.b.feltBadIn pa (p.arg 0).toNat = []) ∧
    (∃ (s : State), ∃ (i : Nat), ∃ (j : ReadJob), s.b.reads[i]? = some j ∧ j.todo = [] ∧ s.b.readsOut j.req = false ∧ s.b.ringDenies j.pkt.src = false ∧ j.data.length ≤ j.off + 4032) ∧
    (∃ (s : State), ∃ (i : Nat), ∃ (j : ReadJob), s.b.reads[i]? = some j ∧ j.todo = [] ∧ s.b.readsOut j.req = false ∧ s.b.ringDenies j.pkt.src = false ∧ j.off + 4032 < j.data.length) ∧
    (∃ (s : State), ∃ (i : Nat), ∃ (j : ReadJob), s.b.reads[i]? = some j ∧ j.todo = [] ∧ s.b.ringDenies j.pkt.src = true) :=
  ⟨⟨tS (tFront (tPkt 0x0E 0 [] [])), 0, 0, tPkt 0x0E 0 [] [], by and_intros <;> decide +kernel⟩,
    ⟨tS (tFront (tPkt 1 0x20003F [] [7#8])), 0, 0, physFelt 0 0x3F, tPkt 1 0x20003F [] [7#8], by rfl, by decide +kernel, by decide +kernel, by decide +kernel, by decide +kernel, by decide +kernel, by decide +kernel, by decide +kernel, by (intro x h; cases h), by decide +kernel, fun k => tB_par k⟩,
    ⟨tS (tFront (tPkt 2 0x200000 [64#32] [])), 0, 0, physFelt 0 0, tPkt 2 0x200000 [64#32] [], by and_intros <;> first | decide +kernel | exact rfl | exact ⟨rfl, rfl, rfl, by decide⟩ | (unfold Block.noneWaits; decide +kernel) | (intro x h; cases h; done)⟩,
    ⟨tS { tFront (tPkt 2 0x200000 [64#32] []) with reads := [{ tenant := 0, pkt := tPkt 2 0x200000 [64#32] [], data := [1#8, 2#8], off := 0, fail := none, todo := [] }] }, 0, { tenant := 0, pkt := tPkt 2 0x200000 [64#32] [], data := [1#8, 2#8], off := 0, fail := none, todo := [] }, by and_intros <;> decide +kernel⟩,
    ⟨tS { tFront (tPkt 2 0x200000 [4033#32] []) with reads := [{ tenant := 0, pkt := tPkt 2 0x200000 [4033#32] [], data := List.replicate 4033 1#8, off := 0, fail := none, todo := [] }] }, 0, { tenant := 0, pkt := tPkt 2 0x200000 [4033#32] [], data := List.replicate 4033 1#8, off := 0, fail := none, todo := [] }, by and_intros <;> decide +kernel⟩,
    ⟨tS { (tB.modGable 0 (fun x => { x with ringSize := 16, held := [{ bytes := List.replicate 32 1#8, event := false, run := none }] })) with reads := [{ tenant := 0, pkt := tPkt 2 0x200000 [64#32] [], data := [1#8, 2#8], off := 0, fail := none, todo := [] }] }, 0, { tenant := 0, pkt := tPkt 2 0x200000 [64#32] [], data := [1#8, 2#8], off := 0, fail := none, todo := [] }, by and_intros <;> decide +kernel⟩⟩

/-- States and operands that meet the hypotheses of Fences, clause by clause. -/
theorem witness_Fences :
    (∃ (s : State), ∃ (t strm : Nat), ∃ (p : Pkt), s.b.front t strm 0x03 = some p ∧ p.stream = strm ∧ s.b.fenceReached t p = true ∧ (s.b.strm t strm).fenceFail = false ∧ (p.fenceSeat = true ∨ (s.b.strm t p.fenceTarget).broken = false)) ∧
    (∃ (s : State), ∃ (t strm : Nat), ∃ (p : Pkt), s.b.front t strm 0x03 = some p ∧ s.b.fenceReached t p = false ∧ (s.b.strm t strm).fenceFail = false ∧ (p.fenceSeat = true ∨ (s.b.strm t p.fenceTarget).broken = false)) ∧
    (∃ (s : State), ∃ (t strm : Nat), ∃ (p : Pkt), ∃ (l : List Pkt), (s.b.strm t strm).adm = p :: l ∧ (s.b.strm t strm).fencing = true ∧ p.stream = strm ∧ s.b.fenceReached t p = true) ∧
    (∃ (s : State), ∃ (t strm : Nat), ∃ (p : Pkt), ∃ (l : List Pkt), (s.b.strm t strm).adm = p :: l ∧ (s.b.strm t strm).fencing = true ∧ s.b.fenceReached t p = false) ∧
    (∃ (s : State), ∃ (t strm : Nat), ∃ (p : Pkt), s.b.front t strm 0x03 = some p ∧ p.stream = strm ∧ ((s.b.strm t strm).fenceFail = true ∨ (p.fenceSeat = false ∧ (s.b.strm t p.fenceTarget).broken = true))) :=
  ⟨⟨tS ((tFront (tPkt 3 0 [1#32, 3#32] [])).modStrm 0 1 (fun x => { x with next := 4 })), 0, 0, tPkt 3 0 [1#32, 3#32] [], by and_intros <;> decide +kernel⟩,
    ⟨tS ((tFront (tPkt 3 0 [1#32, 3#32] [])).modStrm 0 1 (fun x => { x with next := 3 })), 0, 0, tPkt 3 0 [1#32, 3#32] [], by and_intros <;> decide +kernel⟩,
    ⟨tS (((tFront (tPkt 3 0 [1#32, 3#32] [])).modStrm 0 1 (fun x => { x with next := 4 })).modStrm 0 0 (fun x => { x with fencing := true, fenceFail := true })), 0, 0, tPkt 3 0 [1#32, 3#32] [], [], by and_intros <;> decide +kernel⟩,
    ⟨tS ((tFront (tPkt 3 0 [1#32, 3#32] [])).modStrm 0 0 (fun x => { x with fencing := true })), 0, 0, tPkt 3 0 [1#32, 3#32] [], [], by and_intros <;> decide +kernel⟩,
    ⟨tS ((tFront (tPkt 3 0 [1#32, 3#32] [])).modStrm 0 1 (fun x => { x with broken := true })), 0, 0, tPkt 3 0 [1#32, 3#32] [], by and_intros <;> decide +kernel⟩⟩

/-- States and operands that meet the hypotheses of StreamBreaks, clause by clause. -/
theorem witness_StreamBreaks :
    (∃ (s : State), ∃ (t strm t0 : Nat), ∃ (g : Image), (s.b.strm t strm).gapAt = some t0 ∧ s.b.start.img = some g ∧ g.gapTo ≤ s.b.ctlSince t0) ∧
    (∃ (s : State), ∃ (src t : Nat), ∃ (p : Pkt), (s.b.inq.find? (fun q => q.src = src) = some p) ∧ s.b.owner src = some t ∧ p.op = 0x0B ∧ s.b.headerOk t p = true ∧ p.more = false ∧ s.b.unfenced t p.stream) :=
  ⟨⟨tS (tB.modStrm 0 3 (fun x => { x with gapAt := some 0 })), 0, 3, 0, tImg, by and_intros <;> decide +kernel⟩,
    ⟨tS { tB with inq := [{ tPkt 0x0B 0 [] [] with seq := 77 }] }, 8, 0, { tPkt 0x0B 0 [] [] with seq := 77 }, by decide +kernel, by decide +kernel, by decide +kernel, by decide +kernel, by decide +kernel, fun i p hp => by cases hp⟩⟩

/-- States and operands that meet the hypotheses of RegisterPackets, clause by clause. -/
theorem witness_RegisterPackets :
    (∃ (s : State), ∃ (strm : Nat), ∃ (p : Pkt), s.b.front 0 strm 0x0C = some p ∧ p.stream = strm ∧ p.cpl = false ∧ regAccess (p.arg 0).toNat = some .rc ∧ telMaxSlot (p.arg 0).toNat = none) ∧
    (∃ (s : State), ∃ (strm : Nat), ∃ (p : Pkt), s.b.front 0 strm 0x0C = some p ∧ p.stream = strm ∧ p.cpl = false ∧ regAccess (p.arg 0).toNat ≠ some .rc) ∧
    (∃ (s : State), ∃ (strm u : Nat), ∃ (p : Pkt), s.b.front 0 strm 0x0D = some p ∧ p.stream = strm ∧ p.cpl = false ∧ s.b.serving = true ∧ u < 16 ∧ s.b.vat.tenants.length = 16 ∧ (p.arg 0).toNat = 0x5048 + 16 * u) ∧
    (∃ (s : State), ∃ (strm : Nat), ∃ (p : Pkt), s.b.front 0 strm 0x0D = some p ∧ p.stream = strm ∧ (p.arg 0).toNat = 0x1010 ∧ p.arg 1 = 0x4B4C00A2#32 ∧ s.b.pins.pwrGood = true ∧ s.b.start.state = .opened ∧ s.b.start.drainAt = none) ∧
    (∃ (s : State), ∃ (strm : Nat), ∃ (p : Pkt), s.b.front 0 strm 0x0D = some p ∧ p.stream = strm ∧ (p.arg 0).toNat ≠ 0x1010 ∧ runtimeSet (p.arg 0).toNat = false) :=
  ⟨⟨tS ((tFront (tPkt 0x0C 0 [0x3040#32] [])).bump 0x3040 4), 0, tPkt 0x0C 0 [0x3040#32] [], by and_intros <;> decide +kernel⟩,
    ⟨tS (tFront (tPkt 0x0C 0 [0x1000#32] [])), 0, tPkt 0x0C 0 [0x1000#32] [], by and_intros <;> decide +kernel⟩,
    ⟨tS (tFront (tPkt 0x0D 0 [0x5138#32, 9#32] [])), 0, 15, tPkt 0x0D 0 [0x5138#32, 9#32] [], by and_intros <;> decide +kernel⟩,
    ⟨tS (tFront (tPkt 0x0D 0 [0x1010#32, 0x4B4C00A2#32] [])), 0, tPkt 0x0D 0 [0x1010#32, 0x4B4C00A2#32] [], by and_intros <;> decide +kernel⟩,
    ⟨tS (tFront (tPkt 0x0D 0 [0x2000#32, 9#32] [])), 0, tPkt 0x0D 0 [0x2000#32, 9#32] [], by and_intros <;> decide +kernel⟩⟩

/-- States and operands that meet the hypotheses of ObjectPackets, clause by clause. -/
theorem witness_ObjectPackets :
    (∃ (s : State), ∃ (t strm pref : Nat), ∃ (p : Pkt), ∃ b1, ∃ placed, ∃ field, ∃ outside, s.b.front t strm 0x07 = some p ∧ p.stream = strm ∧ allocBad p.addr p.payload = none ∧ pref = (if wfield (wordAt p.payload 0) 4 4 = 15 then srcField p.src else wfield (wordAt p.payload 0) 4 4) ∧ p.addr + ceilDiv (wordAt p.payload 1).toNat 512 * sheetBytes ≤ 2 ^ 48 ∧ (wfield (wordAt p.payload 0) 0 4 = 6 → s.b.parityOn = true) ∧ (s.b.vat.objs.any (fun o => decide (o.tenant = t ∧ o.base < p.addr + ceilDiv (wordAt p.payload 1).toNat 512 * sheetBytes ∧ p.addr < o.top)) = false) ∧ (s.b.popFront t strm).decideAlloc t p.addr (wordAt p.payload 0) (wordAt p.payload 1).toNat pref = .ok b1 placed field outside) ∧
    (∃ (s : State), ∃ (t strm pref : Nat), ∃ (p : Pkt), ∃ reason, s.b.front t strm 0x07 = some p ∧ p.stream = strm ∧ allocBad p.addr p.payload = none ∧ pref = (if wfield (wordAt p.payload 0) 4 4 = 15 then srcField p.src else wfield (wordAt p.payload 0) 4 4) ∧ p.addr + ceilDiv (wordAt p.payload 1).toNat 512 * sheetBytes ≤ 2 ^ 48 ∧ (wfield (wordAt p.payload 0) 0 4 = 6 → s.b.parityOn = true) ∧ (s.b.vat.objs.any (fun o => decide (o.tenant = t ∧ o.base < p.addr + ceilDiv (wordAt p.payload 1).toNat 512 * sheetBytes ∧ p.addr < o.top)) = false) ∧ (s.b.popFront t strm).decideAlloc t p.addr (wordAt p.payload 0) (wordAt p.payload 1).toNat pref = .quota reason) ∧
    (∃ (s : State), ∃ (t strm pref : Nat), ∃ (p : Pkt), ∃ felt, s.b.front t strm 0x07 = some p ∧ p.stream = strm ∧ allocBad p.addr p.payload = none ∧ pref = (if wfield (wordAt p.payload 0) 4 4 = 15 then srcField p.src else wfield (wordAt p.payload 0) 4 4) ∧ p.addr + ceilDiv (wordAt p.payload 1).toNat 512 * sheetBytes ≤ 2 ^ 48 ∧ (wfield (wordAt p.payload 0) 0 4 = 6 → s.b.parityOn = true) ∧ (s.b.vat.objs.any (fun o => decide (o.tenant = t ∧ o.base < p.addr + ceilDiv (wordAt p.payload 1).toNat 512 * sheetBytes ∧ p.addr < o.top)) = false) ∧ wfield (wordAt p.payload 0) 0 4 = 3 ∧ p.cpl = false ∧ (wordAt p.payload 1).toNat ≤ s.b.poolFree pref ∧ 0 < s.b.poolPages pref ∧ pref < 8 ∧ s.b.takeFelt pref (wordAt p.payload 1).toNat = some felt ∧ s.b.useFelt t + (wordAt p.payload 1).toNat ≤ (s.b.tenant t).quotaFelt * 256 ∧ s.b.mapUsed + ceilDiv (wordAt p.payload 1).toNat 512 ≤ 1048576) ∧
    (∃ (s : State), ∃ (t strm : Nat), ∃ (p : Pkt), s.b.front t strm 0x07 = some p ∧ p.stream = strm ∧ ((allocBad p.addr p.payload).isSome = true ∨ 2 ^ 48 < p.addr + ceilDiv (wordAt p.payload 1).toNat 512 * sheetBytes ∨ s.b.vat.objs.any (fun o => decide (o.tenant = t ∧ o.base < p.addr + ceilDiv (wordAt p.payload 1).toNat 512 * sheetBytes ∧ p.addr < o.top)) = true)) ∧
    (∃ (s : State), ∃ (t strm : Nat), ∃ (p : Pkt), ∃ (o : Obj), s.b.front t strm 0x08 = some p ∧ p.stream = strm ∧ (s.b.vat.objs.find? (fun o => decide (o.tenant = t ∧ o.base = p.addr) && o.owned) = some o)) ∧
    (∃ (s : State), ∃ (t strm : Nat), ∃ (p : Pkt), s.b.front t strm 0x08 = some p ∧ p.stream = strm ∧ (s.b.vat.objs.find? (fun o => decide (o.tenant = t ∧ o.base = p.addr) && o.owned) = none)) ∧
    (∃ (s : State), ∃ (t strm base n : Nat), ∃ (p : Pkt), s.b.front t strm 0x09 = some p ∧ p.stream = strm ∧ p.cpl = false ∧ p.payload.length = 32 ∧ base = (wordAt p.payload 1).toNat + 2 ^ 32 * wfield (wordAt p.payload 2) 0 16 ∧ n = wfield (wordAt p.payload 3) 0 16 ∧ (hintOk p.payload = false ∨ s.b.vat.covers t base n = false)) ∧
    (∃ (s : State), ∃ (t strm base n : Nat), ∃ (p : Pkt), s.b.front t strm 0x09 = some p ∧ p.stream = strm ∧ p.cpl = false ∧ p.payload.length = 32 ∧ base = (wordAt p.payload 1).toNat + 2 ^ 32 * wfield (wordAt p.payload 2) 0 16 ∧ n = wfield (wordAt p.payload 3) 0 16 ∧ hintOk p.payload = true ∧ s.b.vat.covers t base n = true ∧ wfield (wordAt p.payload 0) 0 8 ≤ 2 ∧ s.b.vat.notResident t base n ≠ [] ∧ ((s.b.vat.ranges.filter (fun x => x.tenant = t)).length < 4096)) ∧
    (∃ (s : State), ∃ (t strm base n : Nat), ∃ (p : Pkt), s.b.front t strm 0x09 = some p ∧ p.stream = strm ∧ p.cpl = false ∧ p.payload.length = 32 ∧ base = (wordAt p.payload 1).toNat + 2 ^ 32 * wfield (wordAt p.payload 2) 0 16 ∧ n = wfield (wordAt p.payload 3) 0 16 ∧ hintOk p.payload = true ∧ s.b.vat.covers t base n = true ∧ wfield (wordAt p.payload 0) 0 8 = 3 ∧ 8 * (s.b.vat.spars + (s.b.vat.newSpars t base n).length) ≤ 7 * s.b.stackSheets) ∧
    (∃ (s : State), ∃ (t strm base n : Nat), ∃ (p : Pkt), s.b.front t strm 0x09 = some p ∧ p.stream = strm ∧ p.cpl = false ∧ p.payload.length = 32 ∧ base = (wordAt p.payload 1).toNat + 2 ^ 32 * wfield (wordAt p.payload 2) 0 16 ∧ n = wfield (wordAt p.payload 3) 0 16 ∧ hintOk p.payload = true ∧ s.b.vat.covers t base n = true ∧ wfield (wordAt p.payload 0) 0 8 = 4) :=
  ⟨⟨tS (tFront (tPkt 7 0x4000000 [] (leBytes 4 0x103 ++ leBytes 4 2 ++ List.replicate 24 0#8))), 0, 0, 0, tPkt 7 0x4000000 [] (leBytes 4 0x103 ++ leBytes 4 2 ++ List.replicate 24 0#8), (match ((tS (tFront (tPkt 7 0x4000000 [] (leBytes 4 0x103 ++ leBytes 4 2 ++ List.replicate 24 0#8)))).b.popFront 0 0).decideAlloc 0 0x4000000 0x103#32 2 0 with | .ok x _ _ _ => x | _ => tB), 3, 0, 0, by and_intros <;> first | decide +kernel | rfl⟩,
    ⟨tS (tFront (tPkt 7 0x4000000 [] (leBytes 4 0x101 ++ leBytes 4 0x20000000 ++ List.replicate 24 0#8))), 0, 0, 0, tPkt 7 0x4000000 [] (leBytes 4 0x101 ++ leBytes 4 0x20000000 ++ List.replicate 24 0#8), 1, by and_intros <;> first | decide +kernel | rfl⟩,
    ⟨tS (tFront (tPkt 7 0x4000000 [] (leBytes 4 0x103 ++ leBytes 4 2 ++ List.replicate 24 0#8))), 0, 0, 0, tPkt 7 0x4000000 [] (leBytes 4 0x103 ++ leBytes 4 2 ++ List.replicate 24 0#8), ((tFront (tPkt 7 0x4000000 [] [])).takeFelt 0 2).getD [], by and_intros <;> decide +kernel⟩,
    ⟨tS (tFront (tPkt 7 0x200000 [] (leBytes 4 0x103 ++ leBytes 4 2 ++ List.replicate 24 0#8))), 0, 0, tPkt 7 0x200000 [] (leBytes 4 0x103 ++ leBytes 4 2 ++ List.replicate 24 0#8), by and_intros <;> decide +kernel⟩,
    ⟨tS (tFront (tPkt 8 0x200000 [] [])), 0, 0, tPkt 8 0x200000 [] [], tObj, by and_intros <;> decide +kernel⟩,
    ⟨tS (tFront (tPkt 8 0x400000 [] [])), 0, 0, tPkt 8 0x400000 [] [], by and_intros <;> decide +kernel⟩,
    ⟨tS (tFront (tPkt 9 0 [] (List.replicate 32 0#8))), 0, 0, 0, 0, tPkt 9 0 [] (List.replicate 32 0#8), by and_intros <;> decide +kernel⟩,
    ⟨tS ((tVat tSheet).modStrm 0 0 (fun s => { s with adm := [tPkt 9 0 [] (wordsBytes [0x101#32, 0x400000#32, 0#32, 1#32, 0#32, 0#32, 0#32, 0#32])], live := [0] })), 0, 0, 0x400000, 1, tPkt 9 0 [] (wordsBytes [0x101#32, 0x400000#32, 0#32, 1#32, 0#32, 0#32, 0#32, 0#32]), by and_intros <;> decide +kernel⟩,
    ⟨tS ((tVat tSheet).modStrm 0 0 (fun s => { s with adm := [tPkt 9 0 [] (wordsBytes [3#32, 0x400000#32, 0#32, 1#32, 0#32, 0#32, 0#32, 0#32])], live := [0] })), 0, 0, 0x400000, 1, tPkt 9 0 [] (wordsBytes [3#32, 0x400000#32, 0#32, 1#32, 0#32, 0#32, 0#32, 0#32]), by and_intros <;> decide +kernel⟩,
    ⟨tS ((tVat tSheet).modStrm 0 0 (fun s => { s with adm := [tPkt 9 0 [] (wordsBytes [4#32, 0x400000#32, 0#32, 1#32, 0#32, 0#32, 0#32, 0#32])], live := [0] })), 0, 0, 0x400000, 1, tPkt 9 0 [] (wordsBytes [4#32, 0x400000#32, 0#32, 1#32, 0#32, 0#32, 0#32, 0#32]), by and_intros <;> decide +kernel⟩⟩

/-- States and operands that meet the hypotheses of RunPackets, clause by clause. -/
theorem witness_RunPackets :
    (∃ (s : State), ∃ (t strm : Nat), ∃ (p : Pkt), ∃ (r : Run), s.b.front t strm 0x04 = some p ∧ s.b.findRun { tenant := t, handle := p.arg 0 } = some r ∧ r.pkt = p) ∧
    (∃ (s : State), ∃ (src t : Nat), ∃ (p : Pkt), (s.b.inq.find? (fun q => q.src = src) = some p) ∧ s.b.owner src = some t ∧ p.op = 0x04 ∧ p.more = false ∧ s.b.headerOk t p = true ∧ (s.b.strm t p.stream).broken = false ∧ p.seq = (s.b.strm t p.stream).next ∧ (s.b.strm t p.stream).fenced = false ∧ (s.b.strm t p.stream).chain = [] ∧ (s.b.strm t p.stream).held = [] ∧ (s.b.start.state ≠ .opened ∨ s.b.start.drainAt.isSome = true)) ∧
    (∃ (s : State), ∃ (t strm : Nat), ∃ (p : Pkt), ∃ (r : Run), s.b.front t strm 0x05 = some p ∧ p.stream = strm ∧ s.b.runs = [r] ∧ r.ref = { tenant := t, handle := p.arg 0 } ∧ r.killed = none) ∧
    (∃ (s : State), ∃ (t strm : Nat), ∃ (p : Pkt), s.b.front t strm 0x06 = some p ∧ p.stream = strm ∧ (∀ r, s.b.findRun { tenant := t, handle := p.arg 0 } = some r → r.killed.isSome = true)) ∧
    (∃ (s : State), ∃ (t strm : Nat), ∃ (p : Pkt), ∃ (r : Run), s.b.front t strm 0x06 = some p ∧ s.b.findRun { tenant := t, handle := p.arg 0 } = some r ∧ r.killed = none ∧ r.phase = .waiting) ∧
    (∃ (s : State), ∃ (t strm i : Nat), ∃ (p : Pkt), ∃ (r : Run), ∃ (st : Station), ∃ (e : EdgeEntry), ∃ (g : GateSt), s.b.front t strm 0x06 = some p ∧ p.stream = strm ∧ (p.arg 1).toNat = i ∧ i < 256 ∧ s.b.live { tenant := t, handle := p.arg 0, station := i } = some (r, st) ∧ r.ref = { tenant := t, handle := p.arg 0 } ∧ r.outShape i 0 = some e ∧ st.entry.type = .gate ∧ st.entry.gout = false ∧ st.entry.gstream = strm ∧ st.body = .gate g ∧ g.closed = false ∧ st.ready = false) ∧
    (∃ (s : State), ∃ (t strm i : Nat), ∃ (p : Pkt), ∃ (r : Run), ∃ (st : Station), ∃ (e : EdgeEntry), ∃ (g : GateSt), s.b.front t strm 0x06 = some p ∧ p.stream = strm ∧ (p.arg 1).toNat = i ∧ i < 256 ∧ s.b.live { tenant := t, handle := p.arg 0, station := i } = some (r, st) ∧ r.ref = { tenant := t, handle := p.arg 0 } ∧ r.outShape i 0 = some e ∧ st.entry.type = .gate ∧ st.entry.gout = false ∧ st.entry.gstream = strm ∧ st.body = .gate g ∧ g.closed = false ∧ st.ready = true ∧ gateTileOk st.entry.gfmt e p.payload (p.arg 2).toNat (p.arg 3).toNat g.taken = true) ∧
    (∃ (s : State), ∃ (t strm i : Nat), ∃ (p : Pkt), ∃ (r : Run), ∃ (st : Station), ∃ (e : EdgeEntry), ∃ (g : GateSt), s.b.front t strm 0x06 = some p ∧ p.stream = strm ∧ (p.arg 1).toNat = i ∧ i < 256 ∧ s.b.live { tenant := t, handle := p.arg 0, station := i } = some (r, st) ∧ r.ref = { tenant := t, handle := p.arg 0 } ∧ r.outShape i 0 = some e ∧ st.entry.type = .gate ∧ st.entry.gout = false ∧ st.entry.gstream = strm ∧ st.body = .gate g ∧ g.closed = false ∧ st.ready = true ∧ gateTileOk st.entry.gfmt e p.payload (p.arg 2).toNat (p.arg 3).toNat g.taken = false) :=
  ⟨⟨tS { tFront (tPkt 4 0 [7#32] [1#8]) with runs := [{ tRun [] [] with ref := { tenant := 0, handle := 7#32 }, pkt := tPkt 4 0 [7#32] [1#8], phase := .waiting, queued := false }] }, 0, 0, tPkt 4 0 [7#32] [1#8], { tRun [] [] with ref := { tenant := 0, handle := 7#32 }, pkt := tPkt 4 0 [7#32] [1#8], phase := .waiting, queued := false }, by and_intros <;> decide +kernel⟩,
    ⟨tS { tB with inq := [tPkt 4 0 [7#32] [1#8]], start := { tB.start with drainAt := some 0 } }, 8, 0, tPkt 4 0 [7#32] [1#8], by and_intros <;> decide +kernel⟩,
    ⟨tS { tFront (tPkt 5 0 [1#32] []) with runs := [tRun [] []] }, 0, 0, tPkt 5 0 [1#32] [], tRun [] [], by and_intros <;> decide +kernel⟩,
    ⟨tS { tFront (tPkt 6 0 [1#32] []) with ended := [tRef] }, 0, 0, tPkt 6 0 [1#32] [], by and_intros <;> decide +kernel⟩,
    ⟨tS { tFront (tPkt 6 0 [1#32] []) with runs := [{ tRun [] [] with phase := .waiting }] }, 0, 0, tPkt 6 0 [1#32] [], { tRun [] [] with phase := .waiting }, by and_intros <;> decide +kernel⟩,
    ⟨tS { tFront (tPkt 6 0 [1#32, 0#32, 0#32, 33#32] (leBytes 4 0 ++ leBytes 4 0x00010001 ++ leBytes 4 0 ++ leBytes 4 1 ++ List.replicate 17 0#8)) with runs := [tRun [{ tStn .gate [] (.gate { seq := 0, taken := 0, closed := false }) with outbox := [(0, tTile 0 1 1 1)] }] [tEdge 0 0 1 0 0 1 1]] }, 0, 0, 0, tPkt 6 0 [1#32, 0#32, 0#32, 33#32] (leBytes 4 0 ++ leBytes 4 0x00010001 ++ leBytes 4 0 ++ leBytes 4 1 ++ List.replicate 17 0#8), tRun [{ tStn .gate [] (.gate { seq := 0, taken := 0, closed := false }) with outbox := [(0, tTile 0 1 1 1)] }] [tEdge 0 0 1 0 0 1 1], { tStn .gate [] (.gate { seq := 0, taken := 0, closed := false }) with outbox := [(0, tTile 0 1 1 1)] }, (tEdge 0 0 1 0 0 1 1).entry, { seq := 0, taken := 0, closed := false }, by and_intros <;> decide +kernel⟩,
    ⟨tS { tFront (tPkt 6 0 [1#32, 0#32, 0#32, 33#32] (leBytes 4 0 ++ leBytes 4 0x00010001 ++ leBytes 4 0 ++ leBytes 4 1 ++ List.replicate 17 0#8)) with runs := [tRun [tStn .gate [] (.gate { seq := 0, taken := 0, closed := false })] [tEdge 0 0 1 0 0 1 1]] }, 0, 0, 0, tPkt 6 0 [1#32, 0#32, 0#32, 33#32] (leBytes 4 0 ++ leBytes 4 0x00010001 ++ leBytes 4 0 ++ leBytes 4 1 ++ List.replicate 17 0#8), tRun [tStn .gate [] (.gate { seq := 0, taken := 0, closed := false })] [tEdge 0 0 1 0 0 1 1], tStn .gate [] (.gate { seq := 0, taken := 0, closed := false }), (tEdge 0 0 1 0 0 1 1).entry, { seq := 0, taken := 0, closed := false }, by and_intros <;> decide +kernel⟩,
    ⟨tS { tFront (tPkt 6 0 [1#32, 0#32, 5#32, 33#32] (leBytes 4 0 ++ leBytes 4 0x00010001 ++ leBytes 4 0 ++ leBytes 4 1 ++ List.replicate 17 0#8)) with runs := [tRun [tStn .gate [] (.gate { seq := 0, taken := 0, closed := false })] [tEdge 0 0 1 0 0 1 1]] }, 0, 0, 0, tPkt 6 0 [1#32, 0#32, 5#32, 33#32] (leBytes 4 0 ++ leBytes 4 0x00010001 ++ leBytes 4 0 ++ leBytes 4 1 ++ List.replicate 17 0#8), tRun [tStn .gate [] (.gate { seq := 0, taken := 0, closed := false })] [tEdge 0 0 1 0 0 1 1], tStn .gate [] (.gate { seq := 0, taken := 0, closed := false }), (tEdge 0 0 1 0 0 1 1).entry, { seq := 0, taken := 0, closed := false }, by and_intros <;> decide +kernel⟩⟩

/-- States and operands that meet the hypotheses of RunLifecycle, clause by clause. -/
theorem witness_RunLifecycle :
    (∃ (s : State), ∃ (t : Nat), ∃ (h : Word), ∃ (r r1 : Run), ∃ (b1 : Block), s.b.findRun { tenant := t, handle := h } = some r ∧ s.b.mayLaunch r = true ∧ descStations r.desc + descEdges r.desc ≤ s.b.queuesFree ∧ s.b.launchChecks r = .ok (b1, r1) ∧ b1.runs = s.b.runs ∧ (b1.useFelt t + sumNat ((b1.bufsOf r1).map (fun x => x.2.2)) ≤ (b1.tenant t).quotaFelt * 256) ∧ b1.poolHas (b1.bufsOf r1) = true ∧ r1.seatsNamed = []) ∧
    (∃ (s : State), ∃ (t : Nat), ∃ (h : Word), ∃ (r r1 : Run), ∃ (b1 : Block), s.b.findRun { tenant := t, handle := h } = some r ∧ s.b.mayLaunch r = true ∧ descStations r.desc + descEdges r.desc ≤ s.b.queuesFree ∧ s.b.launchChecks r = .ok (b1, r1) ∧ b1.runs = s.b.runs ∧ (b1.useFelt t + sumNat ((b1.bufsOf r1).map (fun x => x.2.2)) ≤ (b1.tenant t).quotaFelt * 256) ∧ b1.poolHas (b1.bufsOf r1) = true ∧ r1.seatsNamed ≠ []) ∧
    (∃ (s : State), ∃ (t : Nat), ∃ (h : Word), ∃ (r r1 : Run), ∃ (b1 : Block), s.b.findRun { tenant := t, handle := h } = some r ∧ s.b.mayLaunch r = true ∧ descStations r.desc + descEdges r.desc ≤ s.b.queuesFree ∧ s.b.launchChecks r = .ok (b1, r1) ∧ b1.runs = s.b.runs ∧ (b1.useFelt t + sumNat ((b1.bufsOf r1).map (fun x => x.2.2)) ≤ (b1.tenant t).quotaFelt * 256) ∧ b1.poolHas (b1.bufsOf r1) = false) ∧
    (∃ (s : State), ∃ (t : Nat), ∃ (h : Word), ∃ (r r1 : Run), ∃ (b1 : Block), s.b.findRun { tenant := t, handle := h } = some r ∧ s.b.mayLaunch r = true ∧ descStations r.desc + descEdges r.desc ≤ s.b.queuesFree ∧ s.b.launchChecks r = .ok (b1, r1) ∧ b1.runs = s.b.runs ∧ ((b1.tenant t).quotaFelt * 256 < b1.useFelt t + sumNat ((b1.bufsOf r1).map (fun x => x.2.2)))) ∧
    (∃ (s : State), ∃ (t : Nat), ∃ (h : Word), ∃ (r : Run), s.b.findRun { tenant := t, handle := h } = some r ∧ s.b.mayLaunch r = true ∧ r.waitQ = false ∧ s.b.queuesFree < descStations r.desc + descEdges r.desc) ∧
    (∃ (s : State), ∃ (t i : Nat), ∃ (h : Word), ∃ (r : Run), s.b.runs = [r] ∧ r.ref = { tenant := t, handle := h } ∧ s.b.mayLaunch r = true ∧ descStations r.desc + descEdges r.desc ≤ s.b.queuesFree ∧ r.read = false ∧ s.b.descFault t r.desc = some i) ∧
    (∃ (s : State), ∃ (t k : Nat), ∃ (h : Word), ∃ (r : Run), s.b.runs = [r] ∧ r.ref = { tenant := t, handle := h } ∧ r.phase = .active k ∧ r.killed = none ∧ r.stageOver k = true ∧ k + 1 < r.nstage ∧ r.seatsNamed = []) ∧
    (∃ (s : State), ∃ (t k : Nat), ∃ (h : Word), ∃ (r : Run), s.b.runs = [r] ∧ r.ref = { tenant := t, handle := h } ∧ r.phase = .active k ∧ r.killed = none ∧ r.stageOver k = true ∧ r.nstage ≤ k + 1) ∧
    (∃ (s : State), ∃ (t : Nat), ∃ (h : Word), ∃ (r : Run), ∃ (k : KillInfo), s.b.runs = [r] ∧ r.ref = { tenant := t, handle := h } ∧ r.killed = some k ∧ s.b.ridge.items = []) :=
  ⟨⟨tS { tB with runs := [tWait] }, 0, 1#32, tWait, (match ({ tB with runs := [tWait] } : Block).launchChecks tWait with | .ok x => x.2 | .error _ => tWait), (match ({ tB with runs := [tWait] } : Block).launchChecks tWait with | .ok x => x.1 | .error _ => tB), by and_intros <;> first | decide +kernel | rfl⟩,
    ⟨tS ({ tB with runs := [{ tRun [{ tStn .gate [] (.gate { seq := 0, taken := 0, closed := false }) with entry := { tEntry .gate with gsource := 0 } }] [tEdge 0 0 1 0 0 1 1] with phase := .waiting, read := true }] } : Block), 0, 1#32, { tRun [{ tStn .gate [] (.gate { seq := 0, taken := 0, closed := false }) with entry := { tEntry .gate with gsource := 0 } }] [tEdge 0 0 1 0 0 1 1] with phase := .waiting, read := true }, { tRun [{ tStn .gate [] (.gate { seq := 0, taken := 0, closed := false }) with entry := { tEntry .gate with gsource := 0 } }] [tEdge 0 0 1 0 0 1 1] with phase := .waiting, read := true }, ({ tB with runs := [{ tRun [{ tStn .gate [] (.gate { seq := 0, taken := 0, closed := false }) with entry := { tEntry .gate with gsource := 0 } }] [tEdge 0 0 1 0 0 1 1] with phase := .waiting, read := true }] } : Block), by and_intros <;> first | decide +kernel | rfl⟩,
    ⟨tS ({ tB with runs := [{ tRun [] [tEdge 0 0 1 0 0 1 1] with phase := .waiting, read := true }, { tRun [] [] with ref := { tenant := 1, handle := 2#32 }, bufs := [(0, 0, 1000000000)] }] } : Block), 0, 1#32, { tRun [] [tEdge 0 0 1 0 0 1 1] with phase := .waiting, read := true }, { tRun [] [tEdge 0 0 1 0 0 1 1] with phase := .waiting, read := true }, ({ tB with runs := [{ tRun [] [tEdge 0 0 1 0 0 1 1] with phase := .waiting, read := true }, { tRun [] [] with ref := { tenant := 1, handle := 2#32 }, bufs := [(0, 0, 1000000000)] }] } : Block), by and_intros <;> first | decide +kernel | rfl⟩,
    ⟨tS ({ tB with runs := [{ tRun [] [tEdge 0 0 1 0 0 1 1] with phase := .waiting, read := true }], vat := { tB.vat with tenants := List.replicate 16 { opened := true, prioMax := 7, quotaHbm := 100, quotaFelt := 0, quotaFar := 100 } } } : Block), 0, 1#32, { tRun [] [tEdge 0 0 1 0 0 1 1] with phase := .waiting, read := true }, { tRun [] [tEdge 0 0 1 0 0 1 1] with phase := .waiting, read := true }, ({ tB with runs := [{ tRun [] [tEdge 0 0 1 0 0 1 1] with phase := .waiting, read := true }], vat := { tB.vat with tenants := List.replicate 16 { opened := true, prioMax := 7, quotaHbm := 100, quotaFelt := 0, quotaFar := 100 } } } : Block), by and_intros <;> first | decide +kernel | rfl⟩,
    ⟨tS { tB with runs := [tWait, tFull 61440] }, 0, 1#32, tWait, ⟨rfl, full_mayLaunch 61440, rfl, Nat.lt_of_le_of_lt (Nat.le_of_eq (full_queues 61440)) (by decide +kernel)⟩⟩,
    ⟨tS { tB with runs := [{ tRun [] [] with phase := .waiting }] }, 0, 255, 1#32, { tRun [] [] with phase := .waiting }, by and_intros <;> decide +kernel⟩,
    ⟨tS { tB with runs := [{ tRun [] [] with nstage := 2 }] }, 0, 0, 1#32, { tRun [] [] with nstage := 2 }, by and_intros <;> decide +kernel⟩,
    ⟨tS { tB with runs := [tRun [] []] }, 0, 0, 1#32, tRun [] [], by and_intros <;> decide +kernel⟩,
    ⟨tS { tB with runs := [{ tRun [] [] with killed := some tKill }] }, 0, 1#32, { tRun [] [] with killed := some tKill }, tKill, by and_intros <;> decide +kernel⟩⟩

/-- States and operands that meet the hypotheses of RidgeItems, clause by clause. -/
theorem witness_RidgeItems :
    (∃ (s : State), ∃ (a : StRef), ∃ (r : Run), ∃ (st : Station), ∃ (e : Edge), ∃ (j : Nat), ∃ (t : Tile), ∃ (l : List Tile), s.b.ridge.items = [] ∧ s.b.ridge.held = [] ∧ 0 < s.b.matchSize ∧ s.b.live a = some (r, st) ∧ st.entry.type = .size ∧ r.inEdge a.station 0 = some (j, e) ∧ e.tiles = t :: l ∧ t.closing = false ∧ st.completed ≤ st.made) ∧
    (∃ (s : State), ∃ (a : StRef), ∃ (port : Nat), ∃ (r : Run), ∃ (st : Station), s.b.ridge.items = [] ∧ s.b.ridge.held = [] ∧ 0 < s.b.matchSize ∧ s.b.live a = some (r, st) ∧ (st.entry.type = .lath ∨ st.entry.type = .vat) ∧ r.inEdge a.station port = none ∧ r.noInput a.station = true ∧ st.made < st.inputless ∧ st.made < st.dispatched + 64 ∧ st.completed ≤ st.made) ∧
    (∃ (s : State), ∃ (f u k : Nat), ∃ (x : Item), ∃ (r : Run), ∃ (st : Station), s.b.ridge.items = [x] ∧ s.b.live x.at_ = some (r, st) ∧ x.fired = true ∧ x.spilled = false ∧ x.ordinal = st.dispatched ∧ s.b.withheldPrio f x.prio = false ∧ s.b.placeFor r x.station st f = some (u, k) ∧ (st.entry.type = .lath → u < 72)) ∧
    (∃ (s : State), ∃ (a : StRef), ∃ (n : Nat), ∃ (r : Run), ∃ (st : Station), ∃ (x : Active), s.b.ridge.items = [] ∧ s.b.live a = some (r, st) ∧ st.item n = some x ∧ x.done = true ∧ st.entry.type ≠ .lath) ∧
    (∃ (s : State), ∃ (a : StRef), ∃ (n : Nat), ∃ (r : Run), ∃ (st : Station), ∃ (x : Active), ∃ k, ∃ it, s.b.ridge.items = [] ∧ s.b.live a = some (r, st) ∧ st.item n = some x ∧ st.entry.type = .lath ∧ (s.b.core (72 * x.field + x.unit)).slotOf a n = some (k, it) ∧ (s.b.core (72 * x.field + x.unit)).itemOver k it = true) ∧
    (∃ (s : State), ∃ (a : StRef), ∃ (n : Nat), ∃ (r : Run), ∃ (st : Station), ∃ (x : Active), s.b.ridge.items = [] ∧ s.b.live a = some (r, st) ∧ st.item n = some x ∧ x.done = false ∧ st.entry.type ≠ .lath) ∧
    (∃ (s : State), ∃ (a : StRef), ∃ (n : Nat), ∃ (r : Run), ∃ (st : Station), ∃ (x : Active), ∃ (g : Image), s.b.runs = [r] ∧ r.ref = stRun a ∧ s.b.live a = some (r, st) ∧ s.b.start.img = some g ∧ st.item n = some x ∧ g.watchdog ≤ s.b.coreSince x.at_) ∧
    (∃ (s : State), ∃ (a : StRef), ∃ (n : Nat), ∃ (r : Run), ∃ (st : Station), ∃ (x : Active), ∃ (g : Image), s.b.runs = [r] ∧ r.ref = stRun a ∧ s.b.live a = some (r, st) ∧ s.b.start.img = some g ∧ st.item n = some x ∧ s.b.coreSince x.at_ < g.watchdog) :=
  ⟨⟨tS (tRuns [tStn .size [] .none] [{ tEdge 1 0 0 0 0 1 1 with tiles := [{ fmt := 0, ovf := false, unf := false, last := false, flags := 0, rows := 1, cols := 1, no := 0, dbytes := 4, seq := 0, data := List.replicate 4 0#8 }] }]), tAt, tRun [tStn .size [] .none] [{ tEdge 1 0 0 0 0 1 1 with tiles := [{ fmt := 0, ovf := false, unf := false, last := false, flags := 0, rows := 1, cols := 1, no := 0, dbytes := 4, seq := 0, data := List.replicate 4 0#8 }] }], tStn .size [] .none, { tEdge 1 0 0 0 0 1 1 with tiles := [{ fmt := 0, ovf := false, unf := false, last := false, flags := 0, rows := 1, cols := 1, no := 0, dbytes := 4, seq := 0, data := List.replicate 4 0#8 }] }, 0, { fmt := 0, ovf := false, unf := false, last := false, flags := 0, rows := 1, cols := 1, no := 0, dbytes := 4, seq := 0, data := List.replicate 4 0#8 }, [], by and_intros <;> decide +kernel⟩,
    ⟨tS (tRuns [tStn .vat (List.replicate 64 1#8) .none] []), tAt, 3, tRun [tStn .vat (List.replicate 64 1#8) .none] [], tStn .vat (List.replicate 64 1#8) .none, by and_intros <;> decide +kernel⟩,
    ⟨tS { tRuns [tStn .size [] .none] [] with ridge := { Ridge.reset with items := [{ run := tRef, station := 0, ordinal := 0, slots := [], need := 1, fired := true, spilled := false, prio := 0 }] } }, 0, 0, 0, { run := tRef, station := 0, ordinal := 0, slots := [], need := 1, fired := true, spilled := false, prio := 0 }, tRun [tStn .size [] .none] [], tStn .size [] .none, by and_intros <;> decide +kernel⟩,
    ⟨tS (tRuns [{ tStn .size [] .none with active := [{ tItem [] with done := true }] }] []), tAt, 0, tRun [{ tStn .size [] .none with active := [{ tItem [] with done := true }] }] [], { tStn .size [] .none with active := [{ tItem [] with done := true }] }, { tItem [] with done := true }, by and_intros <;> decide +kernel⟩,
    ⟨tS { tRuns [{ tLathSt [] with active := [{ tItem [] with field := 7, unit := 71 }] }] [tEdge 0 0 1 0 1 1 2] with cores := [(575, tLCore [] none)] }, tAt, 0, tRun [{ tLathSt [] with active := [{ tItem [] with field := 7, unit := 71 }] }] [tEdge 0 0 1 0 1 1 2], { tLathSt [] with active := [{ tItem [] with field := 7, unit := 71 }] }, { tItem [] with field := 7, unit := 71 }, 0, { ordinal := 0, tiles := [(0, tTile 1 1 2 8)], sheafs := [{ threads := [], waitAt := none }], ovf := false, unf := false, at_ := 0 }, by and_intros <;> decide +kernel⟩,
    ⟨tS (tRuns [{ tStn .size [] .none with active := [tItem []] }] []), tAt, 0, tRun [{ tStn .size [] .none with active := [tItem []] }] [], { tStn .size [] .none with active := [tItem []] }, tItem [], by and_intros <;> decide +kernel⟩,
    ⟨tS (tRuns [{ tStn .size [] .none with active := [tItem []] }] []), tAt, 0, tRun [{ tStn .size [] .none with active := [tItem []] }] [], { tStn .size [] .none with active := [tItem []] }, tItem [], tImg, by and_intros <;> decide +kernel⟩,
    ⟨tS (tRuns [{ tStn .size [] .none with active := [{ tItem [] with at_ := 1000000000 }] }] []), tAt, 0, tRun [{ tStn .size [] .none with active := [{ tItem [] with at_ := 1000000000 }] }] [], { tStn .size [] .none with active := [{ tItem [] with at_ := 1000000000 }] }, { tItem [] with at_ := 1000000000 }, tImg, by and_intros <;> decide +kernel⟩⟩

/-- States and operands that meet the hypotheses of RidgeTokensAndHeld, clause by clause. -/
theorem witness_RidgeTokensAndHeld :
    (∃ (s : State), ∃ (i : Nat), ∃ (t : Token), ∃ (a : StRef), s.b.ridge.tokens[i]? = some t ∧ a = { tenant := t.run.tenant, handle := t.run.handle, station := t.station }) ∧
    (∃ (s : State), ∃ (t strm : Nat), ∃ (h : Nat × HeldQueue × Nat), ∃ (p : Pkt), (s.b.ridge.held.find? (fun h => h.1 = t) = some h) ∧ h.2.1 = .admission strm ∧ s.b.heldPacket t strm = some p ∧ p.stream = strm ∧ (∀ y ∈ s.b.ridge.held.erase h, ¬ (y.1 = t ∧ y.2.1 = h.2.1)) ∧ (s.b.strm t strm).broken = false ∧ ((s.b.strm t strm).next < p.seq ∨ (p.seq = (s.b.strm t strm).next ∧ (s.b.strm t strm).fenced = true)) ∧ p.seq < (s.b.strm t strm).next + 1024 ∧ ((s.b.strm t strm).held.any (fun q => q.seq = p.seq) = false) ∧ 1 + needsPage (s.b.strm t strm).held.length ((s.b.strm t strm).held.length + 1) ≤ s.b.gutterFree t) ∧
    (∃ (s : State), ∃ (t i : Nat), ∃ (h : Nat × HeldQueue × Nat), ∃ (r : Run), ∃ (x : Item), (s.b.ridge.held.find? (fun h => h.1 = t) = some h) ∧ h.2.1 = .items x.run i ∧ x.station = i ∧ x.run.tenant = t ∧ s.b.ridge.items = [x] ∧ s.b.findRun x.run = some r ∧ x.fired = false ∧ x.spilled = false ∧ x.need ≤ x.slots.length ∧ (∀ y ∈ s.b.ridge.held.erase h, ¬ (y.1 = t ∧ y.2.1 = h.2.1)) ∧ 0 < s.b.gutterFree t) ∧
    (∃ (s : State), ∃ (t : Nat), s.b.gutterFree t = 0) :=
  ⟨⟨tS { tRuns [tStn .yealm [] (.yealm (tYSt []))] [] with ridge := { Ridge.reset with tokens := [{ run := tRef, station := 0, ordinal := 0, tree := 0, window := 0, yidx := 0, ycount := 1, hits := 0 }] } }, 0, { run := tRef, station := 0, ordinal := 0, tree := 0, window := 0, yidx := 0, ycount := 1, hits := 0 }, tAt, by and_intros <;> decide +kernel⟩,
    ⟨tS { tB with inq := [{ tPkt 0x0E 0 [] [] with seq := 5 }], ridge := { Ridge.reset with held := [(0, .admission 0, 0)] } }, 0, 0, (0, .admission 0, 0), { tPkt 0x0E 0 [] [] with seq := 5 }, by and_intros <;> decide +kernel⟩,
    ⟨tS { tRuns [] [] with ridge := { Ridge.reset with held := [(0, .items tRef 0, 0)], items := [{ run := tRef, station := 0, ordinal := 0, slots := [], need := 0, fired := false, spilled := false, prio := 0 }] } }, 0, 0, (0, .items tRef 0, 0), tRun [] [], { run := tRef, station := 0, ordinal := 0, slots := [], need := 0, fired := false, spilled := false, prio := 0 }, by and_intros <;> decide +kernel⟩,
    ⟨tS (tStart (fun x => { x with img := some { tImg with tenants := [{ tTenant with gutter := 0 }] } })), 0, by decide +kernel⟩⟩

/-- States and operands that meet the hypotheses of CalenderIntervals, clause by clause. -/
theorem witness_CalenderIntervals :
    (∃ (s : State), s.b.calOn = true ∧ s.b.cal.lastInterval + 20 ≤ s.b.now ∧ s.b.cal.ramp = none) ∧
    (∃ (s : State), s.b.calOn = true ∧ s.b.cal.lastInterval + 20 ≤ s.b.now ∧ s.b.cal.ramp = none ∧ s.b.cal.ceiling = none ∧ s.b.cal.steps = []) ∧
    (∃ (s : State), ∃ (est hi : Nat), ∃ (drawn : List Nat), ∃ (k : StepKind), ∃ (l : List StepKind), s.b.calOn = true ∧ s.b.cal.lastInterval + 20 ≤ s.b.now ∧ s.b.cal.ramp = none ∧ s.b.cal.ceiling = none ∧ s.b.cal.withheld = 0 ∧ hi = min (s.b.cal.gPrev + s.b.cal.slewStep) (s.b.effCap * 1000000) ∧ (est ≤ hi - min (min (sumNat ((shedSteps s.b.cal.steps drawn).map (fun x => x.hold))) (s.b.cal.held + s.b.cal.slewStep)) hi) ∧ s.b.waitingSteps = k :: l) ∧
    (∃ (s : State), ∃ (r : Ramp), s.b.cal.lastInterval + 20 ≤ s.b.now ∧ s.b.cal.ramp = some r) ∧
    (∃ (s : State), s.b.calOn = true ∧ s.b.cal.lastCalib + 2000 ≤ s.b.now) :=
  ⟨⟨tS tB, by and_intros <;> decide +kernel⟩,
    ⟨tS tB, by and_intros <;> decide +kernel⟩,
    ⟨tS (tStart (fun x => { x with state := .starting, phase := 4, woken := [] })), 0, min ((tS (tStart (fun x => { x with state := .starting, phase := 4, woken := [] }))).b.cal.gPrev + (tS tB).b.cal.slewStep) ((tS tB).b.effCap * 1000000), [], _, _, by decide +kernel, by decide +kernel, by decide +kernel, by decide +kernel, by decide +kernel, by decide +kernel, by decide +kernel, rfl⟩,
    ⟨tS (tCal (fun c => { c with ramp := some { start := 5, post := 1, t0 := 0, cycles := 9, stacksLow := true } })), { start := 5, post := 1, t0 := 0, cycles := 9, stacksLow := true }, by and_intros <;> decide +kernel⟩,
    ⟨tS tB, by and_intros <;> decide +kernel⟩⟩

/-- States and operands that meet the hypotheses of CalenderSteps, clause by clause. -/
theorem witness_CalenderSteps :
    (∃ (s : State), ∃ (x : CalStep), ∃ (n : StepName), ∃ (l : List CalStep), ∃ f, (s.b.cal.steps.find? (fun y => stepIs n y.kind && decide (y.phase = .preload)) = some x) ∧ loopHold s.b.cal.steps + preloadUpTo n s.b.cal.steps ≤ s.b.cal.held ∧ (l = s.b.cal.steps.map (fun y => if y.kind = x.kind then { y with phase := .loop s.b.now } else y)) ∧ n = .wake f) ∧
    (∃ (s : State), ∃ (x : CalStep), ∃ (n : StepName), ∃ (l : List CalStep), ∃ k, (s.b.cal.steps.find? (fun y => stepIs n y.kind && decide (y.phase = .preload)) = some x) ∧ loopHold s.b.cal.steps + preloadUpTo n s.b.cal.steps ≤ s.b.cal.held ∧ (l = s.b.cal.steps.map (fun y => if y.kind = x.kind then { y with phase := .loop s.b.now } else y)) ∧ n = .train k ∧ k < 24 ∧ s.b.eaves.length = 24) ∧
    (∃ (s : State), ∃ (x : CalStep), ∃ (n : StepName), ∃ (l : List CalStep), ∃ k, ∃ p, (s.b.cal.steps.find? (fun y => stepIs n y.kind && decide (y.phase = .preload)) = some x) ∧ loopHold s.b.cal.steps + preloadUpTo n s.b.cal.steps ≤ s.b.cal.held ∧ (l = s.b.cal.steps.map (fun y => if y.kind = x.kind then { y with phase := .loop s.b.now } else y)) ∧ n = .window k ∧ x.kind = .window k p ∧ k < 24 ∧ s.b.eaves.length = 24) ∧
    (∃ (s : State), ∃ (x : CalStep), ∃ (n : StepName), ∃ (l : List CalStep), ∃ g, (s.b.cal.steps.find? (fun y => stepIs n y.kind && decide (y.phase = .preload)) = some x) ∧ loopHold s.b.cal.steps + preloadUpTo n s.b.cal.steps ≤ s.b.cal.held ∧ (l = s.b.cal.steps.map (fun y => if y.kind = x.kind then { y with phase := .loop s.b.now } else y)) ∧ n = .group g) ∧
    (∃ (s : State), ∃ (n : StepName), s.b.cal.held < loopHold s.b.cal.steps + preloadUpTo n s.b.cal.steps) ∧
    (∃ (s : State), ∃ (x : CalStep), ∃ (n : StepName), ∃ (t0 : Nat), s.b.cal.steps = [x] ∧ stepIs n x.kind = true ∧ x.phase = .loop t0 ∧ t0 + 200 ≤ s.b.now ∧ s.b.groupPending x.kind = false) ∧
    (∃ (s : State), ∃ (temps : List (BitVec 12)), ∃ i, s.b.pins.pwrGood = true ∧ s.b.cal.lastSample + 2000 ≤ s.b.now ∧ (∀ i, i < 64 → i ∈ s.b.cal.hot → s.b.unitIn (i / 8) 11 (i % 8) = true → tempOf (temps.getD i 0#12) < 1680) ∧ i < 64 ∧ s.b.unitIn (i / 8) 11 (i % 8) = true ∧ 1600 ≤ tempOf (temps.getD i 0#12) ∧ s.b.cal.ceiling = none) ∧
    (∃ (s : State), ∃ (temps : List (BitVec 12)), ∃ i, ∃ c, s.b.pins.pwrGood = true ∧ s.b.cal.lastSample + 2000 ≤ s.b.now ∧ (∀ i, i < 64 → i ∈ s.b.cal.hot → s.b.unitIn (i / 8) 11 (i % 8) = true → tempOf (temps.getD i 0#12) < 1680) ∧ i < 64 ∧ s.b.unitIn (i / 8) 11 (i % 8) = true ∧ 1568 ≤ tempOf (temps.getD i 0#12) ∧ s.b.cal.ceiling = some c) ∧
    (∃ (s : State), ∃ (temps : List (BitVec 12)), s.b.pins.pwrGood = true ∧ s.b.cal.lastSample + 2000 ≤ s.b.now ∧ (∀ i, i < 64 → i ∈ s.b.cal.hot → s.b.unitIn (i / 8) 11 (i % 8) = true → tempOf (temps.getD i 0#12) < 1680) ∧ (∀ i, i < 64 → s.b.unitIn (i / 8) 11 (i % 8) = true → tempOf (temps.getD i 0#12) < 1568)) :=
  ⟨⟨tS (tCal (fun c => { c with steps := [{ kind := .wake 7, declared := 5, field := 7, phase := .preload, shed := 0 }], held := 5 })), _, .wake 7, _, 7, rfl, by decide +kernel, rfl, by decide +kernel⟩,
    ⟨tS (tCal (fun c => { c with steps := [{ kind := .train 23, declared := 5, field := 7, phase := .preload, shed := 0 }], held := 5 })), _, .train 23, _, 23, rfl, by decide +kernel, rfl, by and_intros <;> decide +kernel⟩,
    ⟨tS (tCal (fun c => { c with steps := [{ kind := .window 23 63, declared := 5, field := 7, phase := .preload, shed := 0 }], held := 5 })), _, .window 23, _, 23, 63, rfl, by decide +kernel, rfl, by and_intros <;> decide +kernel⟩,
    ⟨tS (tCal (fun c => { c with steps := [{ kind := .group 255, declared := 5, field := 7, phase := .preload, shed := 0 }], held := 5 })), _, .group 255, _, 255, rfl, by decide +kernel, rfl, by decide +kernel⟩,
    ⟨tS (tCal (fun c => { c with steps := [{ kind := .group 255, declared := 5, field := 7, phase := .preload, shed := 0 }], held := 4 })), .group 255, by decide +kernel⟩,
    ⟨tS (tCal (fun c => { c with steps := [{ kind := .wake 7, declared := 5, field := 7, phase := .loop 0, shed := 0 }] })), _, .wake 7, 0, rfl, by and_intros <;> decide +kernel⟩,
    ⟨tS tB, List.replicate 64 1600#12, 63, by and_intros <;> decide +kernel⟩,
    ⟨tS (tCal (fun c => { c with ceiling := some 5 })), List.replicate 64 1600#12, 63, 5, by and_intros <;> decide +kernel⟩,
    ⟨tS tB, List.replicate 64 1567#12, by and_intros <;> decide +kernel⟩⟩

/-- States and operands that meet the hypotheses of ThermalTrip, clause by clause. -/
theorem witness_ThermalTrip :
    ∃ (s : State), ∃ (temps1 temps2 : List (BitVec 12)), ∃ (i now2 : Nat), s.b.pins.pwrGood = true ∧ s.b.cal.lastSample + 2000 ≤ s.b.now ∧ i < 64 ∧ s.b.unitIn (i / 8) 11 (i % 8) = true ∧ 1680 ≤ tempOf (temps1.getD i 0#12) ∧ 1680 ≤ tempOf (temps2.getD i 0#12) ∧ s.b.now + 2000 ≤ now2 :=
  ⟨tS tB, List.replicate 64 1680#12, List.replicate 64 1680#12, 63, 1000002000, by and_intros <;> decide +kernel⟩

/-- States and operands that meet the hypotheses of SizingTiles, clause by clause. -/
theorem witness_SizingTiles :
    (∃ (s : State), ∃ (a : StRef), ∃ (n j : Nat), ∃ (r : Run), ∃ (st : Station), ∃ (x : Active), ∃ (t : Tile), ∃ (ed : Edge), s.b.working a n = some (r, st, x) ∧ st.entry.type = .size ∧ x.tile 0 = some t ∧ r.outEdge a.station 0 = some (j, ed) ∧ s.b.canPush (stRun a) j ed ∧ st.outbox = [] ∧ st.turn n = true ∧ x.field < 8) ∧
    (∃ (t : Tile), t.ovf = true) ∧
    (∃ (t : Tile), t.unf = true) ∧
    (∃ (t : Tile), fmtOf t.fmt = none) :=
  ⟨⟨tS (tRuns [tWork .size [] .none [(0, tTile 1 1 2 8)]] [tEdge 0 0 1 0 1 1 2]), tAt, 0, _, _, _, _, _, _, rfl, by decide +kernel, rfl, rfl, by and_intros <;> decide +kernel⟩,
    ⟨{ tTile 1 1 2 8 with ovf := true }, by decide +kernel⟩,
    ⟨{ tTile 1 1 2 8 with unf := true }, by decide +kernel⟩,
    ⟨tTile 0xFF 1 2 8, by decide +kernel⟩⟩

/-- States and operands that meet the hypotheses of VatTiles, clause by clause. -/
theorem witness_VatTiles :
    (∃ (s : State), ∃ (a : StRef), ∃ (n j : Nat), ∃ (r : Run), ∃ (st : Station), ∃ (x : Active), ∃ (ed : Edge), ∃ (b1 : Block), ∃ (l : List Byte), s.b.working a n = some (r, st, x) ∧ st.entry.type = .vat ∧ (vatPar st.params).mode = vatLoad ∧ r.outEdge a.station 0 = some (j, ed) ∧ s.b.canPush (stRun a) j ed ∧ st.outbox = [] ∧ st.turn n = true ∧ (∀ p ∈ (vatPar st.params).slot n (vatPar st.params).rows (vatPar st.params).cols, s.b.canRead r.ref.tenant p.1 p.2 = true) ∧ Block.loadAll x.field r.ref.tenant ((vatPar st.params).slot n (vatPar st.params).rows (vatPar st.params).cols) s.b [] = (b1, l, stOk)) ∧
    (∃ (s : State), ∃ (a : StRef), ∃ (n : Nat), ∃ (r : Run), ∃ (st : Station), ∃ (x : Active), ∃ (t : Tile), ∃ (b1 : Block), s.b.working a n = some (r, st, x) ∧ st.entry.type = .vat ∧ x.tile 0 = some t ∧ (vatPar st.params).mode = vatStore ∧ t.rows ≤ (vatPar st.params).rows ∧ t.cols ≤ (vatPar st.params).cols ∧ s.b.canWriteAll r.ref.tenant ((vatPar st.params).slot t.no t.rows t.cols) = true ∧ (Block.storeAll x.field r.ref.tenant (cutRanges ((vatPar st.params).slot t.no t.rows t.cols) (convertTile r.seed a.station (vatPar st.params).mfmt t).1.data) ((s.b.countSizing x.field (convertTile r.seed a.station (vatPar st.params).mfmt t).2).modRun r.ref (fun z => { z with ovf := z.ovf || (convertTile r.seed a.station (vatPar st.params).mfmt t).1.ovf, unf := z.unf || (convertTile r.seed a.station (vatPar st.params).mfmt t).1.unf })) = (b1, stOk))) ∧
    (∃ (s : State), ∃ (a : StRef), ∃ (n va len pa : Nat), ∃ (r : Run), ∃ (st : Station), ∃ (x : Active), ∃ (t : Tile), s.memSound ∧ s.b.working a n = some (r, st, x) ∧ st.entry.type = .vat ∧ x.tile 0 = some t ∧ (vatPar st.params).mode = vatStore ∧ t.rows ≤ (vatPar st.params).rows ∧ t.cols ≤ (vatPar st.params).cols ∧ (vatPar st.params).slot t.no t.rows t.cols = [(va, len)] ∧ 0 < len ∧ va % 64 + len ≤ 64 ∧ (convertTile r.seed a.station (vatPar st.params).mfmt t).1.data.length = len ∧ s.b.vat.translate r.ref.tenant va .store = .ok pa ∧ regionOf pa = 1 ∧ s.b.stays r.ref.tenant va ∧ s.b.feltBadIn pa len = [] ∧ (∀ k, (s.b.eave k).par = [])) ∧
    (∃ (s : State), ∃ (a : StRef), ∃ (n : Nat), ∃ (r : Run), ∃ (st : Station), ∃ (x : Active), ∃ (t : Tile), ∃ (h : Kv Nat Nat), s.b.working a n = some (r, st, x) ∧ st.entry.type = .vat ∧ x.tile 0 = some t ∧ (vatPar st.params).mode = vatHint ∧ st.turn n = true ∧ st.body = .vat h) :=
  ⟨⟨tS (tRuns [tWork .vat (wordsBytes [0x100#32, 0x200000#32, 0#32, 8#32, 1#32, 0x00020001#32]) .none []] [tEdge 0 0 1 0 1 1 2]), tAt, 0, _, _, _, _, _, _, _, rfl, by decide +kernel, by decide +kernel, rfl, by first | decide +kernel | exact rfl | exact ⟨rfl, rfl, rfl, by decide⟩ | (unfold Block.noneWaits; decide +kernel) | (intro x h; cases h; done), by decide +kernel, by decide +kernel, by decide +kernel, rfl⟩,
    ⟨tS (tRuns [tWork .vat (wordsBytes [0x101#32, 0x200000#32, 0#32, 8#32, 1#32, 0x00020001#32]) .none [(0, tTile 1 1 2 8)]] []), tAt, 0, _, _, _, _, _, rfl, by decide +kernel, rfl, by decide +kernel, by decide +kernel, by decide +kernel, by decide +kernel, rfl⟩,
    ⟨tS (tRuns [tWork .vat (wordsBytes [0x101#32, 0x200000#32, 0#32, 8#32, 1#32, 0x00020001#32]) .none [(0, tTile 1 1 2 8)]] []), tAt, 0, 0x200000, 8, physFelt 0 0, _, _, _, _, by rfl, rfl, by decide +kernel, rfl, by decide +kernel, by decide +kernel, by decide +kernel, by decide +kernel, by decide +kernel, by decide +kernel, by decide +kernel, by decide +kernel, by decide +kernel, by (intro x h; cases h), by decide +kernel, fun k => tB_par k⟩,
    ⟨tS (tRuns [tWork .vat (wordsBytes [0x2#32, 0#32, 0#32, 0#32, 1#32, 0x00200002#32]) (.vat []) [(0, tTile 0 2 32 64)]] []), tAt, 0, _, _, _, _, _, rfl, by decide +kernel, rfl, by decide +kernel, by decide +kernel, rfl⟩⟩

/-- States and operands that meet the hypotheses of VatTileKills, clause by clause. -/
theorem witness_VatTileKills :
    (∃ (s : State), ∃ (a : StRef), ∃ (n : Nat), ∃ (r : Run), ∃ (st : Station), ∃ (x : Active), ∃ (t : Tile), s.b.working a n = some (r, st, x) ∧ st.entry.type = .vat ∧ x.tile 0 = some t ∧ (vatPar st.params).mode = vatStore ∧ ((vatPar st.params).rows < t.rows ∨ (vatPar st.params).cols < t.cols)) ∧
    (∃ (s : State), ∃ (a : StRef), ∃ (n status : Nat), ∃ (r : Run), ∃ (st : Station), ∃ (x : Active), ∃ (e : EdgeEntry), ∃ (b1 : Block), ∃ (l : List Byte), s.b.working a n = some (r, st, x) ∧ st.entry.type = .vat ∧ (vatPar st.params).mode = vatLoad ∧ r.outShape a.station 0 = some e ∧ st.outbox = [] ∧ st.turn n = true ∧ (∀ p ∈ (vatPar st.params).slot n (vatPar st.params).rows (vatPar st.params).cols, s.b.canRead r.ref.tenant p.1 p.2 = true) ∧ Block.loadAll x.field r.ref.tenant ((vatPar st.params).slot n (vatPar st.params).rows (vatPar st.params).cols) s.b [] = (b1, l, status) ∧ status ≠ stOk) ∧
    (∃ (s : State), ∃ (a : StRef), ∃ (n status : Nat), ∃ (r : Run), ∃ (st : Station), ∃ (x : Active), ∃ (t : Tile), ∃ (b1 : Block), s.b.working a n = some (r, st, x) ∧ st.entry.type = .vat ∧ x.tile 0 = some t ∧ (vatPar st.params).mode = vatStore ∧ t.rows ≤ (vatPar st.params).rows ∧ t.cols ≤ (vatPar st.params).cols ∧ s.b.canWriteAll r.ref.tenant ((vatPar st.params).slot t.no t.rows t.cols) = true ∧ (Block.storeAll x.field r.ref.tenant (cutRanges ((vatPar st.params).slot t.no t.rows t.cols) (convertTile r.seed a.station (vatPar st.params).mfmt t).1.data) ((s.b.countSizing x.field (convertTile r.seed a.station (vatPar st.params).mfmt t).2).modRun r.ref (fun z => { z with ovf := z.ovf || (convertTile r.seed a.station (vatPar st.params).mfmt t).1.ovf, unf := z.unf || (convertTile r.seed a.station (vatPar st.params).mfmt t).1.unf })) = (b1, status)) ∧ status ≠ stOk) :=
  ⟨⟨tS (tRuns [tWork .vat (wordsBytes [0x101#32, 0x200000#32, 0#32, 8#32, 1#32, 0x00020001#32]) .none [(0, tTile 1 1 3 12)]] []), tAt, 0, _, _, _, _, rfl, by decide +kernel, rfl, by and_intros <;> decide +kernel⟩,
    ⟨tS (tRuns [tWork .vat (wordsBytes [0x100#32, 0x600000#32, 0#32, 8#32, 1#32, 0x00020001#32]) .none []] [tEdge 0 0 1 0 1 1 2]), tAt, 0, _, _, _, _, _, _, _, rfl, by decide +kernel, by decide +kernel, rfl, by decide +kernel, by decide +kernel, by decide +kernel, rfl, by decide +kernel⟩,
    ⟨tS (tRuns [tWork .vat (wordsBytes [0x101#32, 0x600000#32, 0#32, 8#32, 1#32, 0x00020001#32]) .none [(0, tTile 1 1 2 8)]] []), tAt, 0, _, _, _, _, _, _, rfl, by decide +kernel, rfl, by decide +kernel, by decide +kernel, by decide +kernel, by decide +kernel, rfl, by decide +kernel⟩⟩

/-- States and operands that meet the hypotheses of VatPagesIn, clause by clause. -/
theorem witness_VatPagesIn :
    (∃ (s : State), ∃ (t va dev slot : Nat), ∃ (need : Option Need), ∃ (o : Obj), ∃ (sh : Sheet), ∃ (b0 : Block), ∃ b1, ∃ d, s.b.serving = true ∧ s.b.vat.findObj t va = some o ∧ s.b.vat.sheet t (va / sheetBytes) = some sh ∧ sh.place = .far dev slot ∧ sh.paging = none ∧ s.b.noneWaits ∧ s.b.vat.inFlight (s.b.vat.portOf dev) < 64 ∧ s.b.vat.kindAt sh = some (kindOf o.placed o.field o.spread) ∧ (b0 = (s.b.bump Map.vatPageStall 1).modSheet t (va / sheetBytes) (fun x => { x with paging := some (askedPage (va % sheetBytes / pageBytes) s.b.now need.toList) })) ∧ s.b.hbmFree ≠ 0 ∧ b0.takeSlot (kindOf o.placed o.field o.spread) = some (b1, d) ∧ (∀ z ∈ b1.vat.rows, z.kind ≠ .parity)) ∧
    (∃ (s : State), ∃ (t va dev slot : Nat), ∃ (need : Option Need), ∃ (o : Obj), ∃ (sh : Sheet), ∃ (b0 : Block), ∃ v, ∃ d, s.b.serving = true ∧ s.b.vat.findObj t va = some o ∧ s.b.vat.sheet t (va / sheetBytes) = some sh ∧ sh.place = .far dev slot ∧ sh.paging = none ∧ s.b.noneWaits ∧ s.b.vat.inFlight (s.b.vat.portOf dev) < 64 ∧ s.b.vat.kindAt sh = some (kindOf o.placed o.field o.spread) ∧ (b0 = (s.b.bump Map.vatPageStall 1).modSheet t (va / sheetBytes) (fun x => { x with paging := some (askedPage (va % sheetBytes / pageBytes) s.b.now need.toList) })) ∧ (s.b.hbmFree = 0 ∨ b0.takeSlot (kindOf o.placed o.field o.spread) = none) ∧ (∀ x ∈ s.b.vat.sheets, x.evict = none) ∧ b0.vat.useHbm t < (b0.tenant t).quotaHbm ∧ b0.victim (kindOf o.placed o.field o.spread) none = some v ∧ b0.vat.sheet v.tenant v.num = some v ∧ v.farCopy = none ∧ b0.vat.takeFar = some d ∧ s.b.vat.inFlight (s.b.vat.portOf d.1) < 64) ∧
    (∃ (s : State), ∃ (t va dev slot : Nat), ∃ (need : Option Need), ∃ (o : Obj), ∃ (sh : Sheet), ∃ (b0 : Block), s.b.serving = true ∧ s.b.vat.findObj t va = some o ∧ s.b.vat.sheet t (va / sheetBytes) = some sh ∧ sh.place = .far dev slot ∧ sh.paging = none ∧ s.b.noneWaits ∧ s.b.vat.inFlight (s.b.vat.portOf dev) < 64 ∧ s.b.vat.kindAt sh = some (kindOf o.placed o.field o.spread) ∧ (b0 = (s.b.bump Map.vatPageStall 1).modSheet t (va / sheetBytes) (fun x => { x with paging := some (askedPage (va % sheetBytes / pageBytes) s.b.now need.toList) })) ∧ (s.b.hbmFree = 0 ∨ b0.takeSlot (kindOf o.placed o.field o.spread) = none) ∧ b0.victim (kindOf o.placed o.field o.spread) none = none ∧ b0.takeSheet (kindOf o.placed o.field o.spread) = none) ∧
    (∃ (s : State), ∃ (t va dev slot : Nat), ∃ (o : Obj), ∃ (sh : Sheet), ∃ (p : Paging), s.b.serving = true ∧ s.b.vat.findObj t va = some o ∧ s.b.vat.sheet t (va / sheetBytes) = some sh ∧ sh.place = .far dev slot ∧ sh.paging = some p ∧ p.dst.isSome = true ∧ p.arrived.contains (va % sheetBytes / pageBytes) = false ∧ s.b.noneWaits) ∧
    (∃ (s : State), ∃ (t num page dev t0 : Nat), ∃ (sh : Sheet), ∃ (p : Paging), s.b.farRead t num page = some (sh, dev, t0) ∧ sh.paging = some p) ∧
    (∃ (s : State), ∃ (t num page dev t0 : Nat), ∃ (sh : Sheet), ∃ (p : Paging), ∃ (g : Image), ∃ c, s.b.farRead t num page = some (sh, dev, t0) ∧ sh.paging = some p ∧ s.b.noneWaits ∧ s.b.start.img = some g ∧ g.gcplTo ≤ s.b.ctlSince t0 ∧ c ∈ [Instr.farReadCompletion t num page true, .gableCompletionTimeout t num page]) ∧
    (∃ (s : State), ∃ (t num page dev t0 : Nat), ∃ (sh : Sheet), ∃ (g : Image), s.b.farRead t num page = some (sh, dev, t0) ∧ s.b.start.img = some g ∧ s.b.ctlSince t0 < g.gcplTo) ∧
    (∃ (s : State), ∃ (t num page dev slot : Nat), ∃ (d : Nat × Nat), ∃ (sh : Sheet), ∃ (p : Paging), ∃ (row : ZRow), ∃ (rest : List Nat), s.memSound ∧ s.b.vat.sheet t num = some sh ∧ sh.place = .far dev slot ∧ sh.paging = some p ∧ p.dst = some d ∧ p.got = page :: rest ∧ s.b.vat.row d.1 = some row ∧ (∀ z ∈ s.b.vat.rows, z.kind ≠ .parity) ∧ s.b.noneWaits ∧ (∀ x y, x < sheetBytes → y < sheetBytes → row.phys d.2 x = row.phys d.2 y → x = y) ∧ (page + 1) * pageBytes ≤ sheetBytes) ∧
    (∃ (s : State), ∃ (r : PrefetchRange), s.b.vat.ranges = [r] ∧ (s.b.vat.sheets.any (fun x => x.paging.any (fun p => p.dst.isNone && !p.prefetch)) = false) ∧ ((s.b.vat.notResident r.tenant r.base r.len).filter (fun x => x.paging.isNone) = [])) ∧
    (∃ (s : State), ∃ (r : PrefetchRange), ∃ sh, ∃ l, ∃ dev, ∃ slot, s.b.vat.ranges = [r] ∧ (s.b.vat.sheets.any (fun x => x.paging.any (fun p => p.dst.isNone && !p.prefetch)) = false) ∧ ((s.b.vat.notResident r.tenant r.base r.len).filter (fun x => x.paging.isNone) = sh :: l) ∧ sh.place = .far dev slot ∧ (s.b.vat.useHbm r.tenant + s.b.vat.sheets.countP (fun x => decide (x.tenant = r.tenant) && x.waits) < (s.b.tenant r.tenant).quotaHbm) ∧ s.b.vat.inFlight (s.b.vat.portOf dev) < 64) ∧
    (∃ (s : State), ∃ (r : PrefetchRange), ∃ sh, ∃ l, ∃ dev, ∃ slot, s.b.vat.ranges = [r] ∧ (s.b.vat.sheets.any (fun x => x.paging.any (fun p => p.dst.isNone && !p.prefetch)) = false) ∧ ((s.b.vat.notResident r.tenant r.base r.len).filter (fun x => x.paging.isNone) = sh :: l) ∧ sh.place = .far dev slot ∧ ((s.b.tenant r.tenant).quotaHbm ≤ s.b.vat.useHbm r.tenant + s.b.vat.sheets.countP (fun x => decide (x.tenant = r.tenant) && x.waits) ∨ 64 ≤ s.b.vat.inFlight (s.b.vat.portOf dev))) :=
  ⟨⟨tS (tVat tSheet), 0, 0x403000, _, _, none, _, _, _, _, _, by decide +kernel, rfl, rfl, rfl, by decide +kernel, by (unfold Block.noneWaits; decide +kernel), by decide +kernel, by decide +kernel, rfl, by decide +kernel, rfl, by decide +kernel⟩,
    ⟨tS { tVat tSheet with eaves := List.replicate 24 Eave.reset, vat := { (tVat tSheet).vat with sheets := [tSheet, { tSheet with num := 3, place := .stack 0 0 }] } }, 0, 0x403000, _, _, none, _, _, _, _, _, by decide +kernel, rfl, rfl, rfl, by decide +kernel, by (unfold Block.noneWaits; decide +kernel), by decide +kernel, by decide +kernel, rfl, by decide +kernel, by decide +kernel, by decide +kernel, rfl, by decide +kernel, by decide +kernel, rfl, by decide +kernel⟩,
    ⟨tS { tVat tSheet with eaves := List.replicate 24 Eave.reset }, 0, 0x403000, _, _, none, _, _, _, by decide +kernel, rfl, rfl, rfl, by decide +kernel, by (unfold Block.noneWaits; decide +kernel), by decide +kernel, by decide +kernel, rfl, by and_intros <;> decide +kernel⟩,
    ⟨tS (tVat { tSheet with paging := some { tPaging with dst := some (0, 0), out := [(3, 7)] } }), 0, 0x403000, _, _, _, _, _, by decide +kernel, rfl, rfl, rfl, rfl, by and_intros <;> first | decide +kernel | rfl | (unfold Block.noneWaits; decide +kernel)⟩,
    ⟨tS (tVat { tSheet with paging := some { tPaging with dst := some (0, 0), out := [(3, 7)] } }), 0, 2, 3, _, _, _, _, rfl, rfl⟩,
    ⟨tS { tVat { tSheet with paging := some { tPaging with dst := some (0, 0), out := [(3, 7)], needs := [{ handle := 1#32, station := 4, detail := 9#32 }] } } with runs := [tRun [] []] }, 0, 2, 3, _, _, _, _, _, .gableCompletionTimeout 0 2 3, rfl, rfl, by (unfold Block.noneWaits; decide +kernel), rfl, by and_intros <;> decide +kernel⟩,
    ⟨tS (tVat { tSheet with paging := some { tPaging with dst := some (0, 0), out := [(3, 1000000000)] } }), 0, 2, 3, _, _, _, _, rfl, rfl, by decide +kernel⟩,
    ⟨tS (tVat { tSheet with paging := some { tPaging with dst := some (0, 0), got := [511], arrived := [3] } }), 0, 2, 511, _, _, _, _, _, tRow, [], by rfl, rfl, rfl, rfl, rfl, by decide +kernel, by decide +kernel, by decide +kernel, by (unfold Block.noneWaits; decide +kernel), row_inj, by decide +kernel⟩,
    ⟨tS { tVat { tSheet with place := .stack 0 0 } with vat := { (tVat { tSheet with place := .stack 0 0 }).vat with ranges := [{ tenant := 0, base := 0x400000, len := 1, conf := 1, deadline := 0#32, order := 0 }] } }, _, rfl, by and_intros <;> decide +kernel⟩,
    ⟨tS { tVat tSheet with vat := { (tVat tSheet).vat with ranges := [{ tenant := 0, base := 0x400000, len := 1, conf := 1, deadline := 0#32, order := 0 }] } }, _, _, _, _, _, rfl, by decide +kernel, rfl, rfl, by and_intros <;> decide +kernel⟩,
    ⟨tS { tVat tSheet with vat := { (tVat tSheet).vat with tenants := List.replicate 16 { opened := true, prioMax := 7, quotaHbm := 0, quotaFelt := 100, quotaFar := 100 }, ranges := [{ tenant := 0, base := 0x400000, len := 1, conf := 1, deadline := 0#32, order := 0 }] } }, _, _, _, _, _, rfl, by decide +kernel, rfl, rfl, by decide +kernel⟩⟩

/-- States and operands that meet the hypotheses of VatSheets, clause by clause. -/
theorem witness_VatSheets :
    (∃ (s : State), ∃ (t va pa : Nat), ∃ (o : Obj), s.b.serving = true ∧ s.b.vat.findObj t va = some o ∧ o.placed = 3 ∧ o.felt[(va - o.base) / pageBytes]? = some pa ∧ o.feltTouched.contains ((va - o.base) / pageBytes) = false) ∧
    (∃ (s : State), ∃ (t va r j : Nat), ∃ (o : Obj), ∃ (sh : Sheet), s.b.serving = true ∧ s.b.vat.findObj t va = some o ∧ o.placed ≠ 3 ∧ s.b.vat.sheet t (va / sheetBytes) = some sh ∧ sh.place = .stack r j ∧ sh.touched = false ∧ sh.evict = none ∧ (∀ z ∈ s.b.vat.rows, z.kind ≠ .parity)) ∧
    (∃ (s : State), s.b.serving = true) ∧
    (∃ (s : State), ∃ (sh : Sheet), ∃ (e : Evict), s.pending = [] ∧ s.b.pins.pwrGood = true ∧ s.b.vat.sheets = [sh] ∧ sh.evict = some e ∧ e.removed = false ∧ e.clean = false ∧ sh.paging = none ∧ 32 ≤ 5 * (s.b.now + 1 - e.since)) ∧
    (∃ (s : State), ∃ (t num r j : Nat), ∃ (sh : Sheet), ∃ (e : Evict), s.memSound ∧ s.b.vat.sheet t num = some sh ∧ sh.place = .stack r j ∧ sh.evict = some e ∧ e.removed = true ∧ e.clean = false ∧ s.b.noneWaits ∧ (∀ q q' off, s.b.vat.slotOf q = some (r, j, off) → s.b.vat.slotOf q' = some (r, j, off) → q = q')) ∧
    (∃ (s : State), ∃ (t num : Nat), ∃ (sh : Sheet), ∃ (e : Evict), s.b.vat.sheet t num = some sh ∧ sh.evict = some e ∧ e.removed = false ∧ s.b.noneWaits) ∧
    (∃ (s : State), ∃ (t num : Nat), ∃ (sh : Sheet), ∃ (e : Evict), s.b.vat.sheet t num = some sh ∧ sh.evict = some e ∧ e.removed = true) ∧
    (∃ (s : State), ∃ (t num : Nat), ∃ (sh : Sheet), ∃ (e : Evict), s.b.vat.sheet t num = some sh ∧ sh.evict = some e ∧ e.removed = false) :=
  ⟨⟨tS { tB with vat := { tB.vat with objs := [{ tObj with feltTouched := [] }] } }, 0, 0x203FFF, _, _, by decide +kernel, rfl, by decide +kernel, rfl, by decide +kernel⟩,
    ⟨tS (tVat { tSheet with place := .stack 0 0, touched := false }), 0, 0x403000, _, _, _, _, by decide +kernel, rfl, by decide +kernel, rfl, rfl, by and_intros <;> decide +kernel⟩,
    ⟨tS (tVat tSheet), by decide +kernel⟩,
    ⟨tS (tVat { tSheet with place := .stack 0 0, evict := some { dev := 0, slot := 1, since := 0, removed := false, clean := false } }), { tSheet with place := .stack 0 0, evict := some { dev := 0, slot := 1, since := 0, removed := false, clean := false } }, { dev := 0, slot := 1, since := 0, removed := false, clean := false }, by and_intros <;> decide +kernel⟩,
    ⟨tS (tVat { tSheet with place := .stack 0 0, evict := some { dev := 0, slot := 1, since := 0, removed := true, clean := false } }), 0, 2, _, _, _, _, by rfl, rfl, rfl, rfl, by decide +kernel, by decide +kernel, by (unfold Block.noneWaits; decide +kernel), slot_inj (tVat { tSheet with place := .stack 0 0, evict := some { dev := 0, slot := 1, since := 0, removed := true, clean := false } }).vat rfl⟩,
    ⟨tS (tVat { tSheet with place := .stack 0 0, evict := some { dev := 0, slot := 1, since := 1000000000, removed := false, clean := false } }), 0, 2, _, _, rfl, rfl, by and_intros <;> first | decide +kernel | rfl | (unfold Block.noneWaits; decide +kernel)⟩,
    ⟨tS (tVat { tSheet with place := .stack 0 0, evict := some { dev := 0, slot := 1, since := 0, removed := true, clean := false } }), 0, 2, _, _, rfl, rfl, by decide +kernel⟩,
    ⟨tS (tVat { tSheet with place := .stack 0 0, evict := some { dev := 0, slot := 1, since := 0, removed := false, clean := false } }), 0, 2, _, _, rfl, rfl, by decide +kernel⟩⟩

/-- States and operands that meet the hypotheses of YealmWindows, clause by clause. -/
theorem witness_YealmWindows :
    (∃ (s : State), ∃ (a : StRef), ∃ (r : Run), ∃ (st : Station), ∃ (need n : Nat), ∃ slots, s.b.live a = some (r, st) ∧ st.entry.type = .yealm ∧ (yealmPar st.params).src = 3 ∧ st.yealm.windows = [] ∧ (st.active.any (fun x => !x.done) = true) ∧ st.yealm.formed < camW st.params * camH st.params ∧ need = min (yealmPar st.params).winRays (camW st.params * camH st.params - st.yealm.formed) ∧ n = st.yealm.asked.getD s.b.nextAsk ∧ s.b.asksBefore n = false ∧ s.b.allocRays st.homeField (yealmPar st.params).ents need = some slots) ∧
    (∃ (s : State), ∃ (a : StRef), ∃ (r : Run), ∃ (st : Station), ∃ (need n : Nat), s.b.live a = some (r, st) ∧ st.entry.type = .yealm ∧ (yealmPar st.params).src = 3 ∧ st.yealm.windows = [] ∧ (st.active.any (fun x => !x.done) = true) ∧ st.yealm.formed < camW st.params * camH st.params ∧ need = min (yealmPar st.params).winRays (camW st.params * camH st.params - st.yealm.formed) ∧ n = st.yealm.asked.getD s.b.nextAsk ∧ (s.b.asksBefore n = true ∨ s.b.allocRays st.homeField (yealmPar st.params).ents need = none)) ∧
    (∃ (s : State), ∃ (a : StRef), ∃ (r : Run), ∃ (st : Station), ∃ (slots : List Nat), s.b.live a = some (r, st) ∧ st.entry.type = .yealm ∧ ((yealmPar st.params).src = 1 ∨ (yealmPar st.params).src = 2) ∧ st.yealm.windows = [] ∧ st.yealm.rows ≠ [] ∧ st.yealm.rows.length ≤ (yealmPar st.params).winRays ∧ st.portClosed 0 = false ∧ s.b.asksBefore (st.yealm.asked.getD s.b.nextAsk) = false ∧ s.b.allocRays st.homeField (yealmPar st.params).ents (yealmPar st.params).winRays = some slots) ∧
    (∃ (s : State), ∃ (a : StRef), ∃ (r : Run), ∃ (st : Station), ∃ (w : YWindow), s.b.live a = some (r, st) ∧ st.entry.type = .yealm ∧ st.yealm.windows = [w] ∧ w.full = true ∧ w.order = none) ∧
    (∃ (s : State), ∃ (a : StRef), ∃ (r : Run), ∃ (st : Station), ∃ (w : YWindow), ∃ (j : Nat), ∃ (ed : Edge), ∃ (c : Cursor), s.b.live a = some (r, st) ∧ st.entry.type = .yealm ∧ st.outbox = [] ∧ st.homeField < 8 ∧ c = (if st.yealm.yealm = 0 then ({ cohort := st.yealm.cohort, pass := st.yealm.pass, window := st.yealm.window } : Cursor).roll (yealmPar st.params) st.yealm.total else { cohort := st.yealm.cohort, pass := st.yealm.pass, window := st.yealm.window }) ∧ st.yealm.windows = [w] ∧ w.no = c.window ∧ w.order.isSome = true ∧ c.pass ≤ w.tokens.getD st.yealm.yealm 0 ∧ r.outEdge a.station 0 = some (j, ed) ∧ s.b.canPush (stRun a) j ed) ∧
    (∃ (s : State), ∃ (a : StRef), ∃ (r : Run), ∃ (st : Station), ∃ (w : YWindow), ∃ (c : Cursor), s.b.live a = some (r, st) ∧ st.entry.type = .yealm ∧ st.outbox = [] ∧ st.homeField < 8 ∧ c = (if st.yealm.yealm = 0 then ({ cohort := st.yealm.cohort, pass := st.yealm.pass, window := st.yealm.window } : Cursor).roll (yealmPar st.params) st.yealm.total else { cohort := st.yealm.cohort, pass := st.yealm.pass, window := st.yealm.window }) ∧ st.yealm.windows = [w] ∧ w.no = c.window ∧ w.order.isSome = true ∧ w.tokens.getD st.yealm.yealm 0 < c.pass) ∧
    (∃ (s : State), ∃ (a : StRef), ∃ (r : Run), ∃ (st : Station), ∃ (w0 : YWindow), ∃ (l : List YWindow), s.b.live a = some (r, st) ∧ st.entry.type = .yealm ∧ st.outbox = [] ∧ st.yealm.windows = w0 :: l ∧ st.yealm.total = none ∧ (∀ w ∈ st.yealm.windows, w.no / (yealmPar st.params).cohort = w0.no / (yealmPar st.params).cohort ∧ w.order.isSome = true ∧ ∀ n ∈ w.tokens, (yealmPar st.params).passes ≤ n) ∧ st.yealm.windows.length = (yealmPar st.params).cohort ∧ (yealmPar st.params).close = false) ∧
    (∃ (s : State), ∃ (a : StRef), ∃ (r : Run), ∃ (st : Station), ∃ (w0 : YWindow), ∃ (l : List YWindow), ∃ (j : Nat), ∃ (ed : Edge), ∃ (rays : List (List Word)), s.b.live a = some (r, st) ∧ st.entry.type = .yealm ∧ st.outbox = [] ∧ st.yealm.windows = w0 :: l ∧ st.yealm.total = none ∧ (∀ w ∈ st.yealm.windows, w.no / (yealmPar st.params).cohort = w0.no / (yealmPar st.params).cohort ∧ w.order.isSome = true ∧ ∀ n ∈ w.tokens, (yealmPar st.params).passes ≤ n) ∧ st.yealm.windows.length = (yealmPar st.params).cohort ∧ (yealmPar st.params).close = true ∧ r.outEdge a.station 1 = some (j, ed) ∧ s.b.canPush (stRun a) j ed ∧ (rays.Perm (st.yealm.windows.flatMap (fun w => w.rays))) ∧ (rays.Pairwise (fun x y => entrySeq x < entrySeq y)) ∧ rays ≠ [] ∧ rays.length ≤ ed.entry.rows) :=
  ⟨⟨tS (tRuns [tWork .yealm (tYPar 0x0C#32) (.yealm (tYSt [])) []] []), tAt, _, _, _, _, _, rfl, by decide +kernel, by decide +kernel, by decide +kernel, by decide +kernel, by decide +kernel, rfl, rfl, by decide +kernel, rfl⟩,
    ⟨tS { tRuns [tWork .yealm (tYPar 0x0C#32) (.yealm (tYSt [])) []] [] with start := { tB.start with img := some { tImg with rayState := 0 } } }, tAt, _, _, _, _, rfl, by decide +kernel, by decide +kernel, by decide +kernel, by decide +kernel, by decide +kernel, rfl, rfl, by decide +kernel⟩,
    ⟨tS (tRuns [tStn .yealm (tYPar 4#32) (.yealm { tYSt [] with rows := [List.replicate 64 0#8] })] [{ tEdge 1 0 0 0 1 2 8 with tiles := [tTile 1 2 8 64] }]), tAt, _, _, _, rfl, by decide +kernel, by decide +kernel, by decide +kernel, by decide +kernel, by decide +kernel, by decide +kernel, by decide +kernel, rfl⟩,
    ⟨tS (tRuns [tStn .yealm (tYPar 4#32) (.yealm (tYSt [tYWin none []]))] []), tAt, _, _, _, rfl, by decide +kernel, rfl, by and_intros <;> decide +kernel⟩,
    ⟨tS (tRuns [tStn .yealm (tYPar 4#32) (.yealm (tYSt [tYWin (some [0]) [0]]))] [tEdge 0 0 1 0 0 1 1152]), tAt, _, _, _, _, _, _, rfl, by decide +kernel, by decide +kernel, by decide +kernel, rfl, rfl, by decide +kernel, by decide +kernel, by decide +kernel, rfl, by first | decide +kernel | exact rfl | exact ⟨rfl, rfl, rfl, by decide⟩ | (unfold Block.noneWaits; decide +kernel) | (intro x h; cases h; done)⟩,
    ⟨tS (tRuns [tStn .yealm (tYPar 4#32) (.yealm { tYSt [tYWin (some [0]) [0]] with yealm := 1, pass := 1 })] [tEdge 0 0 1 0 0 1 1152]), tAt, _, _, _, _, rfl, by decide +kernel, by decide +kernel, by decide +kernel, rfl, rfl, by and_intros <;> decide +kernel⟩,
    ⟨tS (tRuns [tStn .yealm (tYPar 4#32) (.yealm (tYSt [tYWin (some [0]) [1]]))] []), tAt, _, _, _, _, rfl, by decide +kernel, by decide +kernel, rfl, by and_intros <;> decide +kernel⟩,
    ⟨tS (tRuns [tStn .yealm (tYPar 0x44#32) (.yealm (tYSt [tYWin (some [0]) [1]]))] [tEdge 0 1 1 0 0 16 32]), tAt, _, _, _, _, _, _, [List.replicate 16 0#32], rfl, by decide +kernel, by decide +kernel, rfl, by decide +kernel, by decide +kernel, by decide +kernel, by decide +kernel, rfl, by and_intros <;> decide +kernel⟩⟩

/-- States and operands that meet the hypotheses of RafterWalks, clause by clause. -/
theorem witness_RafterWalks :
    (∃ (s : State), ∃ (a : StRef), ∃ (r : Run), ∃ (st : Station), ∃ (t : Tile), s.b.live a = some (r, st) ∧ st.entry.type = .rafter ∧ r.head a.station 1 = some t ∧ t.closing = false ∧ t.last = false ∧ st.rafter.trees = [] ∧ st.rafter.high = none ∧ s.b.ridge.items = [] ∧ st.active = [] ∧ (parseTree t.data).ok (r.rafterKind a.station) = true) ∧
    (∃ (s : State), ∃ (a : StRef), ∃ (r : Run), ∃ (st : Station), ∃ (t : Tile), s.b.live a = some (r, st) ∧ st.entry.type = .rafter ∧ r.head a.station 1 = some t ∧ t.closing = false ∧ t.last = false ∧ st.rafter.trees = [] ∧ st.rafter.high = none ∧ s.b.ridge.items = [] ∧ st.active = [] ∧ (parseTree t.data).ok (r.rafterKind a.station) = false) ∧
    (∃ (s : State), ∃ (a : StRef), ∃ (n j : Nat), ∃ (r : Run), ∃ (st : Station), ∃ (x : Active), ∃ (t : Tile), ∃ (d : TreeDesc), ∃ (desc : List Byte), ∃ (tree : Nat), ∃ (ed : Edge), ∃ (rd : Reader), ∃ l, s.b.working a n = some (r, st, x) ∧ st.entry.type = .rafter ∧ x.tile 0 = some t ∧ st.rafter.done = [] ∧ st.outbox = [] ∧ st.treeHere t = true ∧ (desc = (if (rafterPar st.params).treeSrc then ((st.rafter.trees.find? (fun h => h.ord = yealmTree t)).map (fun h => h.desc)).getD [] else (s.b.peek x.field r.ref.tenant (rafterPar st.params).treeAddr 64).1)) ∧ d = parseTree desc ∧ tree = (if (rafterPar st.params).treeSrc then yealmTree t else 0) ∧ (rd = (fun addr len => if s.b.canRead r.ref.tenant addr len then some (s.b.peek x.field r.ref.tenant addr len) else none)) ∧ ((rafterPar st.params).treeSrc = false → s.b.canRead r.ref.tenant (rafterPar st.params).treeAddr 64 = true ∧ (s.b.peek x.field r.ref.tenant (rafterPar st.params).treeAddr 64).2 = stOk ∧ d.ok (r.rafterKind a.station) = true) ∧ runLanes rd d (rafterPar st.params) tree (yealmRays d.kind t) [] = .ok l ∧ (rafterPar st.params).results = false ∧ r.outEdge a.station 0 = some (j, ed) ∧ s.b.canPush (stRun a) j ed ∧ (l.flatMap (fun o => o.2.hits) ≠ []) ∧ ((l.flatMap (fun o => o.2.hits)).length ≤ ed.entry.rows)) ∧
    (∃ (s : State), ∃ (a : StRef), ∃ (n : Nat), ∃ (r : Run), ∃ (st : Station), ∃ (x : Active), ∃ (t : Tile), ∃ (d : TreeDesc), ∃ (desc : List Byte), ∃ (tree : Nat), ∃ (rd : Reader), ∃ k, s.b.working a n = some (r, st, x) ∧ st.entry.type = .rafter ∧ x.tile 0 = some t ∧ st.rafter.done = [] ∧ st.outbox = [] ∧ st.treeHere t = true ∧ (desc = (if (rafterPar st.params).treeSrc then ((st.rafter.trees.find? (fun h => h.ord = yealmTree t)).map (fun h => h.desc)).getD [] else (s.b.peek x.field r.ref.tenant (rafterPar st.params).treeAddr 64).1)) ∧ d = parseTree desc ∧ tree = (if (rafterPar st.params).treeSrc then yealmTree t else 0) ∧ (rd = (fun addr len => if s.b.canRead r.ref.tenant addr len then some (s.b.peek x.field r.ref.tenant addr len) else none)) ∧ ((rafterPar st.params).treeSrc = false → s.b.canRead r.ref.tenant (rafterPar st.params).treeAddr 64 = true ∧ (s.b.peek x.field r.ref.tenant (rafterPar st.params).treeAddr 64).2 = stOk ∧ d.ok (r.rafterKind a.station) = true) ∧ runLanes rd d (rafterPar st.params) tree (yealmRays d.kind t) [] = .node k) ∧
    (∃ (s : State), ∃ (a : StRef), ∃ (n : Nat), ∃ (r : Run), ∃ (st : Station), ∃ (x : Active), ∃ (t : Tile), ∃ (d : TreeDesc), ∃ (desc : List Byte), ∃ (tree : Nat), ∃ (rd : Reader), ∃ k, s.b.working a n = some (r, st, x) ∧ st.entry.type = .rafter ∧ x.tile 0 = some t ∧ st.rafter.done = [] ∧ st.outbox = [] ∧ st.treeHere t = true ∧ (desc = (if (rafterPar st.params).treeSrc then ((st.rafter.trees.find? (fun h => h.ord = yealmTree t)).map (fun h => h.desc)).getD [] else (s.b.peek x.field r.ref.tenant (rafterPar st.params).treeAddr 64).1)) ∧ d = parseTree desc ∧ tree = (if (rafterPar st.params).treeSrc then yealmTree t else 0) ∧ (rd = (fun addr len => if s.b.canRead r.ref.tenant addr len then some (s.b.peek x.field r.ref.tenant addr len) else none)) ∧ ((rafterPar st.params).treeSrc = false → s.b.canRead r.ref.tenant (rafterPar st.params).treeAddr 64 = true ∧ (s.b.peek x.field r.ref.tenant (rafterPar st.params).treeAddr 64).2 = stOk ∧ d.ok (r.rafterKind a.station) = true) ∧ runLanes rd d (rafterPar st.params) tree (yealmRays d.kind t) [] = .mem k) ∧
    (∃ (rd : Reader), ∃ (t : TreeDesc), ∃ (p : RafterPar), ∃ (r : Ray), ∃ (w : Walk), ∃ (tr : Bool), 0 < p.cap ∧ Ray.walk rd t p r = .done w tr) ∧
    (∃ (s : State), ∃ (a : StRef), ∃ (n y : Nat), ∃ (r : Run), ∃ (st sy : Station), ∃ (x : Active), ∃ (d : YealmDone), ∃ (ys : YealmSt), s.b.working a n = some (r, st, x) ∧ st.entry.type = .rafter ∧ st.outbox = [] ∧ st.rafter.done = [d] ∧ d.ordinal = n ∧ r.yealmOf a.station = some y ∧ y ≠ a.station ∧ r.stations[y]? = some sy ∧ sy.body = .yealm ys) :=
  ⟨⟨tS (tRuns [{ tRafter [2#32] tRaf0 [] with active := [] }] [{ tEdge 1 0 0 1 0 1 64 with tiles := [tTreeTile 1] }]), tAt, _, _, _, rfl, by decide +kernel, rfl, by and_intros <;> decide +kernel⟩,
    ⟨tS (tRuns [{ tRafter [2#32] tRaf0 [] with active := [] }] [{ tEdge 1 0 0 1 0 1 64 with tiles := [tTreeTile 17] }]), tAt, _, _, _, rfl, by decide +kernel, rfl, by and_intros <;> decide +kernel⟩,
    ⟨tS (tSpace tTree.mem (tWalker 4#32)), tAt1, 0, _, _, _, _, _, _, _, _, _, _, _, rfl, by decide +kernel, rfl, by decide +kernel, by decide +kernel, by decide +kernel, rfl, rfl, rfl, rfl, by decide +kernel, rfl, by decide +kernel, rfl, by and_intros <;> decide +kernel⟩,
    ⟨tS (tSpace (Mem.writeN tTree.mem (physFelt 0 4160) (List.replicate 128 255#8)) (tWalker 4#32)), tAt1, 0, _, _, _, _, _, _, _, _, _, rfl, by decide +kernel, rfl, by decide +kernel, by decide +kernel, by decide +kernel, rfl, rfl, rfl, rfl, by decide +kernel, rfl⟩,
    ⟨tS { tSpace tTree.mem (tWalker 4#32) with feltBad := [(physFelt 0 4096 + 64) / 8] }, tAt1, 0, _, _, _, _, _, _, _, _, _, rfl, by decide +kernel, rfl, by decide +kernel, by decide +kernel, by decide +kernel, rfl, rfl, rfl, rfl, by decide +kernel, rfl⟩,
    ⟨(fun addr len => if (tSpace tTree.mem (tWalker 4#32)).canRead 0 addr len then some ((tSpace tTree.mem (tWalker 4#32)).peek 0 0 addr len) else none), (parseTree ((tSpace tTree.mem (tWalker 4#32)).peek 0 0 0x201000 64).1), (rafterPar (tWalker 4#32).params), ((yealmRays 0 tRayTile).head (by decide +kernel)), (tWalkOf (Ray.walk ((fun addr len => if (tSpace tTree.mem (tWalker 4#32)).canRead 0 addr len then some ((tSpace tTree.mem (tWalker 4#32)).peek 0 0 addr len) else none)) ((parseTree ((tSpace tTree.mem (tWalker 4#32)).peek 0 0 0x201000 64).1)) ((rafterPar (tWalker 4#32).params)) (((yealmRays 0 tRayTile).head (by decide +kernel))))), (tTruncOf (Ray.walk ((fun addr len => if (tSpace tTree.mem (tWalker 4#32)).canRead 0 addr len then some ((tSpace tTree.mem (tWalker 4#32)).peek 0 0 addr len) else none)) ((parseTree ((tSpace tTree.mem (tWalker 4#32)).peek 0 0 0x201000 64).1)) ((rafterPar (tWalker 4#32).params)) (((yealmRays 0 tRayTile).head (by decide +kernel))))), by decide +kernel, walk_done _ (by decide +kernel)⟩,
    ⟨tS (tRuns [tStn .yealm (tYPar 0x0C#32) (.yealm (tYSt [])), { tWalker 4#32 with body := .rafter { tRaf0 with done := [{ ordinal := 0, tree := 0, window := 0, yidx := 0, ycount := 1, hits := 0, lanes := [] }] } }] [tEdge 0 0 1 0 0 1 1152]), tAt1, 0, _, _, _, _, _, _, _, rfl, by decide +kernel, by decide +kernel, rfl, by decide +kernel, rfl, by decide +kernel, rfl, rfl⟩⟩

/-- States and operands that meet the hypotheses of CouchBatches, clause by clause. -/
theorem witness_CouchBatches :
    (∃ (s : State), ∃ (a : StRef), ∃ (n : Nat), ∃ (r : Run), ∃ (st : Station), ∃ (x : Active), ∃ (t : Tile), ∃ (yi : Nat), ∃ (y : YealmPar), ∃ (ents : List (List Word)), s.b.working a n = some (r, st, x) ∧ st.entry.type = .couch ∧ x.tile 0 = some t ∧ r.boundYealm a.station = some (yi, y) ∧ s.b.isHeld a.tenant (r.heldEdge a.station 0) = false ∧ st.couch.batches = [] ∧ x.field < 8 ∧ (ents = (List.range t.rows).map (fun i => hitWords (t.row 32 i))) ∧ t.rows ≤ (couchPar st.params).buf * 4096) ∧
    (∃ (s : State), ∃ (a : StRef), ∃ (n : Nat), ∃ (r : Run), ∃ (st : Station), ∃ (x : Active), ∃ (t : Tile), ∃ (yi : Nat), ∃ (y : YealmPar), ∃ (ents : List (List Word)), s.b.working a n = some (r, st, x) ∧ st.entry.type = .couch ∧ x.tile 0 = some t ∧ r.boundYealm a.station = some (yi, y) ∧ s.b.isHeld a.tenant (r.heldEdge a.station 0) = false ∧ st.couch.batches = [] ∧ x.field < 8 ∧ (ents = (List.range t.rows).map (fun i => hitWords (t.row 32 i))) ∧ (couchPar st.params).buf * 4096 < t.rows ∧ s.b.gutterSize r.ref.tenant * 128 ≤ t.rows - (couchPar st.params).buf * 4096) ∧
    (∃ (s : State), ∃ (a : StRef), ∃ (r : Run), ∃ (st : Station), ∃ (yi : Nat), ∃ (y : YealmPar), ∃ (j : Nat), ∃ (ed : Edge), ∃ (x : Batch), ∃ (cur : Cursor), ∃ (recs : List (List Byte)), s.b.live a = some (r, st) ∧ st.entry.type = .couch ∧ st.outbox = [] ∧ r.boundYealm a.station = some (yi, y) ∧ r.outEdge a.station 0 = some (j, ed) ∧ cur = st.couch.cursor y (r.yealmTotal a.station) ∧ st.couch.batches = [x] ∧ x.window = cur.window ∧ x.tree = r.batchTree a.station y cur ∧ 0 < x.tokens ∧ x.ycount ≤ x.tokens ∧ x.declared ≤ x.entries.length ∧ recs = batchRecords (couchPar st.params).bitmap s.b.freeKind y x ∧ (couchPar st.params).course = false ∧ (couchPar st.params).replay = false ∧ r.drained a.station = false ∧ s.b.canPush (stRun a) j ed ∧ ((recs.flatMap (fun z => z)).length ≤ 32 * ed.entry.rows)) ∧
    (∃ (s : State), ∃ (a : StRef), ∃ (r : Run), ∃ (st : Station), ∃ (yi : Nat), ∃ (y : YealmPar), ∃ (j : Nat), ∃ (ed : Edge), ∃ (x : Batch), ∃ (cur : Cursor), ∃ (recs : List (List Byte)), ∃ b1, s.b.live a = some (r, st) ∧ st.entry.type = .couch ∧ st.outbox = [] ∧ r.boundYealm a.station = some (yi, y) ∧ r.outEdge a.station 0 = some (j, ed) ∧ cur = st.couch.cursor y (r.yealmTotal a.station) ∧ st.couch.batches = [x] ∧ x.window = cur.window ∧ x.tree = r.batchTree a.station y cur ∧ 0 < x.tokens ∧ x.ycount ≤ x.tokens ∧ x.declared ≤ x.entries.length ∧ recs = batchRecords (couchPar st.params).bitmap s.b.freeKind y x ∧ (couchPar st.params).course = true ∧ (st.couch.off + (recs.flatMap (fun z => z)).length ≤ (couchPar st.params).recLen) ∧ 80 + 16 * st.couch.nbatch ≤ (couchPar st.params).dirLen ∧ (s.b.canWrite r.ref.tenant ((couchPar st.params).rec_ + st.couch.off) (recs.flatMap (fun z => z)).length = true) ∧ s.b.canWrite r.ref.tenant ((couchPar st.params).dir + (64 + 16 * st.couch.nbatch)) 16 = true ∧ (Block.storeAll x.field r.ref.tenant [((couchPar st.params).rec_ + st.couch.off, recs.flatMap (fun z => z)), ((couchPar st.params).dir + (64 + 16 * st.couch.nbatch), wordsBytes [BitVec.ofNat 32 x.tree, BitVec.ofNat 32 x.window, BitVec.ofNat 32 st.couch.off, BitVec.ofNat 32 (recs.flatMap (fun z => z)).length])] s.b = (b1, stOk))) ∧
    (∃ (s : State), ∃ (a : StRef), ∃ (r : Run), ∃ (st : Station), ∃ (yi : Nat), ∃ (y : YealmPar), ∃ (j : Nat), ∃ (ed : Edge), ∃ (x : Batch), ∃ (cur : Cursor), ∃ (recs : List (List Byte)), s.b.live a = some (r, st) ∧ st.entry.type = .couch ∧ st.outbox = [] ∧ r.boundYealm a.station = some (yi, y) ∧ r.outEdge a.station 0 = some (j, ed) ∧ cur = st.couch.cursor y (r.yealmTotal a.station) ∧ st.couch.batches = [x] ∧ x.window = cur.window ∧ x.tree = r.batchTree a.station y cur ∧ 0 < x.tokens ∧ x.ycount ≤ x.tokens ∧ x.declared ≤ x.entries.length ∧ recs = batchRecords (couchPar st.params).bitmap s.b.freeKind y x ∧ (couchPar st.params).course = true ∧ ((couchPar st.params).recLen < st.couch.off + (recs.flatMap (fun z => z)).length)) ∧
    (∃ (s : State), ∃ (a : StRef), ∃ (r : Run), ∃ (st : Station), ∃ (b1 : Block), s.b.live a = some (r, st) ∧ st.entry.type = .couch ∧ (couchPar st.params).course = true ∧ st.couch.header = false ∧ r.couchOver a.station st = true ∧ s.b.canWrite r.ref.tenant (couchPar st.params).dir 64 = true ∧ (Block.storeAll st.homeField r.ref.tenant [((couchPar st.params).dir, wordsBytes ([BitVec.ofNat 32 (0x4843 + 65536 * b2n (couchPar st.params).bitmap), BitVec.ofNat 32 st.couch.nbatch, BitVec.ofNat 32 st.couch.off, BitVec.ofNat 32 (((r.boundYealm a.station).map (fun y => y.2.lg)).getD 0)] ++ List.replicate 12 0#32))] s.b = (b1, stOk))) ∧
    (∃ (s : State), ∃ (a : StRef), ∃ (r : Run), ∃ (st : Station), ∃ (x : Active), ∃ (j n : Nat), ∃ (ed : Edge), ∃ (h : List Byte), s.b.live a = some (r, st) ∧ st.entry.type = .couch ∧ (couchPar st.params).replay = true ∧ st.outbox = [] ∧ (st.couch.total.any (fun z => decide (z ≤ st.couch.replayed)) = false) ∧ (st.active.find? (fun z => !z.done) = some x) ∧ r.outEdge a.station 0 = some (j, ed) ∧ s.b.canRead r.ref.tenant (couchPar st.params).dir 64 = true ∧ s.b.peek x.field r.ref.tenant (couchPar st.params).dir 64 = (h, stOk) ∧ n = (wordAt h 1).toNat ∧ wfield (wordAt h 0) 0 16 ≠ 0x4843) ∧
    (∃ (s : State), ∃ (a : StRef), ∃ (r : Run), ∃ (st : Station), ∃ (x : Active), ∃ (j n : Nat), ∃ (ed : Edge), ∃ (h : List Byte), s.b.live a = some (r, st) ∧ st.entry.type = .couch ∧ (couchPar st.params).replay = true ∧ st.outbox = [] ∧ (st.couch.total.any (fun z => decide (z ≤ st.couch.replayed)) = false) ∧ (st.active.find? (fun z => !z.done) = some x) ∧ r.outEdge a.station 0 = some (j, ed) ∧ s.b.canRead r.ref.tenant (couchPar st.params).dir 64 = true ∧ s.b.peek x.field r.ref.tenant (couchPar st.params).dir 64 = (h, stOk) ∧ n = (wordAt h 1).toNat ∧ wfield (wordAt h 0) 0 16 = 0x4843 ∧ wbit (wordAt h 0) 16 = (couchPar st.params).bitmap ∧ wfield (wordAt h 0) 17 1 = 0 ∧ 64 + 16 * n ≤ (couchPar st.params).dirLen ∧ n ≤ st.couch.replayed) ∧
    (∃ (s : State), ∃ (a : StRef), ∃ (r : Run), ∃ (st : Station), ∃ (x : Active), ∃ (j n : Nat), ∃ (ed : Edge), ∃ (h : List Byte), ∃ (k at_ : Nat), ∃ (d l : List Byte), ∃ (recs : List (List Byte)), s.b.live a = some (r, st) ∧ st.entry.type = .couch ∧ (couchPar st.params).replay = true ∧ st.outbox = [] ∧ (st.couch.total.any (fun z => decide (z ≤ st.couch.replayed)) = false) ∧ (st.active.find? (fun z => !z.done) = some x) ∧ r.outEdge a.station 0 = some (j, ed) ∧ s.b.canRead r.ref.tenant (couchPar st.params).dir 64 = true ∧ s.b.peek x.field r.ref.tenant (couchPar st.params).dir 64 = (h, stOk) ∧ n = (wordAt h 1).toNat ∧ wfield (wordAt h 0) 0 16 = 0x4843 ∧ wbit (wordAt h 0) 16 = (couchPar st.params).bitmap ∧ wfield (wordAt h 0) 17 1 = 0 ∧ 64 + 16 * n ≤ (couchPar st.params).dirLen ∧ st.couch.replayed < n ∧ k = (if (couchPar st.params).reverse then n - 1 - st.couch.replayed else st.couch.replayed) ∧ at_ = (couchPar st.params).dir + 64 + 16 * k ∧ s.b.canRead r.ref.tenant at_ 16 = true ∧ s.b.peek x.field r.ref.tenant at_ 16 = (d, stOk) ∧ (wordAt d 2).toNat + (wordAt d 3).toNat ≤ (couchPar st.params).recLen ∧ s.b.canRead r.ref.tenant ((couchPar st.params).rec_ + (wordAt d 2).toNat) (wordAt d 3).toNat = true ∧ s.b.peek x.field r.ref.tenant ((couchPar st.params).rec_ + (wordAt d 2).toNat) (wordAt d 3).toNat = (l, stOk) ∧ recs = cutRecords (couchPar st.params).bitmap (2 ^ wfield (wordAt h 3) 0 5 / 8) (wordAt d 3).toNat l ∧ (recs.flatMap (fun z => z) ≠ []) ∧ ((recs.flatMap (fun z => z)).length ≤ 32 * ed.entry.rows) ∧ s.b.canPush (stRun a) j ed) :=
  ⟨⟨tS (tWalk (tRafter [1#32] tRaf0 []) { tCouch 0#32 (List.replicate 6 0#32 ++ [1#32]) CouchSt.start with active := [tItem [(0, tTile 0 1 32 32)]] } []), tAt2, 0, _, _, _, _, _, _, _, rfl, by decide +kernel, rfl, rfl, by decide +kernel, by decide +kernel, by decide +kernel, rfl, by decide +kernel⟩,
    ⟨tS { tWalk (tRafter [1#32] tRaf0 []) { tCouch 0#32 (List.replicate 6 0#32 ++ [0#32]) CouchSt.start with active := [tItem [(0, tTile 0 1 32 32)]] } [] with start := { tB.start with img := some { tImg with tenants := [{ tTenant with gutter := 0 }] } } }, tAt2, 0, _, _, _, _, _, _, _, rfl, by decide +kernel, rfl, rfl, by decide +kernel, by decide +kernel, by decide +kernel, rfl, by and_intros <;> decide +kernel⟩,
    ⟨tS (tWalk (tRafter [1#32] tRaf0 []) (tCouch 0#32 (List.replicate 6 0#32 ++ [1#32]) { CouchSt.start with batches := [tBatch] }) []), tAt2, _, _, _, _, _, _, _, _, _, rfl, by decide +kernel, by decide +kernel, rfl, rfl, rfl, rfl, by decide +kernel, by decide +kernel, by decide +kernel, by decide +kernel, by decide +kernel, rfl, by and_intros <;> decide +kernel⟩,
    ⟨tS (tWalk (tRafter [1#32] tRaf0 []) (tCouch 4#32 [0x201000#32, 0#32, 4096#32, 0x200000#32, 0#32, 96#32, 1#32] { CouchSt.start with batches := [tBatch] }) []), tAt2, _, _, _, _, _, _, _, _, _, _, rfl, by decide +kernel, by decide +kernel, rfl, rfl, rfl, rfl, by decide +kernel, by decide +kernel, by decide +kernel, by decide +kernel, by decide +kernel, rfl, by decide +kernel, by decide +kernel, by decide +kernel, by decide +kernel, by decide +kernel, rfl⟩,
    ⟨tS (tWalk (tRafter [1#32] tRaf0 []) (tCouch 4#32 (List.replicate 6 0#32 ++ [1#32]) { CouchSt.start with batches := [tBatch] }) []), tAt2, _, _, _, _, _, _, _, _, _, rfl, by decide +kernel, by decide +kernel, rfl, rfl, rfl, rfl, by decide +kernel, by decide +kernel, by decide +kernel, by decide +kernel, by decide +kernel, rfl, by and_intros <;> decide +kernel⟩,
    ⟨tS (tRuns [{ tStn .yealm (tYPar 1#32) (.yealm { tYSt [] with total := some 0 }) with finished := true }, tRafter [1#32] tRaf0 [], { tCouch 4#32 [0#32, 0#32, 0#32, 0x200000#32, 0#32, 64#32, 1#32] CouchSt.start with made := 1 }] [{ tEdge 0 0 1 0 0 1 1152 with drained := true }, { tEdge 1 0 2 0 0 4 32 with drained := true }, tEdge 2 0 3 0 0 200 32]), tAt2, _, _, _, rfl, by decide +kernel, by decide +kernel, by decide +kernel, by decide +kernel, by decide +kernel, rfl⟩,
    ⟨tS (tRuns [{ tCouch 1#32 [0#32, 0#32, 0#32, 0x200000#32, 0#32, 80#32, 1#32] CouchSt.start with active := [tItem []] }] [tEdge 0 0 1 0 0 200 32]), tAt, _, _, _, _, _, _, _, rfl, by decide +kernel, by decide +kernel, by decide +kernel, by decide +kernel, rfl, rfl, by decide +kernel, rfl, rfl, by decide +kernel⟩,
    ⟨tS { tRuns [{ tCouch 1#32 [0x201000#32, 0#32, 64#32, 0x200000#32, 0#32, 96#32, 1#32] { CouchSt.start with replayed := 2 } with active := [tItem []] }] [tEdge 0 0 1 0 0 200 32] with mem := Mem.writeN [] (physFelt 0 0) (wordsBytes ([0x4843#32, 2#32, 64#32, 4#32] ++ List.replicate 12 0#32 ++ [0#32, 0#32, 0#32, 64#32, 0#32, 0#32, 0#32, 0#32])) }, tAt, _, _, _, _, _, _, _, rfl, by decide +kernel, by decide +kernel, by decide +kernel, by decide +kernel, rfl, rfl, by decide +kernel, rfl, rfl, by and_intros <;> decide +kernel⟩,
    ⟨tS { tRuns [{ tCouch 1#32 [0x201000#32, 0#32, 64#32, 0x200000#32, 0#32, 96#32, 1#32] CouchSt.start with active := [tItem []] }] [tEdge 0 0 1 0 0 200 32] with mem := Mem.writeN [] (physFelt 0 0) (wordsBytes ([0x4843#32, 2#32, 64#32, 4#32] ++ List.replicate 12 0#32 ++ [0#32, 0#32, 0#32, 64#32, 0#32, 0#32, 0#32, 0#32])) }, tAt, _, _, _, _, _, _, _, _, _, _, _, _, rfl, by decide +kernel, by decide +kernel, by decide +kernel, by decide +kernel, rfl, rfl, by decide +kernel, rfl, rfl, by decide +kernel, by decide +kernel, by decide +kernel, by decide +kernel, by decide +kernel, rfl, rfl, by decide +kernel, rfl, by decide +kernel, by decide +kernel, rfl, rfl, by and_intros <;> decide +kernel⟩⟩

/-- States and operands that meet the hypotheses of MouldJobs, clause by clause. -/
theorem witness_MouldJobs :
    (∃ (s : State), ∃ (a : StRef), ∃ (n op : Nat), ∃ (r : Run), ∃ (st : Station), ∃ (x : Active), ∃ (t : Tile), ∃ (c : Instr), ∃ (work : (Nat → Nat → Option (List Byte × Nat)) → BuildJob → Except JobStop JobOut), ∃ (rd : Nat → Nat → Option (List Byte × Nat)), ∃ (o : JobOut), ∃ (b1 : Block), s.b.working a n = some (r, st, x) ∧ st.entry.type = .mould ∧ x.tile 0 = some t ∧ x.freed = false ∧ (∀ m ∈ st.mould.jobs, m.ordinal ≠ n) ∧ (c = .build a n [] ∧ op = 0 ∧ (work = fun rd j => buildTree rd j (n % 2 ^ 23) s.b.free) ∧ (wfield (wordAt t.data 0) 0 2 = 0 ∨ wfield (wordAt t.data 0) 0 2 = 3) ∨ c = .refit a n [] ∧ op = 1 ∧ (work = fun rd j => refitTree rd j n) ∧ wfield (wordAt t.data 0) 0 2 = 1 ∨ c = .check a n [] ∧ op = 2 ∧ (work = fun rd j => checkTree rd j n) ∧ wfield (wordAt t.data 0) 0 2 = 2) ∧ (rd = (fun addr len => if s.b.canRead r.ref.tenant addr len then some (s.b.peek x.field r.ref.tenant addr len) else none)) ∧ (s.b.jobChecks r.ref.tenant n t.data).bind (work rd) = .ok o ∧ (s.b.canWriteAll r.ref.tenant (o.writes.map (fun w => (w.1, w.2.length))) = true) ∧ (Block.storeAll x.field r.ref.tenant o.writes { (s.b.readAll x.field r.ref.tenant o.reads) with free := (s.b.readAll x.field r.ref.tenant o.reads).free + sumNat (o.writes.map (fun w => w.2.length)) } = (b1, stOk))) ∧
    (∃ (s : State), ∃ (a : StRef), ∃ (n op : Nat), ∃ (r : Run), ∃ (st : Station), ∃ (x : Active), ∃ (t : Tile), ∃ (c : Instr), ∃ (work : (Nat → Nat → Option (List Byte × Nat)) → BuildJob → Except JobStop JobOut), ∃ (rd : Nat → Nat → Option (List Byte × Nat)), ∃ (reason i : Nat), s.b.working a n = some (r, st, x) ∧ st.entry.type = .mould ∧ x.tile 0 = some t ∧ x.freed = false ∧ (∀ m ∈ st.mould.jobs, m.ordinal ≠ n) ∧ (c = .build a n [] ∧ op = 0 ∧ (work = fun rd j => buildTree rd j (n % 2 ^ 23) s.b.free) ∧ (wfield (wordAt t.data 0) 0 2 = 0 ∨ wfield (wordAt t.data 0) 0 2 = 3) ∨ c = .refit a n [] ∧ op = 1 ∧ (work = fun rd j => refitTree rd j n) ∧ wfield (wordAt t.data 0) 0 2 = 1 ∨ c = .check a n [] ∧ op = 2 ∧ (work = fun rd j => checkTree rd j n) ∧ wfield (wordAt t.data 0) 0 2 = 2) ∧ (rd = (fun addr len => if s.b.canRead r.ref.tenant addr len then some (s.b.peek x.field r.ref.tenant addr len) else none)) ∧ (s.b.jobChecks r.ref.tenant n t.data).bind (work rd) = .error (.kill reason i)) ∧
    (∃ (s : State), ∃ (a : StRef), ∃ (n op : Nat), ∃ (r : Run), ∃ (st : Station), ∃ (x : Active), ∃ (t : Tile), ∃ (c : Instr), ∃ (work : (Nat → Nat → Option (List Byte × Nat)) → BuildJob → Except JobStop JobOut), ∃ (rd : Nat → Nat → Option (List Byte × Nat)), ∃ (status : Nat), s.b.working a n = some (r, st, x) ∧ st.entry.type = .mould ∧ x.tile 0 = some t ∧ x.freed = false ∧ (∀ m ∈ st.mould.jobs, m.ordinal ≠ n) ∧ (c = .build a n [] ∧ op = 0 ∧ (work = fun rd j => buildTree rd j (n % 2 ^ 23) s.b.free) ∧ (wfield (wordAt t.data 0) 0 2 = 0 ∨ wfield (wordAt t.data 0) 0 2 = 3) ∨ c = .refit a n [] ∧ op = 1 ∧ (work = fun rd j => refitTree rd j n) ∧ wfield (wordAt t.data 0) 0 2 = 1 ∨ c = .check a n [] ∧ op = 2 ∧ (work = fun rd j => checkTree rd j n) ∧ wfield (wordAt t.data 0) 0 2 = 2) ∧ (rd = (fun addr len => if s.b.canRead r.ref.tenant addr len then some (s.b.peek x.field r.ref.tenant addr len) else none)) ∧ (s.b.jobChecks r.ref.tenant n t.data).bind (work rd) = .error (.mem status)) ∧
    (∃ (rd : Nat → Nat → Option (List Byte × Nat)), ∃ (j : BuildJob), ∃ (n : Nat), ∃ (o : JobOut), checkTree rd j n = .ok o) ∧
    (∃ (s : State), ∃ (a : StRef), ∃ (n : Nat), ∃ (r : Run), ∃ (st : Station), ∃ (x : Active), ∃ (t : Tile), s.b.working a n = some (r, st, x) ∧ st.entry.type = .mould ∧ x.tile 0 = some t ∧ x.freed = false ∧ (∀ m ∈ st.mould.jobs, m.ordinal ≠ n) ∧ wfield (wordAt t.data 0) 0 2 = 3) ∧
    (∃ (s : State), ∃ (f n : Nat), ∃ (a : StRef), ∃ (r : Run), ∃ (st : Station), ∃ (m : MouldJob), s.b.frontJob f = some (a, n) ∧ s.b.findRun (stRun a) = some r ∧ r.killed = none ∧ r.stations[a.station]? = some st ∧ st.mould.jobs = [m] ∧ m.ordinal = n ∧ s.b.backHolds f = false) ∧
    (∃ (s : State), ∃ (f : Nat), s.b.backHolds f = true) ∧
    (∃ (s : State), ∃ (a : StRef), ∃ (r : Run), ∃ (st : Station), ∃ (m : MouldJob), ∃ (j : Nat), ∃ (ed : Edge), s.b.live a = some (r, st) ∧ st.entry.type = .mould ∧ st.outbox = [] ∧ st.mould.jobs = [m] ∧ m.ordinal = st.mould.next ∧ m.back = true ∧ r.outEdge a.station 0 = some (j, ed) ∧ s.b.canPush (stRun a) j ed) :=
  ⟨⟨tS (tTri 0 4096 []), tAt, 0, 0, _, _, _, _, .build tAt 0 [], _, _, _, _, rfl, by decide +kernel, rfl, by decide +kernel, by decide +kernel, .inl ⟨rfl, rfl, rfl, .inl (by decide +kernel)⟩, by rfl, rfl, by rfl, rfl⟩,
    ⟨tS (tTri 0 128 []), tAt, 0, 0, _, _, _, _, .build tAt 0 [], _, _, _, _, rfl, by decide +kernel, rfl, by decide +kernel, by decide +kernel, .inl ⟨rfl, rfl, rfl, .inl (by decide +kernel)⟩, by rfl, rfl⟩,
    ⟨tS { tTri 0 4096 [] with feltBad := [physFelt 0 0 / 8] }, tAt, 0, 0, _, _, _, _, .build tAt 0 [], _, _, _, rfl, by decide +kernel, rfl, by decide +kernel, by decide +kernel, .inl ⟨rfl, rfl, rfl, .inl (by decide +kernel)⟩, by rfl, rfl⟩,
    ⟨(fun addr len => if tTree.canRead 0 addr len then some (tTree.peek 0 0 addr len) else none), ((parseJob (tJob 2 4096).data).get (by decide +kernel)), 0, _, rfl⟩,
    ⟨tS (tTri 3 4096 []), tAt, 0, _, _, _, _, rfl, by decide +kernel, rfl, by and_intros <;> decide +kernel⟩,
    ⟨tS (tTri 0 4096 [{ ordinal := 0, flags := 0, seq := 0, desc := List.replicate 64 0#8, back := false, field := 0 }]), 0, _, _, _, _, _, rfl, rfl, by decide +kernel, rfl, rfl, by and_intros <;> decide +kernel⟩,
    ⟨tS (tTri 0 4096 [{ ordinal := 0, flags := 0, seq := 0, desc := List.replicate 64 0#8, back := true, field := 0 }]), 0, by decide +kernel⟩,
    ⟨tS (tTri 0 4096 [{ ordinal := 0, flags := 0, seq := 0, desc := List.replicate 64 0#8, back := true, field := 0 }]), tAt, _, _, _, _, _, rfl, by decide +kernel, by decide +kernel, rfl, by decide +kernel, by decide +kernel, rfl, by first | decide +kernel | exact rfl | exact ⟨rfl, rfl, rfl, by decide⟩ | (unfold Block.noneWaits; decide +kernel) | (intro x h; cases h; done)⟩⟩

/-- States and operands that meet the hypotheses of LathArithmetic, clause by clause. -/
theorem witness_LathArithmetic :
    (∃ (s : State), ∃ (a : LathAt), ∃ (i : LInstr), ∃ (op : IntOp), ∃ (g : LGroup), s.b.willIssue a i op.use (op.regs i) (op.ok i) = some g) ∧
    (∃ (i : LInstr), ∃ (t : Thread), (t.reg i.b).toNat < 32) ∧
    (∃ (i : LInstr), i.dst < 7) ∧
    (∃ (i : LInstr), ∃ q, q ≠ i.dst) ∧
    (∃ (s : State), ∃ (a : LathAt), ∃ (i : LInstr), ∃ (op : FvecOp), ∃ (g : LGroup), s.b.willIssue a i op.use (op.regs i) (op.ok i) = some g) ∧
    (∃ (s : State), ∃ (a : LathAt), ∃ (i : LInstr), ∃ (fa fz : Fmt), ∃ (g : LGroup), fmtOf (i.c % 16) = some fa ∧ fmtOf (i.c / 16 % 16) = some fz ∧ s.b.willIssue a i (cvtUse false) ([i.dst, i.a] ++ (if fa.isMx || fz.isMx then [i.b] else [])) ((fa.isMx || fz.isMx) || decide (i.b = 0)) = some g) ∧
    (∃ (s : State), ∃ (a : LathAt), ∃ (i : LInstr), ∃ (sr : SpecReg), ∃ (g : LGroup), s.b.willIssue a i specUse [i.dst] (decide (sr ≠ .undef)) = some g) ∧
    (∃ (s : State), ∃ (a : LathAt), ∃ (i : LInstr), ∃ (fa fz : Fmt), ∃ (g : LGroup), ∃ (k : Nat), ∃ (t : Thread), fmtOf (i.c % 16) = some fa ∧ fmtOf (i.c / 16 % 16) = some fz ∧ fz.isMx = true ∧ s.b.willIssue a i (cvtUse true) ([i.dst, i.dst + 1, i.a] ++ (if fa.isMx then [i.b] else [])) (fz.isMx && (fa.isMx || decide (i.b = 0))) = some g ∧ s.b.threadAt a k = some t ∧ t.state = .running ∧ k ∉ g.lanes) ∧
    (∃ (s : State), ∃ (a : LathAt), ∃ (i : LInstr), ∃ (fa fz : Fmt), ∃ (g : LGroup), ∃ (v : Nat → Sys2Proof.Machine.Num), fmtOf (i.c % 16) = some fa ∧ fmtOf (i.c / 16 % 16) = some fz ∧ s.b.lathGroup a i = none ∧ s.b.gathered a i = some g ∧ g.blocked i ([i.dst, i.dst + 1, i.a] ++ (if fa.isMx then [i.b] else [])) = false ∧ (∀ k, v k = if g.act.contains k then cvtSource fa (((g.thread k).reg i.a).toNat % 2 ^ (8 * fa.bytes)) (((g.thread k).reg i.b).toNat % 256) else Sys2Proof.Machine.Num.zero)) :=
  ⟨⟨tS (tLath [tThr 0 5#32 6#32]), tLa, tI 0 0 6 2 4 0 0, .add, _, rfl⟩,
    ⟨tI 0 0 6 2 4 0 0, tThr 0 5#32 6#32, by decide +kernel⟩,
    ⟨tI 0 0 3 2 4 0 0, by decide +kernel⟩,
    ⟨tI 0 0 6 2 4 0 0, 2, by decide +kernel⟩,
    ⟨tS (tLath [tThr 0 5#32 6#32]), tLa, tI 1 0 6 2 4 0 0, .add, _, rfl⟩,
    ⟨tS (tLath [tThr 0 5#32 6#32]), tLa, tI 2 0 6 2 0 0x31 0, _, _, _, rfl, rfl, rfl⟩,
    ⟨tS (tLath [tThr 0 5#32 6#32]), tLa, tI 0xA 0 6 0 0 0 0, .lane, _, rfl⟩,
    ⟨tS (tLath [tThr 0 5#32 6#32, tThr 8 5#32 6#32]), tLa, tI 1026 0 6 2 0 0x41 0, _, _, _, 1, _, rfl, rfl, by decide +kernel, rfl, rfl, by and_intros <;> decide +kernel⟩,
    ⟨tS (tCore (tLCore [{ tThr 8 5#32 6#32 with state := .atSheaf }] (some 0)) []), tLa, tI 1026 0 6 2 0 0x41 0, _, _, _, _, rfl, rfl, by decide +kernel, rfl, by decide +kernel, fun k => rfl⟩⟩

/-- States and operands that meet the hypotheses of LathControl, clause by clause. -/
theorem witness_LathControl :
    (∃ (s : State), ∃ (a : LathAt), ∃ (i : LInstr), ∃ (g : LGroup), s.b.willIssue a i { ctrlUse with long := true } [] i.long = some g) ∧
    (∃ (s : State), ∃ (a : LathAt), ∃ (i : LInstr), ∃ (g : LGroup), s.b.willIssue a i (ctrlUse.regs false true false false) [i.a] true = some g) ∧
    (∃ (s : State), ∃ (a x : LathAt), ∃ (i : LInstr), ∃ (g : LGroup), ∃ (k : Nat), ∃ (t : Thread), s.b.willIssue a i ctrlUse [] true = some g ∧ x.core = a.core ∧ x.slot = a.slot ∧ s.b.threadAt x k = some t ∧ t.state = .running ∧ (x ≠ a ∨ k ∉ g.act)) ∧
    (∃ (s : State), ∃ (a : LathAt), ∃ (i : LInstr), ∃ (g : LGroup), s.b.willIssue a i ctrlUse [] true = some g ∧ (∀ x k t, x.core = a.core → x.slot = a.slot → s.b.threadAt x k = some t → ¬(x = a ∧ k ∈ g.act) → t.state = .exited ∨ t.state = .atBar)) ∧
    (∃ (s : State), ∃ (a : LathAt), ∃ (i : LInstr), ∃ (g : LGroup), s.b.willIssue a i ctrlUse [] true = some g) ∧
    (∃ (s : State), ∃ (a : LathAt), ∃ (i : LInstr), ∃ (g : LGroup), s.b.willIssue a i (ctrlUse.regs false false false true) [] true = some g ∧ g.act = []) ∧
    (∃ (s : State), ∃ (a : LathAt), ∃ (i : LInstr), ∃ (g : LGroup), s.b.willIssue a i (ctrlUse.regs false false false true) [] true = some g ∧ g.act ≠ []) ∧
    (∃ (s : State), ∃ (a : LathAt), ∃ (i : LInstr), ∃ (g : LGroup), ∃ (sr : SpecReg), ∃ c, s.b.lathGroup a i = some g ∧ (g.launch.codeLen < g.pc + i.bytes ∨ g.pc % 8 ≠ 0) ∧ c ∈ [Instr.bra a i, .jmpr a i, .exit a i, .barItem a i, .trap a i, .lathNop a i, .rdsr a i sr]) ∧
    (∃ (s : State), ∃ (a : LathAt), ∃ (i : LInstr), ∃ (g : LGroup), ∃ c, s.b.lathGroup a i = some g ∧ g.pc + i.bytes ≤ g.launch.codeLen ∧ g.pc % 8 = 0 ∧ g.blocked i [] = false ∧ g.act ≠ [] ∧ i.ok ctrlUse = false ∧ c ∈ [Instr.exit a i, .barItem a i, .lathNop a i]) ∧
    (∃ (s : State), ∃ (a : LathAt), ∃ (r : Run), ∃ (st : Station), ∃ (l : LLaunch), ∃ (it : LItem), ∃ (sh : Sheaf), ∃ (t0 : Nat), ∃ (x : Nat × List Nat), s.b.sheafAt a = some (r, st, l, it, sh) ∧ sh.waitAt = some t0 ∧ sh.lowest .atSheaf = some x ∧ 2 ^ 20 ≤ s.b.coreSince t0) ∧
    (∃ (s : State), ∃ (a : LathAt), ∃ (r : Run), ∃ (st : Station), ∃ (l : LLaunch), ∃ (it : LItem), ∃ (sh : Sheaf), ∃ (t0 : Nat), ∃ (x : Nat × List Nat), s.b.sheafAt a = some (r, st, l, it, sh) ∧ sh.waitAt = some t0 ∧ sh.lowest .atSheaf = some x ∧ s.b.coreSince t0 < 2 ^ 20) :=
  ⟨⟨tS (tLath [tThr 0 5#32 6#32]), tLa, tBra, _, rfl⟩,
    ⟨tS (tLath [tThr 0 16#32 6#32]), tLa, tI 3 0 0 2 0 0 0, _, rfl⟩,
    ⟨tS (tLath [tThr 0 5#32 6#32, tThr 8 5#32 6#32]), tLa, tLa, tI 3 0 0 0 0 0 0, _, 1, _, rfl, by decide +kernel, by decide +kernel, rfl, by and_intros <;> decide +kernel⟩,
    ⟨tS (tLath [tThr 0 5#32 6#32]), tLa, tI 3 0 0 0 0 0 0, _, rfl, one_thread (tThr 0 5#32 6#32) _ (by decide +kernel)⟩,
    ⟨tS (tLath [tThr 0 5#32 6#32]), tLa, tI 3 0 0 0 0 0 0, _, rfl⟩,
    ⟨tS (tLath [tThr 0 5#32 6#32]), tLa, { tI 3 0 0 0 0 0 0 with w1 := 0xF0000#32 }, _, rfl, by decide +kernel⟩,
    ⟨tS (tLath [tThr 4088 5#32 6#32]), tLa, tI 3 0 0 0 0 9 0, _, rfl, by decide +kernel⟩,
    ⟨tS (tLath [tThr 4088 5#32 6#32]), tLa, tBra, _, .lane, .bra tLa tBra, rfl, by and_intros <;> decide +kernel⟩,
    ⟨tS (tLath [tThr 0 5#32 6#32]), tLa, tI 3 0 5 0 0 0 0, _, .exit tLa (tI 3 0 5 0 0 0 0), rfl, by and_intros <;> decide +kernel⟩,
    ⟨tS (tCore (tLCore [{ tThr 8 5#32 6#32 with state := .atSheaf }] (some 0)) []), tLa, _, _, _, _, _, _, _, rfl, rfl, rfl, by decide +kernel⟩,
    ⟨tS (tCore (tLCore [{ tThr 8 5#32 6#32 with state := .atSheaf }] (some 1000000000)) []), tLa, _, _, _, _, _, _, _, rfl, rfl, rfl, by decide +kernel⟩⟩

/-- States and operands that meet the hypotheses of LathMemory, clause by clause. -/
theorem witness_LathMemory :
    (∃ (s : State), ∃ (a : LathAt), ∃ (i : LInstr), ∃ (size : Nat), ∃ (g : LGroup), s.b.willIssue a i globalLoad ([i.a, i.a + 1] ++ regSpan i.dst size) (lathSize size) = some g ∧ (∃ p ∈ g.addrs i.a, p.2 % size ≠ 0)) ∧
    (∃ (s : State), ∃ (a : LathAt), ∃ (i : LInstr), ∃ (size : Nat), ∃ (cached : Bool), ∃ (g : LGroup), ∃ (b1 : Block), ∃ (vals : List (Nat × Nat × List Byte)), ∃ (st : Nat), s.b.willIssue a i globalLoad ([i.a, i.a + 1] ++ regSpan i.dst size) (lathSize size) = some g ∧ (∀ p ∈ g.addrs i.a, p.2 % size = 0 ∧ s.b.rangeReady g.launch.run.tenant p.2 size .load = true) ∧ s.b.readRoom (s.b.loadSectors a g cached i.a size) (s.b.loadSectors a g cached i.a size) = true ∧ Block.laneLoads a.core g.launch cached size i.dst (g.addrs i.a) [] (s.b.counted a g) [] stOk = (b1, vals, st)) ∧
    (∃ (s : State), ∃ (a : LathAt), ∃ (i : LInstr), ∃ (size k pa : Nat), ∃ (g : LGroup), s.memSound ∧ s.b.willIssue a i globalStore ([i.a, i.a + 1] ++ regSpan i.b size) (lathSize size) = some g ∧ g.act = [k] ∧ lathSize size = true ∧ (g.thread k).pair i.a % size = 0 ∧ g.run.windowAt g.launch.station ((g.thread k).pair i.a) = none ∧ s.b.vat.translate g.launch.run.tenant ((g.thread k).pair i.a) .store = .ok pa ∧ regionOf pa = 1 ∧ s.b.stays g.launch.run.tenant ((g.thread k).pair i.a) ∧ s.b.feltBadIn pa size = []) ∧
    (∃ (s : State), ∃ (a : LathAt), ∃ (i : LInstr), ∃ (size : Nat), ∃ (g : LGroup), ∃ (b1 : Block), ∃ (st : Nat), s.b.willIssue a i globalStore ([i.a, i.a + 1] ++ regSpan i.b size) (lathSize size) = some g ∧ (∀ p ∈ g.addrs i.a, p.2 % size = 0 ∧ s.b.rangeReady g.launch.run.tenant p.2 size .store = true ∧ g.run.windowAt g.launch.station p.2 = none) ∧ (Block.laneStores a.core g.launch ((g.addrs i.a).map (fun p => (p.2, (g.thread p.1).regBytes i.b size))) (s.b.counted a g) stOk = (b1, st))) ∧
    (∃ (s : State), ∃ (a : LathAt), ∃ (i : LInstr), ∃ (size : Nat), ∃ (g : LGroup), s.b.willIssue a i globalLoad (i.a :: regSpan i.dst size) (lathSize size) = some g ∧ (∀ k ∈ g.act, ((g.thread k).reg i.a).toNat % size = 0)) ∧
    (∃ (s : State), ∃ (a : LathAt), ∃ (i : LInstr), ∃ (size : Nat), ∃ (g : LGroup), s.b.willIssue a i globalLoad (i.a :: regSpan i.dst size) (lathSize size) = some g ∧ (∃ k ∈ g.act, ((g.thread k).reg i.a).toNat % size ≠ 0)) ∧
    (∃ (s : State), ∃ (a : LathAt), ∃ (i : LInstr), ∃ (size : Nat), ∃ (g : LGroup), s.b.willIssue a i localLoad (i.a :: regSpan i.dst size) (lathSize size) = some g ∧ g.localBad i.a size = none) ∧
    (∃ (s : State), ∃ (a : LathAt), ∃ (i : LInstr), ∃ (size : Nat), ∃ (g : LGroup), ∃ c, s.b.willIssue a i localLoad (i.a :: regSpan i.dst size) (lathSize size) = some g ∧ g.localBad i.a size = some c) ∧
    (∃ (params : List Byte), ∃ (off n : Nat), off + n ≤ params.length) ∧
    (∃ (b : Block), ∃ (core : Nat), (b.core core).mat = []) ∧
    (∃ (s : State), ∃ (a : LathAt), ∃ (i : LInstr), ∃ (size : Nat), ∃ (g : LGroup), ∃ (w : Window), s.b.willIssue a i localStore (i.a :: regSpan i.b size) (lathSize size) = some g ∧ g.localBad i.a size = none ∧ (s.b.core a.core).windows.get a.slot = some w) ∧
    (∃ (s : State), ∃ (a : LathAt), ∃ (i : LInstr), ∃ (op : AtomOp), ∃ (ty : AtomTy), ∃ (k pa : Nat), ∃ (g : LGroup), ∃ (old : Word), s.memSound ∧ i.atomTy = some ty ∧ s.b.willIssue a i op.use (op.regs i true) (op.ok ty) = some g ∧ g.act = [k] ∧ (g.thread k).pair i.a % 4 = 0 ∧ s.b.vat.translate g.launch.run.tenant ((g.thread k).pair i.a) .store = .ok pa ∧ regionOf pa = 1 ∧ s.b.stays g.launch.run.tenant ((g.thread k).pair i.a) ∧ s.b.feltBadIn pa 4 = [] ∧ old = wordAt (s.b.mem.readN pa 4) 0) ∧
    (∃ (s : State), ∃ (a : LathAt), ∃ (i : LInstr), ∃ (op : AtomOp), ∃ (ty : AtomTy), ∃ (k : Nat), ∃ (g : LGroup), ∃ (old : Word), ∃ (w : Window), i.atomTy = some ty ∧ s.b.willIssue a i op.use (op.regs i false) (op.ok ty) = some g ∧ g.act = [k] ∧ g.localBad i.a 4 = none ∧ (s.b.core a.core).windows.get a.slot = some w ∧ (s.b.core a.core).mat = [] ∧ old = wordAt ((s.b.core a.core).localBytes a.slot ((g.thread k).reg i.a).toNat 4) 0) ∧
    (∃ (o : AtomOp), ∃ (ty : AtomTy), (¬(o = .add ∧ ty = .f32))) ∧
    (∃ (s : State), ∃ (a : LathAt), ∃ (i : LInstr), ∃ (g : LGroup), s.b.willIssue a i fenceUse [] true = some g) ∧
    (∃ (s : State), ∃ (core id : Nat), ∃ (l : LLaunch), ∃ (o : LOp), (s.b.core core).launch = some l ∧ ((s.b.core core).ops.find? (fun x => x.id = id) = some o) ∧ (s.b.live l.ref).isSome = true ∧ s.b.opReady core l o = true ∧ o.status ≠ stOk) ∧
    (∃ (s : State), ∃ (core id : Nat), ∃ (l : LLaunch), ∃ (o : LOp), (s.b.core core).launch = some l ∧ ((s.b.core core).ops.find? (fun x => x.id = id) = some o) ∧ (s.b.live l.ref).isSome = true ∧ s.b.opReady core l o = true ∧ o.status = stOk ∧ (o.kind = .store ∨ ∃ f q, o.kind = .fence f q)) ∧
    (∃ (s : State), ∃ (core id : Nat), ∃ (l : LLaunch), ∃ (o : LOp), ∃ (k reg : Nat), ∃ (bytes : List Byte), (s.b.core core).launch = some l ∧ ((s.b.core core).ops.find? (fun x => x.id = id) = some o) ∧ (s.b.live l.ref).isSome = true ∧ s.b.opReady core l o = true ∧ o.status = stOk ∧ (o.kind = .load [(k, reg, bytes)] ∨ o.kind = .atomic [(k, reg, bytes)]) ∧ o.lanes = [k]) :=
  ⟨⟨tS (tLath [tThr 0 0x200002#32 6#32]), tLa, tI 4 0 4 2 0 0 0, 4, _, rfl, by decide +kernel⟩,
    ⟨tS (tLath [tThr 0 0x200004#32 6#32]), tLa, tI 4 0 4 2 0 0 0, 4, false, _, _, _, _, rfl, by decide +kernel, by decide +kernel, rfl⟩,
    ⟨tS (tLath [tThr 0 0x200010#32 6#32]), tLa, tI 4 0 0 2 4 0 1, 16, 0, physFelt 0 16, _, by rfl, rfl, by and_intros <;> first | decide +kernel | exact rfl | exact ⟨rfl, rfl, rfl, by decide⟩ | (unfold Block.noneWaits; decide +kernel) | (intro x h; cases h; done)⟩,
    ⟨tS (tLath [tThr 0 0x200010#32 6#32]), tLa, tI 4 0 0 2 4 0 1, 16, _, _, _, rfl, by decide +kernel, rfl⟩,
    ⟨tS (tLath [tThr 0 56#32 6#32]), tLa, tI 4 0 4 2 0 0 0, 8, _, rfl, by decide +kernel⟩,
    ⟨tS (tLath [tThr 0 57#32 6#32]), tLa, tI 4 0 4 2 0 0 0, 8, _, rfl, by decide +kernel⟩,
    ⟨tS (tLath [tThr 0 8184#32 6#32]), tLa, tI 5 0 4 2 0 0 0, 8, _, rfl, by decide +kernel⟩,
    ⟨tS (tLath [tThr 0 8192#32 6#32]), tLa, tI 5 0 4 2 0 0 0, 8, _, _, rfl, rfl⟩,
    ⟨List.replicate 64 0#8, 8, 8, by decide +kernel⟩,
    ⟨tB, 0, by decide +kernel⟩,
    ⟨tS (tLath [tThr 0 8184#32 6#32]), tLa, tI 5 0 0 2 4 0 1, 8, _, _, rfl, by decide +kernel, rfl⟩,
    ⟨tS (tLath [tThr 0 0x200004#32 6#32]), tLa, tI 6 0 6 2 4 0 1, .add, .u32, 0, physFelt 0 4, _, _, by rfl, by decide +kernel, rfl, by decide +kernel, by decide +kernel, by decide +kernel, by decide +kernel, by (intro x h; cases h), by decide +kernel, rfl⟩,
    ⟨tS (tLath [tThr 0 8188#32 6#32]), tLa, tI 6 0 6 2 4 8 1, .cas, .u32, 0, _, _, _, by decide +kernel, rfl, by decide +kernel, by decide +kernel, rfl, by decide +kernel, rfl⟩,
    ⟨.add, .u32, by decide +kernel⟩,
    ⟨tS (tLath [tThr 0 5#32 6#32]), tLa, tI 9 0 0 0 0 0 1, _, rfl⟩,
    ⟨tS (tCore { tLCore [tThr 0 5#32 6#32] none with ops := [tOp .store 0x0A], nextOp := 6 } []), 575, 5, _, _, rfl, rfl, by and_intros <;> decide +kernel⟩,
    ⟨tS (tCore { tLCore [tThr 0 5#32 6#32] none with ops := [tOp (.fence [(575, 4)] []) stOk], nextOp := 6 } []), 575, 5, _, _, rfl, rfl, by decide +kernel, by decide +kernel, by decide +kernel, .inr ⟨_, _, rfl⟩⟩,
    ⟨tS (tCore { tLCore [tThr 0 5#32 6#32] none with ops := [tOp (.load [(0, 4, [1#8, 2#8, 3#8, 4#8])]) stOk], nextOp := 6 } []), 575, 5, _, _, 0, 4, [1#8, 2#8, 3#8, 4#8], rfl, rfl, by and_intros <;> decide +kernel⟩⟩

/-- States and operands that meet the hypotheses of LathTilesAndMatrix, clause by clause. -/
theorem witness_LathTilesAndMatrix :
    (∃ (s : State), ∃ (a : LathAt), ∃ (i : LInstr), ∃ (g : LGroup), ∃ (t : Tile), ∃ (w : Window), s.b.willIssue a i (tileUse.regs true true true true) [i.a, i.b, i.dst] (decide (i.c < 4)) = some g ∧ (g.item.tiles.find? (fun p => p.1 = i.c) = some (i.c, t)) ∧ (∀ k ∈ g.act, tinFault g.launch.window t.dbytes ((g.thread k).reg i.a).toNat ((g.thread k).reg i.b).toNat ((g.thread k).reg i.dst).toNat = none) ∧ (s.b.core a.core).windows.get a.slot = some w ∧ t.data.length = t.dbytes) ∧
    (∃ (s : State), ∃ (a : LathAt), ∃ (i : LInstr), ∃ (g : LGroup), ∃ (k at_ n : Nat), ∃ (e : EdgeEntry), s.b.willIssue a i (tileUse.regs false true false true) [i.a] (decide (i.c < 4)) = some g ∧ g.act = [k] ∧ g.st.entry.stepCheck = false ∧ g.run.outShape g.launch.station i.c = some e ∧ at_ = ((g.thread k).reg i.a).toNat ∧ n = (parseTile (s.b.localRead a.core a.slot at_ 32)).dbytes ∧ s.b.emitFault a.core a.slot g.launch.window at_ (some e) = none) ∧
    (∃ (s : State), ∃ (core id port addr : Nat), ∃ (snap : List Byte), ∃ (l : LLaunch), ∃ (o : LOp), ∃ (r : Run), ∃ (st : Station), ∃ (ls : LathSt), ∃ (it : LItem), (s.b.core core).launch = some l ∧ ((s.b.core core).ops.find? (fun x => x.id = id) = some o) ∧ o.kind = .emit port addr snap ∧ o.status = stOk ∧ s.b.live l.ref = some (r, st) ∧ s.b.opReady core l o = true ∧ st.entry.stepCheck = false ∧ st.body = .lath ls ∧ (s.b.core core).item o.slot = some it ∧ ls.held.get port = none) ∧
    (∃ (s : State), ∃ (core id port addr : Nat), ∃ (snap : List Byte), ∃ (l : LLaunch), ∃ (o : LOp), ∃ (r : Run), ∃ (st : Station), ∃ (ls : LathSt), ∃ (it : LItem), ∃ (old : Tile), ∃ (j : Nat), ∃ (ed : Edge), (s.b.core core).launch = some l ∧ ((s.b.core core).ops.find? (fun x => x.id = id) = some o) ∧ o.kind = .emit port addr snap ∧ o.status = stOk ∧ s.b.live l.ref = some (r, st) ∧ s.b.opReady core l o = true ∧ st.entry.stepCheck = false ∧ st.body = .lath ls ∧ (s.b.core core).item o.slot = some it ∧ ls.held.get port = some old ∧ r.outEdge l.station port = some (j, ed) ∧ s.b.canPush l.run j ed) ∧
    (∃ (s : State), ∃ (a : LathAt), ∃ (i : LInstr), ∃ (g : LGroup), s.b.willIssue a i (mmaUse false) [i.a, i.b, i.c, i.dst] true = some g ∧ g.act.length + (s.b.core a.core).mat.length ≤ 4 ∧ (∀ k ∈ g.act, mmaFault g.launch.window (g.thread k) i = none)) ∧
    (∃ (s : State), ∃ (a : LathAt), ∃ (i : LInstr), ∃ (g : LGroup), s.b.willIssue a i (mmaUse false) [i.a, i.b, i.c, i.dst] true = some g ∧ g.act = g.lanes ∧ 4 ≤ (s.b.core a.core).mat.length) ∧
    (∃ (s : State), ∃ (a : LathAt), ∃ (i : LInstr), ∃ (g : LGroup), s.b.lathGroup a i = none ∧ s.b.gathered a i = some g ∧ g.blocked i [i.a, i.a + 1, i.b, i.b + 1, i.c, i.dst, i.dst + 1] = false ∧ (s.b.core a.core).mat.length < 4) ∧
    (∃ (s : State), ∃ (a : LathAt), ∃ (i : LInstr), ∃ (g : LGroup), ∃ (k : Nat), ∃ (t : Thread), s.b.willIssue a i (mmaUse true) [i.a, i.a + 1, i.b, i.b + 1, i.c, i.dst, i.dst + 1] true = some g ∧ s.b.threadAt a k = some t ∧ t.state = .running ∧ k ∉ g.lanes) ∧
    (∃ (s : State), ∃ (core : Nat), ∃ (l : LLaunch), ∃ (op : MatOp), ∃ (rest : List MatOp), ∃ (lane pa pb pc m n k : Nat), ∃ (la lb lc : List Byte), ∃ (es : List Enc), ∃ (w : Window), (s.b.core core).launch = some l ∧ (s.b.core core).mat = op :: rest ∧ (s.b.live l.ref).isSome = true ∧ op.kind = .tile lane pa pb pc m n k la lb lc ∧ (s.b.core core).windows.get op.slot = some w ∧ es = mmaTile op m n k (s.b.operand core op.slot pa la) (s.b.operand core op.slot pb lb) (s.b.operand core op.slot pc lc)) ∧
    (∃ (s : State), ∃ (core dst : Nat), ∃ (l : LLaunch), ∃ (op : MatOp), ∃ (rest : List MatOp), ∃ (lanes : List Nat), ∃ (la lb : List (List Byte)), ∃ (lc acc : List Word), (s.b.core core).launch = some l ∧ (s.b.core core).mat = op :: rest ∧ (s.b.live l.ref).isSome = true ∧ op.kind = .sheaf dst lanes la lb lc acc) :=
  ⟨⟨tS (tLath [{ tThr 0 16#32 0#32 with regs := [(2, 16#32), (4, 0#32), (6, 16#32)] }]), tLa, tI 8 0 4 2 6 0 1, _, _, _, rfl, rfl, by decide +kernel, rfl, by decide +kernel⟩,
    ⟨tS (tCore { tLCore [tThr 0 0#32 0#32] none with windows := [(0, { run := 0, station := 0, base := none, bytes := (List.range 32).zip (wordsBytes [1#32, 0x00020001#32, 0#32, 8#32, 0#32, 0#32, 0#32, 0#32]) })] } []), tLa, tI 8 0 0 2 0 0 1, _, 0, _, _, _, rfl, by decide +kernel, by decide +kernel, rfl, rfl, rfl, by decide +kernel⟩,
    ⟨tS (tCore { tLCore [tThr 0 5#32 6#32] none with ops := [tOp (.emit 0 0 []) stOk], nextOp := 6 } []), 575, 5, 0, 0, [], _, _, _, _, _, _, rfl, rfl, by decide +kernel, by decide +kernel, rfl, by decide +kernel, by decide +kernel, rfl, rfl, by decide +kernel⟩,
    ⟨tS (tCore { tLCore [tThr 0 5#32 6#32] none with ops := [tOp (.emit 0 0 []) stOk], nextOp := 6 } [(0, tTile 1 1 2 8)]), 575, 5, 0, 0, [], _, _, _, _, _, _, _, _, _, rfl, rfl, by decide +kernel, by decide +kernel, rfl, by decide +kernel, by decide +kernel, rfl, rfl, rfl, rfl, by first | decide +kernel | exact rfl | exact ⟨rfl, rfl, rfl, by decide⟩ | (unfold Block.noneWaits; decide +kernel) | (intro x h; cases h; done)⟩,
    ⟨tS (tLath [tThr 0 0#32 0#32]), tLa, tI 7 0 6 2 4 8 1, _, rfl, by and_intros <;> decide +kernel⟩,
    ⟨tS (tCore { tLCore [tThr 0 0#32 0#32] none with mat := List.replicate 4 tMat } []), tLa, tI 7 0 6 2 4 8 1, _, rfl, by and_intros <;> decide +kernel⟩,
    ⟨tS (tCore (tLCore [{ tThr 8 5#32 6#32 with state := .atSheaf }] (some 0)) []), tLa, tI 1031 0 6 2 4 8 0, _, by decide +kernel, rfl, by and_intros <;> decide +kernel⟩,
    ⟨tS (tLath [tThr 0 5#32 6#32, tThr 8 5#32 6#32]), tLa, tI 1031 0 6 2 4 8 0, _, 1, _, rfl, rfl, by and_intros <;> decide +kernel⟩,
    ⟨tS (tCore { tLCore [tThr 0 0#32 0#32] none with mat := [tMat] } []), 575, _, _, _, _, _, _, _, _, _, _, _, _, _, _, _, rfl, rfl, by decide +kernel, rfl, rfl, rfl⟩,
    ⟨tS (tCore { tLCore [tThr 0 0#32 0#32] none with mat := [{ tMat with kind := .sheaf 4 [0] [List.replicate 8 0#8] [List.replicate 8 0#8] [0#32] [0#32] }] } []), 575, _, _, _, _, _, _, _, _, _, rfl, rfl, by decide +kernel, rfl⟩⟩

/-- States and operands that meet the hypotheses of EaveAccesses, clause by clause. -/
theorem witness_EaveAccesses :
    (∃ (s : State), ∃ (k index : Nat), ∃ (errs : SymErrs), ∃ (r : EaveRead), (s.b.eave k).reads[index]? = some r ∧ (s.b.eave k).canIssue r = true ∧ (s.b.eave k).myTurn index r = true ∧ s.b.sectorBad r.addr = false ∧ (errs = [] ∨ (s.b.eave k).wq.contains (sectorOf r.addr) = true)) ∧
    (∃ (s : State), ∃ (k index : Nat), ∃ (r : EaveRead), ∃ (errs : SymErrs), ∃ (l : List (Nat × Nat)), (s.b.eave k).reads[index]? = some r ∧ (s.b.eave k).canIssue r = true ∧ (s.b.eave k).myTurn index r = true ∧ s.b.sectorBad r.addr = false ∧ (s.b.eave k).wq.contains (sectorOf r.addr) = false ∧ (((s.b.eave k).pc (pcOf r.addr)).health = .good ∨ ((s.b.eave k).pc (pcOf r.addr)).health = .failing) ∧ (∀ e ∈ errs, e.1 < 36) ∧ (errs.map (fun e => (e.1, e.2.toNat)) = l) ∧ rsDecode 36 l = .fix l) ∧
    (∃ (s : State), ∃ (k index n num : Nat), ∃ (r : EaveRead), ∃ (errs : SymErrs), (s.b.eave k).reads[index]? = some r ∧ (s.b.eave k).canIssue r = true ∧ (s.b.eave k).myTurn index r = true ∧ s.b.sectorBad r.addr = false ∧ (s.b.eave k).wq.contains (sectorOf r.addr) = false ∧ (rsDecode 36 ((errs.filter (fun e => e.1 < 36)).map (fun e => (e.1, e.2.toNat))) = .bad) ∧ (∀ z ∈ s.b.vat.rows, z.kind ≠ .parity) ∧ r.req = .seat n num) ∧
    (∃ (s : State), ∃ (k index n num : Nat), ∃ (r : EaveRead), (s.b.eave k).reads[index]? = some r ∧ (s.b.eave k).canIssue r = true ∧ (s.b.eave k).myTurn index r = true ∧ s.b.sectorBad r.addr = true ∧ (∀ z ∈ s.b.vat.rows, z.kind ≠ .parity) ∧ r.req = .seat n num) ∧
    (∃ (s : State), ∃ (k index : Nat), ∃ (r : EaveRead), ∃ (g : Image), (s.b.eave k).reads[index]? = some r ∧ s.b.start.img = some g ∧ (s.b.eave k).canIssue r = true ∧ g.stackTo ≤ s.b.meshSince r.at_ ∧ r.tries = 0 ∧ ((s.b.eave k).pc (pcOf r.addr)).event = none ∧ (((s.b.eave k).pc (pcOf r.addr)).health = .good ∨ ((s.b.eave k).pc (pcOf r.addr)).health = .failing)) ∧
    (∃ (s : State), ∃ (k index : Nat), ∃ (r : EaveRead), ∃ (g : Image), ∃ n, ∃ num, (s.b.eave k).reads[index]? = some r ∧ s.b.start.img = some g ∧ (s.b.eave k).canIssue r = true ∧ g.stackTo ≤ s.b.meshSince r.at_ ∧ r.tries ≠ 0 ∧ ((s.b.eave k).pc (pcOf r.addr)).health = .good ∧ (∀ z ∈ s.b.vat.rows, z.kind ≠ .parity) ∧ r.req = .seat n num) ∧
    (∃ (s : State), ∃ (k index : Nat), ∃ (r : EaveRead), ∃ (g : Image), (s.b.eave k).reads[index]? = some r ∧ s.b.start.img = some g ∧ (s.b.eave k).canIssue r = true ∧ g.stackTo ≤ s.b.meshSince r.at_ ∧ r.tries ≠ 0 ∧ ((s.b.eave k).pc (pcOf r.addr)).health = .failing ∧ (∀ z ∈ s.b.vat.rows, z.kind ≠ .parity ∧ z.copies = []) ∧ s.b.vat.entriesOn k (pcOf r.addr) = []) ∧
    (∃ (s : State), ∃ (k addr pa : Nat), ∃ (l : List Byte), s.memSound ∧ pa = physStack k (bits addr 39 6) (addr % 2 ^ 39) ∧ k < 24 ∧ s.b.atWork = true ∧ s.b.eaveIn k = true ∧ l ≠ [] ∧ pa % 64 + l.length ≤ 64 ∧ (s.b.eave k).wq.length < 1024 ∧ ((s.b.eave k).pc (pcOf pa)).health ≠ .dead ∧ (l.length = 64 ∨ poisoned s.b.poison (sectorOf pa) = false) ∧ (∀ z ∈ s.b.vat.rows, z.kind ≠ .parity ∧ z.copies = [])) ∧
    (∃ (s : State), ∃ (k : Nat), ∃ (d : Nat × List Byte), ∃ (rest : List (Nat × List Byte)), s.memSound ∧ (s.b.eave k).par = d :: rest ∧ d.2.length = 64 ∧ s.b.queueOpen d.1 = true) ∧
    (∃ (s : State), ∃ (k a : Nat), (s.b.eave k).wq.find? (s.b.eave k).mayDrain = some a) ∧
    (∃ (s : State), ∃ (t src : Nat), s.b.owner src = some t) ∧
    (∃ (s : State), ∃ (q : AtomGroup), ∃ (l : LLaunch), (s.b.core q.at_.core).launch = some l) :=
  ⟨⟨tS (tEv (fun e => { e with reads := [tRead] })), 23, 0, [], _, rfl, by and_intros <;> decide +kernel⟩,
    ⟨tS (tEv (fun e => { e with reads := [tRead] })), 23, 0, _, [(35, 0xFFFF#16)], _, rfl, by decide +kernel, by decide +kernel, by decide +kernel, by decide +kernel, by decide +kernel, by decide +kernel, rfl, by decide +kernel⟩,
    ⟨tS (tEv (fun e => { e with reads := [tRead] })), 23, 0, 7, 3, _, [(33, 1#16), (34, 3#16), (35, 2#16)], rfl, by decide +kernel, by decide +kernel, by decide +kernel, by decide +kernel, rsDecode_bad 36 _ (by decide +kernel) (by decide +kernel) (by decide +kernel), by and_intros <;> decide +kernel⟩,
    ⟨tS { tEv (fun e => { e with reads := [tRead] }) with poison := poisonAdd [] (physStack 23 5 64) 64 }, 23, 0, 7, 3, _, rfl, by and_intros <;> decide +kernel⟩,
    ⟨tS (tEv (fun e => { e with reads := [tRead] })), 23, 0, _, _, rfl, rfl, by and_intros <;> decide +kernel⟩,
    ⟨tS (tEv (fun e => { e with reads := [{ tRead with tries := 1 }] })), 23, 0, _, _, 7, 3, rfl, rfl, by and_intros <;> decide +kernel⟩,
    ⟨tS (tEv (fun e => { e with reads := [{ tRead with tries := 1 }], pcs := [(5, { Pc.reset with health := .failing })] })), 23, 0, _, _, rfl, rfl, by and_intros <;> decide +kernel⟩,
    ⟨tS tB, 23, 63, _, [9#8], by rfl, rfl, by and_intros <;> decide +kernel⟩,
    ⟨tS (tEv (fun e => { e with par := [(physStack 0 5 64, List.replicate 64 3#8)] })), 23, _, _, by rfl, rfl, by and_intros <;> decide +kernel⟩,
    ⟨tS (tEv (fun e => { e with wq := [physStack 23 5 64] })), 23, _, rfl⟩,
    ⟨tS tB, 0, 8, by decide +kernel⟩,
    ⟨tS (tLath [tThr 0 5#32 6#32]), { at_ := tLa, i := tI 6 0 6 2 4 0 1, op := .add }, { run := tRef, station := 0, slots := 1, window := 8192, ws := 1, regs := 32, cacheBytes := 4096, codeLen := 4096, splat := false }, by decide +kernel⟩⟩

/-- States and operands that meet the hypotheses of EaveUpkeep, clause by clause. -/
theorem witness_EaveUpkeep :
    (∃ (s : State), ∃ (k : Nat), k < 24 ∧ (s.b.eave k).resetN = true ∧ (s.b.eave k).tempAt + 2000 ≤ s.b.now) ∧
    (∃ (s : State), ∃ (k : Nat), (s.b.eave k).inService = true ∧ (s.b.eave k).selfRefresh = false) ∧
    (∃ (s : State), ∃ (k : Nat), (s.b.eave k).inService = true ∧ (s.b.eave k).selfRefresh = false ∧ s.b.eaveMode k = 0 ∧ (s.b.eave k).reads = [] ∧ (s.b.eave k).wq = [] ∧ (s.b.eave k).par = [] ∧ (s.b.eave k).window = none ∧ (s.b.eave k).test = none ∧ 200000 ≤ s.b.meshSince (s.b.eave k).idleAt) ∧
    (∃ (s : State), ∃ (k : Nat), s.b.eaveIn k = true ∧ (s.b.eave k).selfRefresh = false ∧ 200000 ≤ s.b.meshSince (s.b.eave k).scrubAt) ∧
    (∃ (s : State), ∃ (k : Nat), ∃ (h : ScrubHit), s.b.eaveIn k = true ∧ (s.b.eave k).selfRefresh = false ∧ 200000 ≤ s.b.meshSince (s.b.eave k).scrubAt ∧ s.b.pcIn k h.pc = true ∧ h.slot = 28) ∧
    (∃ (s : State), ∃ (k : Nat), ∃ (h : ScrubHit), ∃ (l : List (Nat × Nat)), s.b.eaveIn k = true ∧ (s.b.eave k).selfRefresh = false ∧ 200000 ≤ s.b.meshSince (s.b.eave k).scrubAt ∧ s.b.pcIn k h.pc = true ∧ 29 ≤ h.slot ∧ (∀ e ∈ h.errs, e.1 < 16) ∧ (h.errs.map (fun e => (e.1, e.2.toNat)) = l) ∧ rsDecode 16 l = .fix l) ∧
    (∃ (s : State), ∃ (k p t0 : Nat), (s.b.eave k).test = some (p, t0) ∧ ((s.b.eave k).pc p).event = none ∧ (((s.b.eave k).pc p).health = .good ∨ ((s.b.eave k).pc p).health = .failing)) :=
  ⟨⟨tS tB, 23, by and_intros <;> decide +kernel⟩,
    ⟨tS (tEv (fun e => { e with owed := 5 })), 23, by and_intros <;> decide +kernel⟩,
    ⟨tS tB, 23, by and_intros <;> decide +kernel⟩,
    ⟨tS tB, 23, by and_intros <;> decide +kernel⟩,
    ⟨tS tB, 23, { pc := 63, slot := 28, errs := [], sticks := false }, by and_intros <;> decide +kernel⟩,
    ⟨tS tB, 23, { pc := 63, slot := 29, errs := [(3, 5#16)], sticks := false }, [(3, 5)], by and_intros <;> decide +kernel⟩,
    ⟨tS (tEv (fun e => { e with test := some (63, 0) })), 23, 63, 0, by and_intros <;> decide +kernel⟩⟩

/-- States and operands that meet the hypotheses of EaveRepairs, clause by clause. -/
theorem witness_EaveRepairs :
    (∃ (s : State), ∃ (k p n last : Nat), ((s.b.eave k).pc p).event = some (n, last) ∧ s.b.atWork = true ∧ s.b.eaveIn k = true ∧ (s.b.eave k).window = none ∧ (s.b.eave k).test = none ∧ (n = 0 ∨ 400000 ≤ s.b.meshSince last)) ∧
    (∃ (s : State), ∃ (k p t0 n last : Nat), (s.b.eave k).window = some (p, t0) ∧ ((s.b.eave k).pc p).event = some (n, last)) ∧
    (∃ (s : State), ∃ (k p t0 n last : Nat), (s.b.eave k).window = some (p, t0) ∧ ((s.b.eave k).pc p).event = some (n, last) ∧ n < 3) ∧
    (∃ (s : State), ∃ (k p t0 n last : Nat), (s.b.eave k).window = some (p, t0) ∧ ((s.b.eave k).pc p).event = some (n, last) ∧ 3 ≤ n) ∧
    (∃ (s : State), ∃ (id col : Nat), ∃ (r : ZRow), ∃ (z y : Zone), s.memSound ∧ s.b.vat.row id = some r ∧ r.table[col]? = some z ∧ r.copies = [(col, y)] ∧ s.b.vat.entriesOn z.eave z.pc = [(z.idx, id, col)] ∧ (s.b.eave z.eave).holds z.pc = false ∧ (∀ k, (s.b.eave k).par = []) ∧ (z.eave, z.pc) ≠ (y.eave, y.pc) ∧ z.pc < 64 ∧ y.pc < 64 ∧ z.idx < 833 ∧ y.idx < 833) ∧
    (∃ (s : State), ∃ (k p seg : Nat), ∃ (m : RowMove), ((s.b.eave k).moves.find? (fun m => decide (m.pc = p ∧ m.seg = seg) && m.copying) = some m) ∧ (s.b.eave k).holds p = false) ∧
    (∃ (s : State), ∃ (k p page : Nat), ∃ (rest : List (Nat × Nat)), (s.b.eave k).retiring = (p, page) :: rest ∧ (s.b.eave k).holds p = false) ∧
    (∃ (s : State), ∃ (k p page : Nat), ∃ (rest : List (Nat × Nat)), (s.b.eave k).retiring = (p, page) :: rest ∧ (s.b.eave k).holds p = false ∧ s.b.vat.zoneAt (physStack k p (page * pageBytes)) = none ∧ (∀ g, g < 8 → s.b.vat.zoneAt (physStack k p (page * pageBytes) + 512 * g) = none)) ∧
    (∃ (s : State), ∃ (k p page : Nat), ∃ (rest : List (Nat × Nat)), ∃ (r y : ZRow), ∃ (col slot j : Nat), ∃ (sh : Sheet), ∃ (b1 : Block), (s.b.eave k).retiring = (p, page) :: rest ∧ (s.b.eave k).holds p = false ∧ s.memSound ∧ s.b.vat.zoneAt (physStack k p (page * pageBytes)) = some (r, col) ∧ r.copies = [] ∧ s.b.vat.row r.id = some r ∧ ((((List.range 8).filterMap (fun g => (s.b.vat.slotOf (physStack k p (page * pageBytes) + 512 * g)).map (fun x => (x.1, x.2.1)))).eraseDups) = [(r.id, slot)]) ∧ r.retired.contains slot = false ∧ s.b.vat.sheets = [sh] ∧ sh.place = .stack r.id slot ∧ sh.paging = none ∧ (∀ x ∈ s.b.vat.rows, x.kind ≠ .parity) ∧ (b1 = (s.b.modEave k (fun e => { e with retiring := rest, retired := e.retired ++ [(p, page)] })).modRow r.id (fun x => { x with retired := x.retired ++ [slot] })) ∧ b1.takeSlot r.kind = some (b1, y.id, j) ∧ b1.vat.row y.id = some y ∧ (y.id, j) ≠ (r.id, slot) ∧ (∀ x, x < sheetBytes → s.b.vat.slotOf (r.phys slot x) = some (r.id, slot, x) ∧ s.b.vat.slotOf (y.phys j x) = some (y.id, j, x)) ∧ (∀ q a, s.b.vat.slotOf q = some (r.id, slot, a) → q = r.phys slot a)) :=
  ⟨⟨tS (tEv (fun e => { e with pcs := [(5, { Pc.reset with event := some (1, 0) })] })), 23, 5, _, _, rfl, by and_intros <;> decide +kernel⟩,
    ⟨tS (tEv (fun e => { e with pcs := [(5, { Pc.reset with event := some (3, 0) })], window := some (5, 0) })), 23, _, _, _, _, rfl, rfl⟩,
    ⟨tS (tEv (fun e => { e with pcs := [(5, { Pc.reset with event := some (2, 0) })], window := some (5, 0) })), 23, _, _, _, _, rfl, rfl, by decide +kernel⟩,
    ⟨tS (tEv (fun e => { e with pcs := [(5, { Pc.reset with event := some (3, 0) })], window := some (5, 0) })), 23, _, _, _, _, rfl, rfl, by decide +kernel⟩,
    ⟨tS { tB with vat := { tB.vat with rows := [{ tRow with copies := [(0, { eave := 0, pc := 5, idx := 0 })] }] } }, 0, 0, _, _, _, by rfl, rfl, rfl, rfl, by decide +kernel, by decide +kernel, tB_par, by and_intros <;> decide +kernel⟩,
    ⟨tS (tEv (fun e => { e with moves := [{ pc := 5, seg := 3, count := 1, copying := true }] })), 23, 5, 3, _, rfl, by decide +kernel⟩,
    ⟨tS (tEv (fun e => { e with retiring := [(5, 63)] })), 23, 5, 63, [], by and_intros <;> decide +kernel⟩,
    ⟨tS (tEv (fun e => { e with retiring := [(5, 63)] })), 23, 5, 63, [], by and_intros <;> decide +kernel⟩,
    ⟨tS { tB with eaves := { tEave with retiring := [(0, 0)] } :: List.replicate 23 tEave, vat := { tB.vat with rows := [tRow], nextRow := 1, sheets := [{ tSheet with place := .stack 0 0 }] } }, 0, 0, 0, [], tRow, { tRow with retired := [0] }, 0, 0, 1, _, _, by decide +kernel, by decide +kernel, by rfl, by decide +kernel, by decide +kernel, by decide +kernel, by decide +kernel, by decide +kernel, rfl, by decide +kernel, by decide +kernel, by decide +kernel, rfl, by decide +kernel, by decide +kernel, by decide +kernel, fun x hx => ⟨phys_slot _ rfl 0 x (by decide) hx, phys_slot _ rfl 1 x (by decide) hx⟩, fun q a h => slot_phys _ rfl q 0 a h⟩⟩

/-- States and operands that meet the hypotheses of SplatBins, clause by clause. -/
theorem witness_SplatBins :
    (∃ (s : State), ∃ (a : StRef), ∃ (n : Nat), ∃ (r : Run), ∃ (st : Station), ∃ (x : Active), ∃ (t : Tile), ∃ (y : BinSt), ∃ (v : BinPar), s.b.working a n = some (r, st, x) ∧ st.body = .bin y ∧ x.tile 0 = some t ∧ v = binPar st.params ∧ y.park = none ∧ y.ended = false ∧ st.turn n = true ∧ (t.cols ≠ 64 ∨ ∃ k, k < t.rows ∧ wfield (wordAt (t.row 64 k) 2) 1 31 ≠ 0)) ∧
    (∃ (s : State), ∃ (a : StRef), ∃ (n : Nat), ∃ (r : Run), ∃ (st : Station), ∃ (x : Active), ∃ (t : Tile), ∃ (y : BinSt), ∃ (v : BinPar), s.b.working a n = some (r, st, x) ∧ st.body = .bin y ∧ x.tile 0 = some t ∧ v = binPar st.params ∧ y.park = none ∧ y.ended = false ∧ st.turn n = true ∧ t.cols = 64 ∧ (∀ k, k < t.rows → wfield (wordAt (t.row 64 k) 2) 1 31 = 0) ∧ y.boxes.length + t.rows ≤ 16777216 ∧ y.prims + t.rows < 2 ^ 32 ∧ v.max < sheetsOf y.segEnd + sheetsOf (8 * (y.boxes.length + t.rows))) ∧
    (∃ (s : State), ∃ (a : StRef), ∃ (n : Nat), ∃ (r : Run), ∃ (st : Station), ∃ (x : Active), ∃ (t : Tile), ∃ (y : BinSt), ∃ (v : BinPar), ∃ (b1 : Block), s.b.working a n = some (r, st, x) ∧ st.body = .bin y ∧ x.tile 0 = some t ∧ v = binPar st.params ∧ y.park = none ∧ y.ended = false ∧ st.turn n = true ∧ t.cols = 64 ∧ (∀ k, k < t.rows → wfield (wordAt (t.row 64 k) 2) 1 31 = 0) ∧ y.boxes.length + t.rows ≤ 16777216 ∧ y.prims + t.rows < 2 ^ 32 ∧ sheetsOf y.segEnd + sheetsOf (8 * (y.boxes.length + t.rows)) ≤ v.max ∧ (∀ m ∈ v.need (sheetsOf y.segEnd) (sheetsOf (8 * (y.boxes.length + t.rows))), m ∈ s.b.vat.courseSheets r.ref.tenant v) ∧ s.b.courseReady r.ref.tenant (v.va + v.max * sheetBytes - 8 * (y.boxes.length + t.rows)) (8 * t.rows) = true ∧ (s.b.courseWrite st.homeField r.ref.tenant (v.va + v.max * sheetBytes - 8 * (y.boxes.length + t.rows)) (((List.range t.rows).map (fun k => t.row 64 k)).reverse.flatMap (fun l => l.take 8)) = (b1, stOk))) ∧
    (∃ (s : State), ∃ (a : StRef), ∃ (n : Nat), ∃ (r : Run), ∃ (st : Station), ∃ (x : Active), ∃ (t : Tile), ∃ (y : BinSt), ∃ (v : BinPar), ∃ (b1 : Block), ∃ got, ∃ lack, s.b.working a n = some (r, st, x) ∧ st.body = .bin y ∧ x.tile 0 = some t ∧ v = binPar st.params ∧ y.park = none ∧ y.ended = false ∧ st.turn n = true ∧ t.cols = 64 ∧ (∀ k, k < t.rows → wfield (wordAt (t.row 64 k) 2) 1 31 = 0) ∧ y.boxes.length + t.rows ≤ 16777216 ∧ y.prims + t.rows < 2 ^ 32 ∧ sheetsOf y.segEnd + sheetsOf (8 * (y.boxes.length + t.rows)) ≤ v.max ∧ s.b.courseTake r.ref.tenant st.homeField v (v.need (sheetsOf y.segEnd) (sheetsOf (8 * (y.boxes.length + t.rows)))) = (b1, got, lack + 1)) ∧
    (∃ (v : BinPar), 1 ≤ v.w ∧ 1 ≤ v.h) ∧
    (∃ (v : BinPar), ∃ (rec : List Byte), ∃ c0, ∃ c1, ∃ r0, ∃ r1, 1 ≤ v.w ∧ 1 ≤ v.h ∧ v.box rec = some (c0, c1, r0, r1)) ∧
    (∃ (s : State), ∃ (a : StRef), ∃ (j c w : Nat), ∃ (r : Run), ∃ (st : Station), ∃ (y : BinSt), ∃ (v : BinPar), ∃ (ed : Edge), ∃ (b1 : Block), s.b.live a = some (r, st) ∧ st.body = .bin y ∧ v = binPar st.params ∧ y.park = none ∧ st.outbox = [] ∧ y.ended = true ∧ st.frameOver = false ∧ v.reverse = false ∧ y.boxes = [some (c, c, w, w)] ∧ y.segs = [] ∧ sheetsOf (y.segEnd + 64) + 1 ≤ v.max ∧ (∀ m ∈ v.need (sheetsOf (y.segEnd + 64)) 1, m ∈ s.b.vat.courseSheets r.ref.tenant v) ∧ s.b.courseReady r.ref.tenant (v.va + y.segEnd) 64 = true ∧ s.b.courseWrite st.homeField r.ref.tenant (v.va + y.segEnd) (leBytes 4 (y.prims - 1) ++ List.replicate 60 0xFF#8) = (b1, stOk) ∧ r.outEdge a.station 0 = some (j, ed) ∧ s.b.canPush (stRun a) j ed) ∧
    (∃ (s : State), ∃ (a : StRef), ∃ (r : Run), ∃ (st : Station), ∃ (y : BinSt), ∃ (v : BinPar), ∃ (b1 : Block), ∃ (es : List (Nat × List Nat)), ∃ (d : List Byte), s.b.live a = some (r, st) ∧ st.body = .bin y ∧ v = binPar st.params ∧ y.park = none ∧ st.outbox = [] ∧ y.ended = true ∧ st.frameOver = false ∧ v.reverse = true ∧ y.boxes ≠ [] ∧ es = drawEntries (shCols v.w) (y.prims - y.boxes.length) y.boxes ∧ (d = es.flatMap (fun e => segmentBytes e.2)) ∧ (∀ e ∈ es, e.2.length ≤ 65536) ∧ sheetsOf (y.segEnd + d.length) + sheetsOf (8 * y.boxes.length) ≤ v.max ∧ (∀ m ∈ v.need (sheetsOf (y.segEnd + d.length)) (sheetsOf (8 * y.boxes.length)), m ∈ s.b.vat.courseSheets r.ref.tenant v) ∧ s.b.courseReady r.ref.tenant (v.va + y.segEnd) d.length = true ∧ s.b.courseWrite st.homeField r.ref.tenant (v.va + y.segEnd) d = (b1, stOk)) ∧
    (∃ (s : State), ∃ (t strm got lack : Nat), ∃ (p : Pkt), ∃ (r : Run), ∃ (st : Station), ∃ (y : BinSt), ∃ (k : Park), ∃ (b1 : Block), s.b.front t strm 0x0A = some p ∧ p.stream = strm ∧ p.cpl = false ∧ p.addr = 0 ∧ s.b.findRun { tenant := t, handle := p.arg 0 } = some r ∧ r.killed = none ∧ r.stations[wfield (p.arg 1) 0 8]? = some st ∧ st.entry.type = .bin ∧ st.body = .bin y ∧ y.park = some k ∧ (s.b.popFront t strm).courseTake t st.homeField (binPar st.params) ((binPar st.params).need k.segs k.stage) = (b1, got, lack)) ∧
    (∃ (s : State), ∃ (a : StRef), ∃ (r : Run), ∃ (st : Station), ∃ (y : BinSt), ∃ (k : Park), ∃ (g : Image), s.b.live a = some (r, st) ∧ s.b.start.img = some g ∧ st.body = .bin y ∧ y.park = some k ∧ g.growTo ≤ s.b.ctlSince k.since) ∧
    (∃ (s : State), ∃ (a : StRef), ∃ (r : Run), ∃ (st : Station), ∃ (y : BinSt), ∃ (k : Park), ∃ (g : Image), s.b.live a = some (r, st) ∧ s.b.start.img = some g ∧ st.body = .bin y ∧ y.park = some k ∧ s.b.ctlSince k.since < g.growTo) :=
  ⟨⟨tS (tBinB 0#32 tBin [(0, tTile 0 1 64 64)] false), tAt, 0, _, _, _, _, _, _, rfl, rfl, rfl, rfl, by decide +kernel, by decide +kernel, by decide +kernel, Or.inr ⟨0, by decide +kernel⟩⟩,
    ⟨tS (tBinB 0#32 { tBin with segEnd := 2 * sheetBytes } [(0, tPrims)] false), tAt, 0, _, _, _, _, _, _, rfl, rfl, rfl, rfl, by and_intros <;> decide +kernel⟩,
    ⟨tS (tBinB 0#32 tBin [(0, tPrims)] false), tAt, 0, _, _, _, _, _, _, _, rfl, rfl, rfl, rfl, by decide +kernel, by decide +kernel, by decide +kernel, by decide +kernel, by decide +kernel, by decide +kernel, by decide +kernel, by decide +kernel, by decide +kernel, by decide +kernel, rfl⟩,
    ⟨tS { tBinB 0#32 tBin [(0, tPrims)] false with eaves := List.replicate 24 Eave.reset, vat := tB.vat }, tAt, 0, _, _, _, _, _, _, _, 0, 0, rfl, rfl, rfl, rfl, by decide +kernel, by decide +kernel, by decide +kernel, by decide +kernel, by decide +kernel, by decide +kernel, by decide +kernel, by decide +kernel, pair_fst _ (by decide +kernel)⟩,
    ⟨binPar (tBinPar 0#32), by and_intros <;> decide +kernel⟩,
    ⟨binPar (tBinPar 0#32), List.replicate 64 0#8, 0, 0, 0, 0, by and_intros <;> decide +kernel⟩,
    ⟨tS (tBinB 0#32 { tBin with prims := 1, boxes := [some (0, 0, 0, 0)], ended := true } [] false), tAt, _, 0, 0, _, _, _, _, _, _, rfl, rfl, rfl, by decide +kernel, by decide +kernel, by decide +kernel, by decide +kernel, by decide +kernel, by decide +kernel, by decide +kernel, by decide +kernel, by decide +kernel, by decide +kernel, rfl, rfl, by first | decide +kernel | exact rfl | exact ⟨rfl, rfl, rfl, by decide⟩ | (unfold Block.noneWaits; decide +kernel) | (intro x h; cases h; done)⟩,
    ⟨tS (tBinB 1#32 { tBin with prims := 1, boxes := [some (0, 0, 0, 0)], ended := true } [] false), tAt, _, _, _, _, _, _, _, rfl, rfl, rfl, by decide +kernel, by decide +kernel, by decide +kernel, by decide +kernel, by decide +kernel, by decide +kernel, rfl, rfl, by decide +kernel, by decide +kernel, by decide +kernel, by decide +kernel, rfl⟩,
    ⟨tS { tFront (tPkt 0x0A 0 [1#32, 0#32] []) with runs := [tRun [tStn .bin (tBinPar 0#32) (.bin { tBin with park := some { segs := 1, stage := 1, since := 0 } })] []] }, 0, 0, _, _, _, _, _, _, _, _, rfl, by decide +kernel, by decide +kernel, by decide +kernel, rfl, by decide +kernel, rfl, by decide +kernel, rfl, rfl, rfl⟩,
    ⟨tS (tBinB 0#32 { tBin with park := some { segs := 1, stage := 1, since := 0 } } [] false), tAt, _, _, _, _, _, rfl, rfl, rfl, rfl, by decide +kernel⟩,
    ⟨tS (tBinB 0#32 { tBin with park := some { segs := 1, stage := 1, since := 1000000000 } } [] false), tAt, _, _, _, _, _, rfl, rfl, rfl, rfl, by decide +kernel⟩⟩

/-- States and operands that meet the hypotheses of SplatBlends, clause by clause. -/
theorem witness_SplatBlends :
    (∃ (s : State), ∃ (a : StRef), ∃ (r : Run), ∃ (st : Station), ∃ (y : BlendSt), ∃ (v : BlendPar), ∃ (f : Frag), ∃ (l : List Frag), ∃ (sh : Shingle), ∃ (fld : Nat), s.b.live a = some (r, st) ∧ st.body = .blend y ∧ v = blendPar st.params ∧ v.reverse = false ∧ y.inbound = f :: l ∧ sh = y.shingle f.x ∧ fld = s.b.ownerField v.w f.x ∧ wfield (f.words.getD 3 0#32) 16 16 = 0 ∧ sh.nextSk < 65536 ∧ y.done = true) ∧
    (∃ (s : State), ∃ (a : StRef), ∃ (r : Run), ∃ (st : Station), ∃ (y : BlendSt), ∃ (v : BlendPar), ∃ (f : Frag), ∃ (l : List Frag), ∃ (sh : Shingle), ∃ (fld : Nat), s.b.live a = some (r, st) ∧ st.body = .blend y ∧ v = blendPar st.params ∧ v.reverse = false ∧ y.inbound = f :: l ∧ sh = y.shingle f.x ∧ fld = s.b.ownerField v.w f.x ∧ wfield (f.words.getD 3 0#32) 16 16 = 0 ∧ sh.nextSk < 65536 ∧ y.done = false ∧ f.sk = sh.nextSk ∧ sh.orderOk v (sh.px.getD f.q pixelStart) f = true) ∧
    (∃ (s : State), ∃ (a : StRef), ∃ (r : Run), ∃ (st : Station), ∃ (y : BlendSt), ∃ (v : BlendPar), ∃ (f : Frag), ∃ (l : List Frag), ∃ (sh : Shingle), ∃ (fld : Nat), s.b.live a = some (r, st) ∧ st.body = .blend y ∧ v = blendPar st.params ∧ v.reverse = false ∧ y.inbound = f :: l ∧ sh = y.shingle f.x ∧ fld = s.b.ownerField v.w f.x ∧ wfield (f.words.getD 3 0#32) 16 16 = 0 ∧ sh.nextSk < 65536 ∧ y.done = false ∧ f.sk = sh.nextSk ∧ sh.orderOk v (sh.px.getD f.q pixelStart) f = false) ∧
    (∃ (s : State), ∃ (a : StRef), ∃ (r : Run), ∃ (st : Station), ∃ (y : BlendSt), ∃ (v : BlendPar), ∃ (f : Frag), ∃ (l : List Frag), ∃ (sh : Shingle), ∃ (fld : Nat), s.b.live a = some (r, st) ∧ st.body = .blend y ∧ v = blendPar st.params ∧ v.reverse = false ∧ y.inbound = f :: l ∧ sh = y.shingle f.x ∧ fld = s.b.ownerField v.w f.x ∧ wfield (f.words.getD 3 0#32) 16 16 = 0 ∧ sh.nextSk < 65536 ∧ y.done = false ∧ 32768 ≤ (f.sk + 65536 - sh.nextSk) % 65536) ∧
    (∃ (s : State), ∃ (a : StRef), ∃ (r : Run), ∃ (st : Station), ∃ (y : BlendSt), ∃ (v : BlendPar), ∃ (f : Frag), ∃ (l : List Frag), ∃ (sh : Shingle), ∃ (fld : Nat), s.b.live a = some (r, st) ∧ st.body = .blend y ∧ v = blendPar st.params ∧ v.reverse = false ∧ y.inbound = f :: l ∧ sh = y.shingle f.x ∧ fld = s.b.ownerField v.w f.x ∧ wfield (f.words.getD 3 0#32) 16 16 = 0 ∧ sh.nextSk < 65536 ∧ y.done = false ∧ 1 ≤ (f.sk + 65536 - sh.nextSk) % 65536 ∧ (f.sk + 65536 - sh.nextSk) % 65536 ≤ 32767 ∧ s.b.isHeld r.ref.tenant (.blend r.ref a.station) = false ∧ s.b.gutterFree r.ref.tenant ≠ 0) ∧
    (∃ (px : List Word), px.length = 8) ∧
    (∃ (v : BlendPar), ∃ (px : List Word), ∃ (f : Frag), px.length = 8 ∧ (v.forward px f).2.2 = true) ∧
    (∃ (v : BlendPar), ∃ (px : List Word), ∃ (f : Frag), px.length = 8 ∧ (v.forward px f).2.2 = false) ∧
    (∃ (s : State), ∃ (a : StRef), ∃ (n sk x : Nat), ∃ (r : Run), ∃ (st : Station), ∃ (i : Active), ∃ (y : BlendSt), ∃ (v : BlendPar), ∃ (t : Tile), ∃ (sh : Shingle), s.b.working a n = some (r, st, i) ∧ st.body = .blend y ∧ i.tile 0 = some t ∧ v = blendPar st.params ∧ sk = wfield (wordAt (t.row 32 0) 0) 0 16 ∧ x = (wordAt (t.row 32 0) 1).toNat ∧ sh = y.shingle x ∧ st.portTurn 0 n = true ∧ st.outbox = [] ∧ x < shCount v.w v.h ∧ (v.reverse = true → sh.up = true) ∧ sk ≠ sh.nextSk) ∧
    (∃ (s : State), ∃ (a : StRef), ∃ (n sk x : Nat), ∃ (r : Run), ∃ (st : Station), ∃ (i : Active), ∃ (y : BlendSt), ∃ (v : BlendPar), ∃ (t : Tile), ∃ (sh : Shingle), ∃ sh1, ∃ m, ∃ k, s.b.working a n = some (r, st, i) ∧ st.body = .blend y ∧ i.tile 0 = some t ∧ v = blendPar st.params ∧ sk = wfield (wordAt (t.row 32 0) 0) 0 16 ∧ x = (wordAt (t.row 32 0) 1).toNat ∧ sh = y.shingle x ∧ st.portTurn 0 n = true ∧ st.outbox = [] ∧ x < shCount v.w v.h ∧ (v.reverse = true → sh.up = true) ∧ sk = sh.nextSk ∧ (Shingle.retireAll v (sh.held.filter (fun f => f.sk = sk)) { sh with held := sh.held.filter (fun f => f.sk ≠ sk) } 0 0 = some (sh1, m, k)) ∧ v.reverse = false) ∧
    (∃ (s : State), ∃ (a : StRef), ∃ (n sk x : Nat), ∃ (r : Run), ∃ (st : Station), ∃ (i : Active), ∃ (y : BlendSt), ∃ (v : BlendPar), ∃ (t : Tile), ∃ (sh : Shingle), ∃ sh1, ∃ m, ∃ k, ∃ j, ∃ ed, ∃ u, s.b.working a n = some (r, st, i) ∧ st.body = .blend y ∧ i.tile 0 = some t ∧ v = blendPar st.params ∧ sk = wfield (wordAt (t.row 32 0) 0) 0 16 ∧ x = (wordAt (t.row 32 0) 1).toNat ∧ sh = y.shingle x ∧ st.portTurn 0 n = true ∧ st.outbox = [] ∧ x < shCount v.w v.h ∧ (v.reverse = true → sh.up = true) ∧ sk = sh.nextSk ∧ (Shingle.retireAll v (sh.held.filter (fun f => f.sk = sk)) { sh with held := sh.held.filter (fun f => f.sk ≠ sk) } 0 0 = some (sh1, m, k)) ∧ v.reverse = true ∧ r.outEdge a.station 0 = some (j, ed) ∧ s.b.canPush (stRun a) j ed ∧ gradientTiles ed.entry.rows sh1.ovf sh1.unf sh1.staged = [u]) ∧
    (∃ (s : State), ∃ (a : StRef), ∃ (n : Nat), ∃ (r : Run), ∃ (st : Station), ∃ (i : Active), ∃ (y : BlendSt), ∃ (v : BlendPar), ∃ (t : Tile), ∃ (sh : Shingle), s.b.working a n = some (r, st, i) ∧ st.body = .blend y ∧ i.tile 1 = some t ∧ v = blendPar st.params ∧ v.reverse = true ∧ st.portTurn 1 n = true ∧ sh = y.shingle y.ups ∧ t.no ≠ y.ups) ∧
    (∃ (s : State), ∃ (a : StRef), ∃ (n : Nat), ∃ (r : Run), ∃ (st : Station), ∃ (i : Active), ∃ (y : BlendSt), ∃ (v : BlendPar), ∃ (t : Tile), ∃ (sh : Shingle), s.b.working a n = some (r, st, i) ∧ st.body = .blend y ∧ i.tile 1 = some t ∧ v = blendPar st.params ∧ v.reverse = true ∧ st.portTurn 1 n = true ∧ sh = y.shingle y.ups ∧ t.no = y.ups ∧ y.ups < shCount v.w v.h ∧ t.rows = 16 ∧ t.cols = 64 ∧ sh.loaded = true ∧ (∀ f ∈ sh.held, f.sk ≠ sh.nextSk)) ∧
    (∃ (s : State), ∃ (a : StRef), ∃ (r : Run), ∃ (st : Station), ∃ (y : BlendSt), ∃ (v : BlendPar), ∃ x, ∃ sh, s.b.live a = some (r, st) ∧ st.body = .blend y ∧ v = blendPar st.params ∧ y.done = false ∧ st.portClosed 0 = true ∧ (v.reverse = true → st.portClosed 1 = true) ∧ st.idle = true ∧ st.outbox = [] ∧ y.inbound = [] ∧ (y.sh.filter (fun e => !e.2.held.isEmpty) = [(x, sh)])) ∧
    (∃ (s : State), ∃ (a : StRef), ∃ (r : Run), ∃ (st : Station), ∃ (y : BlendSt), ∃ (v : BlendPar), ∃ j, ∃ ed, s.b.live a = some (r, st) ∧ st.body = .blend y ∧ v = blendPar st.params ∧ y.done = false ∧ st.portClosed 0 = true ∧ (v.reverse = true → st.portClosed 1 = true) ∧ st.idle = true ∧ st.outbox = [] ∧ y.inbound = [] ∧ (∀ e ∈ y.sh, e.2.held = []) ∧ v.reverse = false ∧ v.save = false ∧ shCount v.w v.h = 1 ∧ r.outEdge a.station 0 = some (j, ed) ∧ s.b.canPush (stRun a) j ed) ∧
    (∃ (s : State), ∃ (a : StRef), ∃ (r : Run), ∃ (st : Station), ∃ (y : BlendSt), ∃ (v : BlendPar), s.b.live a = some (r, st) ∧ st.body = .blend y ∧ v = blendPar st.params ∧ y.done = false ∧ st.portClosed 0 = true ∧ (v.reverse = true → st.portClosed 1 = true) ∧ st.idle = true ∧ st.outbox = [] ∧ y.inbound = [] ∧ (∀ e ∈ y.sh, e.2.held = []) ∧ v.reverse = true) :=
  ⟨⟨tS (tBlendB 0#32 { tBlend tSh [tFrag 0 0] with done := true } [] []), tAt, _, _, _, _, _, _, _, _, rfl, rfl, rfl, by decide +kernel, rfl, rfl, rfl, by and_intros <;> decide +kernel⟩,
    ⟨tS (tBlendB 0#32 (tBlend tSh [tFrag 0 0]) [] []), tAt, _, _, _, _, _, _, _, _, rfl, rfl, rfl, by decide +kernel, rfl, rfl, rfl, by and_intros <;> decide +kernel⟩,
    ⟨tS (tBlendB 0#32 (tBlend { tSh with touched := [0], px := [(0, [0#32, 0#32, 0#32, 0x3F800000#32, 0#32, 0#32, 0x50000#32, 0#32])] } [tFrag 0 5]) [] []), tAt, _, _, _, _, _, _, _, _, rfl, rfl, rfl, by decide +kernel, rfl, rfl, rfl, by and_intros <;> decide +kernel⟩,
    ⟨tS (tBlendB 0#32 (tBlend tSh [tFrag 32768 0]) [] []), tAt, _, _, _, _, _, _, _, _, rfl, rfl, rfl, by decide +kernel, rfl, rfl, rfl, by and_intros <;> decide +kernel⟩,
    ⟨tS (tBlendB 0#32 (tBlend tSh [tFrag 1 0]) [] []), tAt, _, _, _, _, _, _, _, _, rfl, rfl, rfl, by decide +kernel, rfl, rfl, rfl, by and_intros <;> decide +kernel⟩,
    ⟨List.replicate 8 0#32, by decide +kernel⟩,
    ⟨{ blendPar (tBlendPar 0#32) with alphaMin := wordF 0x3F800000#32 }, List.replicate 8 0#32, tFrag 0 0, by and_intros <;> decide +kernel⟩,
    ⟨blendPar (tBlendPar 0#32), List.replicate 8 0#32, tFrag 0 0, by and_intros <;> decide +kernel⟩,
    ⟨tS (tBlendB 0#32 (tBlend tSh []) [(0, { tTile 0 1 32 32 with data := wordsBytes (5#32 :: List.replicate 7 0#32) })] []), tAt, 0, _, _, _, _, _, _, _, _, _, rfl, rfl, rfl, rfl, rfl, rfl, rfl, by and_intros <;> decide +kernel⟩,
    ⟨tS (tBlendB 0#32 (tBlend tSh []) [(0, { tTile 0 1 32 32 with data := wordsBytes (0#32 :: List.replicate 7 0#32) })] []), tAt, 0, _, _, _, _, _, _, _, _, _, _, _, _, rfl, rfl, rfl, rfl, rfl, rfl, rfl, by decide +kernel, by decide +kernel, by decide +kernel, by decide +kernel, by decide +kernel, rfl, by decide +kernel⟩,
    ⟨tS (tBlendB 1#32 (tBlend { tSh with staged := [(0, List.replicate 32 0#8)] } []) [(0, { tTile 0 1 32 32 with data := wordsBytes (0#32 :: List.replicate 7 0#32) })] []), tAt, 0, _, _, _, _, _, _, _, _, _, _, _, _, _, _, _, rfl, rfl, rfl, rfl, rfl, rfl, rfl, by decide +kernel, by decide +kernel, by decide +kernel, by decide +kernel, by decide +kernel, rfl, by decide +kernel, rfl, by first | decide +kernel | exact rfl | exact ⟨rfl, rfl, rfl, by decide⟩ | (unfold Block.noneWaits; decide +kernel) | (intro x h; cases h; done), rfl⟩,
    ⟨tS (tBlendB 1#32 { tBlend tSh [] with ups := 3 } [(1, { tPrims with rows := 16, dbytes := 1024, data := List.replicate 1024 0#8 })] []), tAt, 0, _, _, _, _, _, _, _, rfl, rfl, rfl, rfl, by decide +kernel, by decide +kernel, rfl, by decide +kernel⟩,
    ⟨tS (tBlendB 1#32 (tBlend tSh []) [(1, { tPrims with rows := 16, dbytes := 1024, data := List.replicate 1024 0#8 })] []), tAt, 0, _, _, _, _, _, _, _, rfl, rfl, rfl, rfl, by decide +kernel, by decide +kernel, rfl, by and_intros <;> decide +kernel⟩,
    ⟨tS (tBlendB 0#32 (tBlend { tSh with held := [tFrag 5 0] } []) [] [0]), tAt, _, _, _, _, _, _, rfl, rfl, rfl, by decide +kernel, by decide +kernel, fun h => absurd h (by decide +kernel), by decide +kernel, by decide +kernel, by decide +kernel, rfl⟩,
    ⟨tS (tBlendB 0#32 (tBlend tSh []) [] [0]), tAt, _, _, _, _, _, _, rfl, rfl, rfl, by decide +kernel, by decide +kernel, fun h => absurd h (by decide +kernel), by decide +kernel, by decide +kernel, by decide +kernel, by decide +kernel, by decide +kernel, by decide +kernel, by decide +kernel, rfl, by first | decide +kernel | exact rfl | exact ⟨rfl, rfl, rfl, by decide⟩ | (unfold Block.noneWaits; decide +kernel) | (intro x h; cases h; done)⟩,
    ⟨tS (tBlendB 1#32 (tBlend tSh []) [] [0, 1]), tAt, _, _, _, _, rfl, rfl, rfl, by decide +kernel, by decide +kernel, fun _ => by decide +kernel, by and_intros <;> decide +kernel⟩⟩

/-- States and operands that meet the hypotheses of SplatPacks, clause by clause. -/
theorem witness_SplatPacks :
    (∃ (s : State), ∃ (a : StRef), ∃ (n j : Nat), ∃ (r : Run), ∃ (st : Station), ∃ (x : Active), ∃ (t : Tile), ∃ (m : Kv Nat Nat), ∃ (ed : Edge), ∃ (c : List Byte × Bool), s.b.working a n = some (r, st, x) ∧ st.body = .pack m ∧ x.tile 0 = some t ∧ packReverse st.params = false ∧ st.turn n = true ∧ st.outbox = [] ∧ t.rows = 16 ∧ t.cols = 64 ∧ m.getD n 0 ≤ 3 ∧ c = codeBlock (blockWords t.data (m.getD n 0)) ∧ r.outEdge a.station 0 = some (j, ed) ∧ s.b.canPush (stRun a) j ed) ∧
    (∃ (s : State), ∃ (a : StRef), ∃ (n j : Nat), ∃ (r : Run), ∃ (st : Station), ∃ (x : Active), ∃ (m : Kv Nat Nat), ∃ (ed : Edge), ∃ (t0 t1 t2 t3 : Tile), ∃ p0, ∃ p1, ∃ p2, ∃ p3, s.b.working a n = some (r, st, x) ∧ st.body = .pack m ∧ packReverse st.params = true ∧ st.turn n = true ∧ st.outbox = [] ∧ x.tile 0 = some t0 ∧ x.tile 1 = some t1 ∧ x.tile 2 = some t2 ∧ x.tile 3 = some t3 ∧ decodeBlock t0 = some p0 ∧ decodeBlock t1 = some p1 ∧ decodeBlock t2 = some p2 ∧ decodeBlock t3 = some p3 ∧ r.outEdge a.station 0 = some (j, ed) ∧ s.b.canPush (stRun a) j ed) ∧
    (∃ (s : State), ∃ (a : StRef), ∃ (n : Nat), ∃ (r : Run), ∃ (st : Station), ∃ (x : Active), ∃ (m : Kv Nat Nat), ∃ (t0 t1 t2 t3 : Tile), s.b.working a n = some (r, st, x) ∧ st.body = .pack m ∧ packReverse st.params = true ∧ st.turn n = true ∧ st.outbox = [] ∧ x.tile 0 = some t0 ∧ x.tile 1 = some t1 ∧ x.tile 2 = some t2 ∧ x.tile 3 = some t3 ∧ decodeBlock t0 = none) ∧
    (∃ (px : List (List Word)), ∃ (t : Tile), px.length = 64 ∧ (∀ p ∈ px, p.length = 4) ∧ t.data = (codeBlock px).1 ∧ t.rows = 1 ∧ t.cols = (codeBlock px).1.length) :=
  ⟨⟨tS (tPack 0#32 [(0, tTile 1 16 64 1024)]), tAt, 0, _, _, _, _, _, _, _, _, rfl, rfl, rfl, by decide +kernel, by decide +kernel, by decide +kernel, by decide +kernel, by decide +kernel, by decide +kernel, rfl, rfl, by first | decide +kernel | exact rfl | exact ⟨rfl, rfl, rfl, by decide⟩ | (unfold Block.noneWaits; decide +kernel) | (intro x h; cases h; done)⟩,
    ⟨tS (tPack 1#32 [(0, tRaw), (1, tRaw), (2, tRaw), (3, tRaw)]), tAt, 0, _, _, _, _, _, _, _, _, _, _, _, _, _, _, rfl, rfl, by decide +kernel, by decide +kernel, by decide +kernel, rfl, rfl, rfl, rfl, rfl, rfl, rfl, rfl, rfl, by first | decide +kernel | exact rfl | exact ⟨rfl, rfl, rfl, by decide⟩ | (unfold Block.noneWaits; decide +kernel) | (intro x h; cases h; done)⟩,
    ⟨tS (tPack 1#32 [(0, tTile 0 1 64 64), (1, tRaw), (2, tRaw), (3, tRaw)]), tAt, 0, _, _, _, _, _, _, _, _, rfl, rfl, by decide +kernel, by decide +kernel, by decide +kernel, rfl, rfl, rfl, rfl, by decide +kernel⟩,
    ⟨List.replicate 64 (List.replicate 4 0#32), { tTile 0 1 (codeBlock (List.replicate 64 (List.replicate 4 0#32))).1.length 0 with data := (codeBlock (List.replicate 64 (List.replicate 4 0#32))).1 }, by and_intros <;> decide +kernel⟩⟩

/-- States and operands that meet the hypotheses of ScreenTests, clause by clause. -/
theorem witness_ScreenTests :
    (∃ (s : State), ∃ (g t0 : Nat), s.b.group g = some (.admitted t0) ∧ s.b.groupsRun = true ∧ s.b.groupLoose g = true) ∧
    (∃ (s : State), ∃ (g t0 : Nat), s.b.group g = some (.running t0) ∧ s.b.blockTest = none ∧ s.b.start.state ≠ .stopped ∧ g % 32 ≠ 4 ∧ g % 32 ≠ 5 ∧ s.b.now < t0 + groupCycles (g % 32)) ∧
    (∃ (s : State), ∃ (g t0 : Nat), s.b.group g = some (.running t0) ∧ s.b.blockTest = none ∧ s.b.start.state ≠ .stopped ∧ g % 32 ≠ 4 ∧ g % 32 ≠ 5 ∧ t0 + groupCycles (g % 32) ≤ s.b.now) ∧
    (∃ (s : State), ∃ (g t0 : Nat), ∃ (x : Finding), s.b.group g = some (.running t0) ∧ s.b.blockTest = none ∧ s.b.start.state ≠ .stopped ∧ g % 32 ≠ 4 ∧ g % 32 ≠ 5 ∧ t0 + groupCycles (g % 32) ≤ s.b.now ∧ x.unit % 8 = g / 32 ∧ (groupUnits (g / 32) (g % 32)).contains (x.unit / 8 % 32, x.unit / 256 % 256) = true ∧ s.b.screen.records.length < 4096 ∧ x.unit / 8 % 32 ≠ 17) ∧
    (∃ (s : State), ∃ (u : Nat), s.b.start.state = .opened ∧ s.b.screen.rotPause = false ∧ s.b.cmdPauses = false ∧ s.b.screen.rot = .idle ∧ s.b.screen.rotAt + 2000000 ≤ s.b.now ∧ s.b.screen.unitNext = none ∧ s.b.rotFrom s.b.screen.rotNext = some u) ∧
    (∃ (s : State), ∃ (u : Nat), s.b.start.state = .opened ∧ s.b.screen.rotPause = false ∧ s.b.cmdPauses = false ∧ s.b.screen.rot = .idle ∧ s.b.screen.rotAt + 2000000 ≤ s.b.now ∧ s.b.screen.unitNext = some u) ∧
    (∃ (s : State), ∃ (u t0 : Nat), s.b.screen.rot = .waiting u t0 ∧ s.b.unitDrained u = true ∧ s.b.cal.ramp = none ∧ s.b.cal.withheld = 0 ∧ u / 8 % 32 < 7) ∧
    (∃ (s : State), ∃ (u t0 : Nat), s.b.screen.rot = .waiting u t0 ∧ s.b.now < t0 + 2000000) ∧
    (∃ (s : State), ∃ (u t0 : Nat), s.b.screen.rot = .waiting u t0 ∧ t0 + 2000000 ≤ s.b.now ∧ s.b.screen.cmd ≠ .unit u) ∧
    (∃ (s : State), ∃ (u t0 : Nat), s.b.screen.rot = .running u t0 ∧ t0 + rotCycles (u / 8 % 32) ≤ s.b.now ∧ s.b.start.state ≠ .stopped ∧ s.b.screen.cmd = .none ∧ u / 8 % 32 < 7) ∧
    (∃ (s : State), ∃ (u t0 : Nat), ∃ (x : Finding), s.b.screen.rot = .running u t0 ∧ t0 + rotCycles (u / 8 % 32) ≤ s.b.now ∧ s.b.start.state ≠ .stopped ∧ s.b.screen.cmd = .none ∧ u / 8 % 32 < 7 ∧ x.unit = u ∧ x.kind ≠ 0 ∧ s.b.screen.records.length < 4096) ∧
    (∃ (s : State), ∃ (key : BitVec 16), ∃ c, s.b.pins.pwrGood = true ∧ key ≠ 0x4B4C#16 ∧ c ∈ [Instr.unit key, .eave key, .block key, .blockD key, .rotPause key, .rotResume key]) ∧
    (∃ (s : State), s.b.pins.pwrGood = true ∧ s.b.screen.cmd = .none ∧ s.b.start.qTests = false) ∧
    (∃ (s : State), ∃ f, ∃ c, ∃ i, s.b.pins.pwrGood = true ∧ s.b.screen.cmd = .none ∧ s.b.start.qTests = false ∧ s.b.argUnit = some (f, c, i) ∧ c < 7 ∧ s.b.start.state = .opened) ∧
    (∃ (s : State), ∃ f, ∃ c, ∃ i, s.b.pins.pwrGood = true ∧ s.b.screen.cmd = .none ∧ s.b.start.qTests = false ∧ s.b.argUnit = some (f, c, i) ∧ c ≠ 7 ∧ c ≠ 8 ∧ c ≠ 0 ∧ s.b.start.state = .maintenance ∧ s.b.screen.rot = .idle) ∧
    (∃ (s : State), ∃ f, ∃ i, s.b.pins.pwrGood = true ∧ s.b.screen.cmd = .none ∧ s.b.start.qTests = false ∧ s.b.argUnit = some (f, 8, i) ∧ (s.b.eave (3 * f + i)).resetN = true ∧ (s.b.start.state = .opened ∨ s.b.start.state = .maintenance)) ∧
    (∃ (s : State), s.b.pins.pwrGood = true ∧ s.b.screen.cmd = .none ∧ s.b.start.qTests = false ∧ (s.b.start.state = .maintenance ∨ s.b.start.state = .quarantine) ∧ s.b.screen.rot = .idle) :=
  ⟨⟨tS { tStart (fun x => { x with state := .starting, phase := 4 }) with screen := { Screen.reset with groups := [(227, .admitted 0)] }, cal := { tB.cal with steps := [{ kind := .group 227, declared := 5, field := 7, phase := .loop 0, shed := 0 }] } }, 227, _, rfl, by and_intros <;> decide +kernel⟩,
    ⟨tS (tScr (fun x => { x with groups := [(227, .running 999000000)] })), 227, _, rfl, by and_intros <;> decide +kernel⟩,
    ⟨tS (tScr (fun x => { x with groups := [(227, .running 998000000)] })), 227, _, rfl, by and_intros <;> decide +kernel⟩,
    ⟨tS (tScr (fun x => { x with groups := [(227, .running 998000000)] })), 227, _, { unit := 7 + 8 * 8 + 512, kind := 1, array := 2, v1 := 3#32, v2 := 4, v3 := 5, plane := 0 }, rfl, by and_intros <;> decide +kernel⟩,
    ⟨tS tB, _, by decide +kernel, by decide +kernel, by decide +kernel, by decide +kernel, by decide +kernel, by decide +kernel, rfl⟩,
    ⟨tS (tScr (fun x => { x with unitNext := some 7 })), _, by decide +kernel, by decide +kernel, by decide +kernel, by decide +kernel, by decide +kernel, rfl⟩,
    ⟨tS (tScr (fun x => { x with rot := .waiting 7 0 })), _, _, rfl, by and_intros <;> decide +kernel⟩,
    ⟨tS (tScr (fun x => { x with rot := .waiting 7 998000001 })), _, _, rfl, by decide +kernel⟩,
    ⟨tS (tScr (fun x => { x with rot := .waiting 7 998000000 })), _, _, rfl, by and_intros <;> decide +kernel⟩,
    ⟨tS (tScr (fun x => { x with rot := .running 7 0 })), _, _, rfl, by and_intros <;> decide +kernel⟩,
    ⟨tS (tScr (fun x => { x with rot := .running 7 0 })), _, _, { unit := 7, kind := 1, array := 2, v1 := 3#32, v2 := 4, v3 := 5, plane := 0 }, rfl, by and_intros <;> decide +kernel⟩,
    ⟨tS tB, 0#16, .rotResume 0#16, by and_intros <;> decide +kernel⟩,
    ⟨tS tB, by and_intros <;> decide +kernel⟩,
    ⟨tS (tScr (fun x => { x with cmdArg := 7#32 })), _, _, _, by decide +kernel, by decide +kernel, by decide +kernel, rfl, by and_intros <;> decide +kernel⟩,
    ⟨tS { tStart (fun x => { x with state := .maintenance }) with screen := { Screen.reset with cmdArg := 15#32 } }, _, _, _, by decide +kernel, by decide +kernel, by decide +kernel, rfl, by and_intros <;> decide +kernel⟩,
    ⟨tS (tScr (fun x => { x with cmdArg := BitVec.ofNat 32 (7 + 8 * 8 + 512) })), _, _, by decide +kernel, by decide +kernel, by decide +kernel, rfl, by and_intros <;> decide +kernel⟩,
    ⟨tS (tStart (fun x => { x with state := .quarantine })), by and_intros <;> decide +kernel⟩⟩

end Sys2Proof.Tests
end

section
/-! SUPPORT. Runs, stations and edges under the updates of a block: what `modRun`, `modSt` and `modEdge` make of each, and what they leave. -/
namespace Sys2Proof.StationsAndRuns
open Sys2Proof.Machine

/-! ## Lists -/

/-- The element at an index after one of them has changed. -/
theorem getElem?_modAt {α : Type} (l : List α) (n m : Nat) (f : α → α) :
    (modAt l n f)[m]? = l[m]?.map (fun x => if n = m then f x else x) := by
  induction l generalizing n m with
  | nil => rfl
  | cons x l ih => cases n <;> cases m <;> simp [modAt, ih]

theorem getElem?_modAt_self {α : Type} (l : List α) (n : Nat) (f : α → α) : (modAt l n f)[n]? = l[n]?.map f := by
  simp [getElem?_modAt]

/-- Two changes of one element are one change. -/
theorem modAt_modAt {α : Type} (l : List α) (n : Nat) (f g : α → α) : modAt (modAt l n f) n g = modAt l n (fun x => g (f x)) := by
  induction l generalizing n with
  | nil => rfl
  | cons x l ih => cases n <;> simp [modAt, ih]

/-- What a change does not touch reads the same all along the list. -/
theorem map_modAt {α β : Type} (l : List α) (n : Nat) (f : α → α) (g : α → β) (h : ∀ x, g (f x) = g x) : (modAt l n f).map g = l.map g := by
  induction l generalizing n with
  | nil => rfl
  | cons x l ih => cases n <;> simp [modAt, ih, h]

/-! ## Runs -/

/-- A run that has been found has the reference that was looked for. -/
theorem findRun_ref {b : Block} {r : RunRef} {x : Run} (h : b.findRun r = some x) : x.ref = r := by
  simpa using List.find?_some h

/-- A change of one run that keeps its reference, as every look-up sees it. -/
theorem findRun_modRun (b : Block) (r q : RunRef) (f : Run → Run) (hf : ∀ x, x.ref = r → (f x).ref = r) :
    (b.modRun r f).findRun q = (b.findRun q).map (fun x => if x.ref = r then f x else x) := by
  have hp : ((fun x : Run => decide (x.ref = q)) ∘ fun x => if x.ref = r then f x else x) = fun x => decide (x.ref = q) := by
    funext x
    by_cases hx : x.ref = r <;> simp [hx, hf]
  unfold Block.findRun Block.modRun
  rw [List.find?_map, hp]

theorem findRun_modRun_self (b : Block) (r : RunRef) (f : Run → Run) (hf : ∀ x, x.ref = r → (f x).ref = r) :
    (b.modRun r f).findRun r = (b.findRun r).map f := by
  rw [findRun_modRun b r r f hf]
  cases h : b.findRun r with
  | none => rfl
  | some x => simp [findRun_ref h]

/-- The run that is found after it has changed. -/
theorem findRun_modRun_of {b : Block} {r : RunRef} {x : Run} {f : Run → Run} (h : b.findRun r = some x) (hf : ∀ x, x.ref = r → (f x).ref = r) :
    (b.modRun r f).findRun r = some (f x) := by
  rw [findRun_modRun_self b r f hf, h, Option.map_some]

theorem findRun_modRun_ne (b : Block) {r q : RunRef} (f : Run → Run) (hf : ∀ x, x.ref = r → (f x).ref = r) (hq : q ≠ r) :
    (b.modRun r f).findRun q = b.findRun q := by
  rw [findRun_modRun b r q f hf]
  cases h : b.findRun q with
  | none => rfl
  | some x => simp [findRun_ref h, hq]

/-- Two changes of one run are one change. -/
theorem modRun_modRun (b : Block) (r : RunRef) (f g : Run → Run) (hf : ∀ x, x.ref = r → (f x).ref = r) :
    (b.modRun r f).modRun r g = b.modRun r (fun x => g (f x)) := by
  have h : ((fun x : Run => if x.ref = r then g x else x) ∘ fun x => if x.ref = r then f x else x) = fun x => if x.ref = r then g (f x) else x := by
    funext x
    by_cases hx : x.ref = r <;> simp [hx, hf]
  simp [Block.modRun, h]

/-- Blocks with the same runs find the same runs. -/
theorem findRun_congr {b c : Block} (h : c.runs = b.runs) (r : RunRef) : c.findRun r = b.findRun r := by simp [Block.findRun, h]

theorem stAt_congr {b c : Block} (h : c.runs = b.runs) (a : StRef) : c.stAt a = b.stAt a := by simp [Block.stAt, findRun_congr h]

/-- A run that is alone is the one that is found. -/
theorem findRun_single {b : Block} {r : Run} {q : RunRef} (h : b.runs = [r]) (hq : r.ref = q) : b.findRun q = some r := by
  simp [Block.findRun, h, hq]

/-! ## Stations and edges -/

/-- The station of a run that is found. -/
theorem stAt_eq {b : Block} {a : StRef} {r : Run} (h : b.findRun (stRun a) = some r) : b.stAt a = r.stations[a.station]? := by
  simp [Block.stAt, h]

/-- A station that works is in a launched run that is not killed. -/
theorem live_eq_some {b : Block} {a : StRef} {r : Run} {s : Station} : b.live a = some (r, s) ↔
    b.findRun (stRun a) = some r ∧ r.stations[a.station]? = some s ∧ r.killed = none ∧ r.phase = .active s.entry.stage ∧ s.finished = false := by
  unfold Block.live
  constructor
  · intro h
    split at h
    · cases h
    · next x hx =>
      split at h
      · cases h
      · next z hz =>
        split at h
        · next hc =>
          cases h
          simp only [Bool.and_eq_true, Option.isNone_iff_eq_none, decide_eq_true_eq, Bool.not_eq_true'] at hc
          exact ⟨hx, hz, hc.1.1, hc.1.2, hc.2⟩
        · cases h
  · rintro ⟨hr, hs, hk, hp, hf⟩
    simp [hr, hs, hk, hp, hf]

theorem live_stAt {b : Block} {a : StRef} {r : Run} {s : Station} (h : b.live a = some (r, s)) : b.stAt a = some s := by
  obtain ⟨hr, hs, -⟩ := live_eq_some.mp h
  rw [stAt_eq hr, hs]

/-- A change of one station, as every look-up of a station sees it. -/
theorem stAt_modSt (b : Block) (a c : StRef) (f : Station → Station) : (b.modSt a f).stAt c = (b.stAt c).map (fun s => if c = a then f s else s) := by
  unfold Block.stAt Block.modSt
  rw [findRun_modRun b _ _ (fun r => r.modSt a.station f) (fun _ h => h)]
  cases h : b.findRun (stRun c) with
  | none => rfl
  | some x =>
    have hx := findRun_ref h
    by_cases hr : stRun c = stRun a
    · have hc : a.station = c.station ↔ c = a := by
        cases a; cases c
        simp only [stRun, RunRef.mk.injEq] at hr
        simp [hr, eq_comm]
      simp [hx, hr, Run.modSt, getElem?_modAt, hc]
    · have hc : c ≠ a := fun e => hr (e ▸ rfl)
      simp [hx, hr, hc]

theorem stAt_modSt_self (b : Block) (a : StRef) (f : Station → Station) : (b.modSt a f).stAt a = (b.stAt a).map f := by
  simp [stAt_modSt]

/-- A change of a run that leaves its stations leaves every station. -/
theorem stAt_modRun (b : Block) (r : RunRef) (f : Run → Run) (hf : ∀ x, x.ref = r → (f x).ref = r) (hs : ∀ x, (f x).stations = x.stations) (a : StRef) :
    (b.modRun r f).stAt a = b.stAt a := by
  unfold Block.stAt
  rw [findRun_modRun b _ _ _ hf]
  cases h : b.findRun (stRun a) with
  | none => rfl
  | some x => by_cases hx : x.ref = r <;> simp [hx, hs]

theorem stAt_modEdge (b : Block) (r : RunRef) (j : Nat) (f : Edge → Edge) (a : StRef) : (b.modEdge r j f).stAt a = b.stAt a :=
  stAt_modRun b r (fun x => { x with edges := modAt x.edges j f }) (fun _ h => h) (fun _ => rfl) a

theorem findRun_modSt_of {b : Block} {a : StRef} {r : Run} (f : Station → Station) (h : b.findRun (stRun a) = some r) :
    (b.modSt a f).findRun (stRun a) = some (r.modSt a.station f) :=
  findRun_modRun_of h (fun _ h => h)

/-- An item whose unit works on it is one of a station that works, and is not done. -/
theorem working_eq_some {b : Block} {a : StRef} {n : Nat} {r : Run} {s : Station} {x : Active} (h : b.working a n = some (r, s, x)) :
    b.live a = some (r, s) ∧ s.item n = some x ∧ x.done = false := by
  unfold Block.working at h
  split at h
  · next r' s' hl =>
    split at h
    · next y hy =>
      split at h
      · cases h
      · next hd => cases h; exact ⟨hl, hy, by simpa using hd⟩
    · cases h
  · cases h

/-- The edge that leaves a port is the run's edge of its index. -/
theorem outEdge_getElem? {r : Run} {i port j : Nat} {e : Edge} (h : r.outEdge i port = some (j, e)) : r.edges[j]? = some e := by
  obtain ⟨n, -, hn⟩ := Option.bind_eq_some_iff.mp h
  obtain ⟨x, hx, he⟩ := Option.map_eq_some_iff.mp hn
  cases he
  exact hx

/-- The edge that reaches a port is the run's edge of its index. -/
theorem inEdge_getElem? {r : Run} {i port j : Nat} {e : Edge} (h : r.inEdge i port = some (j, e)) : r.edges[j]? = some e := by
  obtain ⟨n, -, hn⟩ := Option.bind_eq_some_iff.mp h
  obtain ⟨x, hx, he⟩ := Option.map_eq_some_iff.mp hn
  cases he
  exact hx

/-! ## Counters -/

/-- Every counter after one of them has counted. -/
theorem ctr_bump (b : Block) (a n c : Nat) : (b.bump a n).ctr c = if a = c then b.ctr c + BitVec.ofNat 32 n else b.ctr c := by
  by_cases h : a = c
  · subst h; simp
  · rw [if_neg h, Block.ctr_bump_ne b n h]

/-! ## Memory -/

/-- A command completes with what holds of its effect, once memory is in canonical form. -/
theorem completes_of_lift {c : Instr} {s : State} {f : Block → Block} {post : Block → Prop} (hc : exec c s = lift s f) (h : post (f s.b).canonMem) :
    completes c s post := by
  unfold completes
  rw [hc]
  exact lift_post s f post h

/-- Without errors met, an access is its effect. -/
theorem meeting_nil (b : Block) (t : Nat) (f : Block → Block) : b.meeting t [] f = f b := by simp [Block.meeting]

end Sys2Proof.StationsAndRuns
end

section
/-! SUPPORT. A tile that a station emits while its ring has room (R182, R183), and what the Sizing registers count (R221). -/
namespace Sys2Proof.StationsAndRuns
open Sys2Proof.Machine

/-- The Gutter that a tenant has left depends on a run through its Gutter pages alone. -/
theorem gutterFree_modRun (b : Block) (r : RunRef) (f : Run → Run) (t : Nat) (hf : ∀ x, x.ref = r → (f x).ref = r)
    (hg : ∀ x l, (f x).gutter l = x.gutter l) : (b.modRun r f).gutterFree t = b.gutterFree t := by
  have h : ((b.modRun r f).runs.filter (fun x => decide (x.ref.tenant = t))).map (fun x => x.gutter b.ridge.items) =
      (b.runs.filter (fun x => decide (x.ref.tenant = t))).map (fun x => x.gutter b.ridge.items) := by
    rw [Block.modRun_runs]
    induction b.runs with
    | nil => rfl
    | cons x l ih =>
      have hr : (if x.ref = r then f x else x).ref = x.ref := by split <;> simp_all
      have hx : (if x.ref = r then f x else x).gutter b.ridge.items = x.gutter b.ridge.items := by split <;> simp [hg]
      by_cases ht : x.ref.tenant = t <;> simp [hr, hx, ht, ih]
  show b.gutterSize t - (b.modRun r f).gutterUsed t = b.gutterSize t - b.gutterUsed t
  unfold Block.gutterUsed
  rw [Block.modRun_ridge, Block.modRun_streams, h]

/-- Neither a station's outbox nor a run's flags take Gutter. -/
theorem gutter_outbox (x : Run) (i : Nat) (f : Station → Station) (v w : Bool) (l : List Item) (hf : ∀ s, (f s).body = s.body) :
    ({ x with ovf := v, unf := w, stations := modAt x.stations i f } : Run).gutter l = x.gutter l := by
  simp [Run.gutter, map_modAt x.stations i f (fun s => s.body.pages) (fun s => by rw [hf])]

/-- What a tile emitted into the ring of edge `j` makes of the run: its flags collect, the outbox of the station is empty, and the ring has the tile. -/
def emitRun (a : StRef) (j : Nat) (t : Tile) (x : Run) : Run :=
  { x with ovf := x.ovf || t.ovf, unf := x.unf || t.unf, stations := modAt x.stations a.station (fun s => { s with outbox := [] }),
           edges := modAt x.edges j (fun e => e.plus t) }

/-- Changes that agree on the element at an index give the same list. -/
theorem modAt_congr {α : Type} {l : List α} {n : Nat} {x : α} {f g : α → α} (h : l[n]? = some x) (hx : f x = g x) : modAt l n f = modAt l n g := by
  induction l generalizing n with
  | nil => rfl
  | cons y l ih =>
    cases n with
    | zero => cases h; simp [modAt, hx]
    | succ n => simpa [modAt] using ih (by simpa using h)

/-- An edge with a tile, as it stands, in its ring under the next number. -/
def ringPush (t : Tile) (e : Edge) : Edge := { e with tiles := e.tiles ++ [{ t with no := e.emitted }], emitted := e.emitted + 1, closed := e.closed || t.last }

/-- A tile goes into a ring that can take it. -/
theorem pushEdge_of_canPush {b : Block} {r : RunRef} {j : Nat} {e : Edge} (t : Tile) (h : b.canPush r j e) :
    b.pushEdge r j t = some ((b.modEdge r j (ringPush t)).bump (Map.rdgQc e.queue) 1) := by
  obtain ⟨hedge, hroom, hheld, hgut⟩ := h
  have hedge : (b.findRun r).bind (fun x => x.edges[j]?) = some e := hedge
  simp only [Block.pushEdge, hedge, hroom, hheld, Nat.not_lt.mpr hgut]
  rfl

/-- A change that leaves a run's edges and Gutter leaves the room of its rings. -/
theorem canPush_modRun {b : Block} {r : RunRef} {j : Nat} {e : Edge} (f : Run → Run) (hf : ∀ x, x.ref = r → (f x).ref = r) (hg : ∀ x l, (f x).gutter l = x.gutter l)
    (he : ∀ x, (f x).edges = x.edges) (h : b.canPush r j e) : (b.modRun r f).canPush r j e := by
  obtain ⟨hedge, hroom, hheld, hgut⟩ := h
  refine ⟨?_, hroom, hheld, by rwa [gutterFree_modRun b r f r.tenant hf hg]⟩
  unfold Block.edgeAt at hedge ⊢
  rw [findRun_modRun_self b r f hf]
  cases hr : b.findRun r with
  | none => simp [hr] at hedge
  | some x => simpa [hr, he] using hedge

/-- The run of a station as it emits a tile, before the tile flows. -/
def emitting (a : StRef) (port : Nat) (t : Tile) (x : Run) : Run :=
  { x with ovf := x.ovf || t.ovf, unf := x.unf || t.unf, stations := modAt x.stations a.station (fun s => { s with outbox := s.outbox ++ [(port, t)] }) }

/-- A tile that a station emits takes the format of its edge, and then flows. -/
theorem emit_eq_flushOut {b : Block} {a : StRef} {port : Nat} {t : Tile} {r : Run} {e : EdgeEntry} (hr : b.findRun (stRun a) = some r) (he : r.outShape a.station port = some e) :
    b.emit a port t = (b.modRun (stRun a) (emitting a port { t with fmt := e.fmt })).flushOut a := by
  simp only [Block.emit, hr, Option.bind_some, he, Option.elim_some, Block.modSt]
  rw [modRun_modRun]
  · rfl
  · exact fun _ h => h

/-- The only tile of an outbox flows into a ring that can take it. -/
theorem flushOut_one {b : Block} {a : StRef} {port j : Nat} {t : Tile} {r : Run} {s : Station} {e : Edge} (hr : b.findRun (stRun a) = some r)
    (hs : r.stations[a.station]? = some s) (ho : s.outbox = [(port, t)]) (he : r.outEdge a.station port = some (j, e)) (hp : b.canPush (stRun a) j e) :
    b.flushOut a = ((b.modEdge (stRun a) j (ringPush t)).bump (Map.rdgQc e.queue) 1).modSt a (fun z => { z with outbox := [] }) := by
  simp [Block.flushOut, hr, hs, ho, Block.flushTiles, he, pushEdge_of_canPush t hp]

/-- A station with nothing waiting, whose ring has room, emits a tile into the ring. -/
theorem emit_into_ring {b : Block} {a : StRef} {port j : Nat} (t : Tile) {r : Run} {s : Station} {e : Edge} (hr : b.findRun (stRun a) = some r)
    (hs : r.stations[a.station]? = some s) (ho : s.outbox = []) (he : r.outEdge a.station port = some (j, e)) (hp : b.canPush (stRun a) j e) :
    ∃ f : Run → Run, (∀ x, x.ref = stRun a → (f x).ref = stRun a) ∧ f r = emitRun a j t r ∧
      b.emit a port t = (b.modRun (stRun a) f).bump (Map.rdgQc e.queue) 1 := by
  have hflush := flushOut_one (b := b.modRun (stRun a) (emitting a port { t with fmt := e.entry.fmt })) (r := emitting a port { t with fmt := e.entry.fmt } r)
    (findRun_modRun_of hr (fun _ h => h)) (by simp [emitting, getElem?_modAt_self, hs]; rfl) (by simp [ho]; rfl) he
    (canPush_modRun _ (fun _ h => h) (fun x l => gutter_outbox x a.station _ _ _ l (fun _ => rfl)) (fun _ => rfl) hp)
  refine ⟨fun x => { emitRun a j t x with edges := modAt x.edges j (ringPush { t with fmt := e.entry.fmt }) }, fun _ h => h, ?_, ?_⟩
  · have hedges : modAt r.edges j (ringPush { t with fmt := e.entry.fmt }) = modAt r.edges j (fun y => y.plus t) := modAt_congr (outEdge_getElem? he) rfl
    simp [emitRun, hedges]
  · rw [emit_eq_flushOut (e := e.entry) hr (by simp [Run.outShape, he]), hflush]
    show Block.bump (Block.modRun (Block.modRun (Block.modRun b _ _) _ _) _ _) _ _ = _
    rw [modRun_modRun, modRun_modRun]
    · simp [emitRun, emitting, Run.modSt, modAt_modAt]
    all_goals exact fun _ h => h

/-! ## Sizing registers -/

/-- The Sizing registers of a field lie below every queue's counter. -/
theorem rdgQc_ne_siz {f k : Nat} (hf : f < 8) (hk : k ≤ 0x14) (q : Nat) : Map.rdgQc q ≠ Map.sizBase f + k := by
  simp only [Map.rdgQc, Map.rdgBase, Map.sizBase, Map.fieldBase]
  omega

/-- Counting a tile in the Sizing registers changes counters alone, those of the tile and of its overflows and underflows so (R221). -/
theorem countSizing_eq (b : Block) (f : Nat) (y : Tally) : ∃ cs, b.countSizing f y = { b with ctrs := cs } ∧
    ({ b with ctrs := cs } : Block).ctr (Map.sizTileCnt f) = b.ctr (Map.sizTileCnt f) + 1#32 ∧
    ({ b with ctrs := cs } : Block).ctr (Map.sizOvfCnt f) = b.ctr (Map.sizOvfCnt f) + BitVec.ofNat 32 y.ovf ∧
    ({ b with ctrs := cs } : Block).ctr (Map.sizUnfCnt f) = b.ctr (Map.sizUnfCnt f) + BitVec.ofNat 32 y.unf := by
  have heq : ∃ cs, b.countSizing f y = { b with ctrs := cs } := by
    simp only [Block.countSizing, Block.countElems, Block.bump]
    exact ⟨_, rfl⟩
  obtain ⟨cs, hcs⟩ := heq
  refine ⟨cs, hcs, ?_, ?_, ?_⟩ <;> rw [← hcs] <;>
    simp [Block.countSizing, Block.countElems, ctr_bump, Map.sizTileCnt, Map.sizOvfCnt, Map.sizUnfCnt, Map.sizNanCnt, Map.sizClampCnt, Map.sizSrCnt]

end Sys2Proof.StationsAndRuns
end

section
/-! SUPPORT. O41: a SIZE unit converts its tile and emits it. -/
namespace Sys2Proof.StationsAndRuns
open Sys2Proof.Machine

/-- The tile that a SIZE station emits for a tile (R219). -/
def sizedTile (r : Run) (i z : Nat) (t : Tile) : Tile := { (convertTile r.seed i z t).1 with flags := 0 }

/-- What SIZING_TILE does with a tile whose turn it is, where the station has nothing waiting (R219). -/
def sizeTile (b : Block) (a : StRef) (n : Nat) (r : Run) (x : Active) (t : Tile) (z : Nat) : Block :=
  ((b.countSizing x.field (convertTile r.seed a.station z t).2).emit a 0 (sizedTile r a.station z t)).itemDone a n

theorem exec_sizingTile {s : State} {a : StRef} {n j : Nat} {r : Run} {st : Station} {x : Active} {t : Tile} {ed : Edge} (hw : s.b.working a n = some (r, st, x))
    (hty : st.entry.type = .size) (ht : x.tile 0 = some t) (he : r.outEdge a.station 0 = some (j, ed)) (ho : st.outbox = []) (hturn : st.turn n = true) :
    exec (.sizingTile a n) s = lift s (fun _ => sizeTile s.b a n r x t ed.entry.fmt) := by
  have hshape : r.outShape a.station 0 = some ed.entry := by simp [Run.outShape, he]
  show execSizingTile a n s = _
  simp [execSizingTile, lift, hw, hty, ht, hshape, Station.ready, ho, hturn, sizeTile, sizedTile]

/-- The run of a station one of whose items is done. -/
def doneRun (a : StRef) (n : Nat) (r : Run) : Run := r.modSt a.station (fun z => { z with active := workDone z.active n })

/-- The run of a SIZE station once a tile is in its ring and the item's work is done. -/
def sizedRun (a : StRef) (n j : Nat) (t : Tile) (r : Run) : Run := doneRun a n (emitRun a j t r)

/-- An item done, of a run that has changed. -/
theorem itemDone_modRun (b : Block) (a : StRef) (n q k : Nat) (g : Run → Run) (hg : ∀ x, x.ref = stRun a → (g x).ref = stRun a) :
    ((b.modRun (stRun a) g).bump q k).itemDone a n = (b.modRun (stRun a) (fun x => doneRun a n (g x))).bump q k := by
  rw [← modRun_modRun b (stRun a) g (doneRun a n) hg]
  rfl

/-- A tile emitted into a ring with room, and its item done. -/
theorem emit_itemDone {b : Block} {a : StRef} {n port j : Nat} (t : Tile) {r : Run} {s : Station} {e : Edge} (hr : b.findRun (stRun a) = some r)
    (hs : r.stations[a.station]? = some s) (ho : s.outbox = []) (he : r.outEdge a.station port = some (j, e)) (hp : b.canPush (stRun a) j e) :
    ∃ f : Run → Run, (∀ x, x.ref = stRun a → (f x).ref = stRun a) ∧ f r = sizedRun a n j t r ∧
      (b.emit a port t).itemDone a n = (b.modRun (stRun a) f).bump (Map.rdgQc e.queue) 1 := by
  obtain ⟨g, hg, hgr, hemit⟩ := emit_into_ring t hr hs ho he hp
  exact ⟨fun y => doneRun a n (g y), hg, congrArg (doneRun a n) hgr, by rw [hemit, itemDone_modRun b a n _ _ g hg]⟩

/-- The station of that run: nothing waits, and its item's work is done. -/
theorem sizedRun_station {a : StRef} {n j : Nat} {t : Tile} {r : Run} {s : Station} (hs : r.stations[a.station]? = some s) (ho : s.outbox = []) :
    (sizedRun a n j t r).stations[a.station]? = some { s with active := workDone s.active n } := by
  simp [sizedRun, doneRun, Run.modSt, emitRun, getElem?_modAt_self, hs, ← ho]

/-- Its ring has the tile. -/
theorem sizedRun_edge {a : StRef} {n j : Nat} {t : Tile} {r : Run} {e : Edge} (h : r.edges[j]? = some e) : (sizedRun a n j t r).edges[j]? = some (e.plus t) := by
  simp [sizedRun, doneRun, Run.modSt, emitRun, getElem?_modAt_self, h]

/-- What a conversion keeps of its tile, and that its flags only collect (R219). -/
theorem convertTile_keeps (seed : DWord) (i z : Nat) (t : Tile) :
    (convertTile seed i z t).1.rows = t.rows ∧ (convertTile seed i z t).1.cols = t.cols ∧ (convertTile seed i z t).1.seq = t.seq ∧
    (convertTile seed i z t).1.last = t.last ∧ (convertTile seed i z t).1.fmt = z ∧
    (t.ovf = true → (convertTile seed i z t).1.ovf = true) ∧ (t.unf = true → (convertTile seed i z t).1.unf = true) := by
  refine ⟨rfl, rfl, rfl, rfl, rfl, fun h => ?_, fun h => ?_⟩ <;> simp [convertTile, h]

/-- A kind without a number format passes its data (R218). -/
theorem convertTile_raw (seed : DWord) (i z : Nat) {t : Tile} (h : fmtOf t.fmt = none) :
    (convertTile seed i z t).1.data = t.data ∧ (convertTile seed i z t).1.ovf = t.ovf ∧ (convertTile seed i z t).1.unf = t.unf := by
  simp [convertTile, convertData, h, Tally.zero]

end Sys2Proof.StationsAndRuns

open Sys2Proof Sys2Proof.Machine Sys2Proof.StationsAndRuns in
/-- Settles O41: the tile emitted goes into a ring with room, and what remains are fields of the conversion. -/
theorem sizingTiles : Obligations.SizingTiles := by
  refine ⟨fun s a n j r st x t ed hw hty ht he hp ho hturn hx => ?_, fun seed station z t => ?_⟩
  · obtain ⟨hl, -, -⟩ := working_eq_some hw
    obtain ⟨hr, hs, -⟩ := live_eq_some.mp hl
    obtain ⟨cs, hcs, htile, hovf, hunf⟩ := countSizing_eq s.b x.field (convertTile r.seed a.station ed.entry.fmt t).2
    obtain ⟨f, hf, hfr, hemit⟩ := emit_itemDone (b := { s.b with ctrs := cs }) (n := n) (sizedTile r a.station ed.entry.fmt t) hr hs ho he hp
    refine completes_of_lift (exec_sizingTile hw hty ht he ho hturn) ?_
    rw [sizeTile, hcs, hemit]
    have hrun : ((({ s.b with ctrs := cs } : Block).modRun (stRun a) f).bump (Map.rdgQc ed.queue) 1).canonMem.findRun (stRun a) = some (f r) :=
      findRun_modRun_of (b := { s.b with ctrs := cs }) hr hf
    rw [hfr] at hrun
    have hctr {k : Nat} (hk : k ≤ 0x14) : ((({ s.b with ctrs := cs } : Block).modRun (stRun a) f).bump (Map.rdgQc ed.queue) 1).canonMem.ctr (Map.sizBase x.field + k) =
        ({ s.b with ctrs := cs } : Block).ctr (Map.sizBase x.field + k) := Block.ctr_bump_ne _ 1 (rdgQc_ne_siz hx hk ed.queue)
    refine ⟨?_, ?_, ?_, ?_, ?_, ?_, ?_, rfl, Block.memKept_canonMem rfl⟩
    · rw [Block.edgeAt, hrun]
      exact sizedRun_edge (outEdge_getElem? he)
    · rw [stAt_eq hrun]
      exact sizedRun_station hs ho
    · rw [hrun]
      simp [sizedRun, doneRun, Run.modSt, emitRun, sizedTile]
    · exact (hctr (k := 0) (by decide)).trans htile
    · exact (hctr (k := 4) (by decide)).trans hovf
    · exact (hctr (k := 8) (by decide)).trans hunf
    · exact fun z hz => findRun_modRun_ne { s.b with ctrs := cs } f hf hz
  · obtain ⟨hrows, hcols, hseq, hlast, hfmt, hov, hun⟩ := convertTile_keeps seed station z t
    exact ⟨hrows, hcols, hseq, hlast, hfmt, hov, hun, convertTile_raw seed station z⟩
end

section
/-! SUPPORT. What the ends of runs share: answers and events leave the counters of runs, a STAGE is noted at its seat (R52), a kill is noted in its run (R189), and what a run had mapped is freed (R187, R460). -/
namespace Sys2Proof.StationsAndRuns
open Sys2Proof.Machine

/-! ## Words -/

theorem wbit_eq_testBit (w : Word) (i : Nat) : wbit w i = w.toNat.testBit i := by
  rw [Nat.testBit_eq_decide_div_mod_eq]
  rfl

/-- A bit that has been set reads as set. -/
theorem wbit_or_two_pow (w : Word) {i : Nat} (hi : i < 32) : wbit (w ||| BitVec.ofNat 32 (2 ^ i)) i = true := by
  have hlt : 2 ^ i < 2 ^ 32 := Nat.pow_lt_pow_right (by decide) hi
  rw [wbit_eq_testBit, BitVec.toNat_or, BitVec.toNat_ofNat, Nat.mod_eq_of_lt hlt, Nat.testBit_or, Nat.testBit_two_pow_self, Bool.or_true]

/-! ## The STAGEs that a seat awaits -/

/-- The cells that leave a seat take no STAGE from those whose answer is awaited (R47). -/
theorem sendCells_stages (n f : Nat) (s : Seat) (o : List Out) (k : Nat) : (Seat.sendCells n f s o k).1.stages = s.stages := by
  induction f generalizing s o k with
  | zero => rfl
  | succ f ih =>
    unfold Seat.sendCells
    split
    · rfl
    · rw [ih]
      unfold Seat.sendCell
      split <;> rfl

/-- A change of a seat that leaves its STAGEs leaves those of every seat. -/
theorem modSeat_stages (b : Block) (n m : Nat) (f : Seat → Seat) (hf : (f (b.seat n)).stages = (b.seat n).stages) :
    ((b.modSeat n f).seat m).stages = (b.seat m).stages := by
  by_cases h : n = m
  · subst h
    by_cases hn : n < b.seats.length
    · rw [Block.seat_modSeat_self b n f hn, hf]
    · have hlen : ¬ n < (modAt b.seats n f).length := by simpa using hn
      simp [Block.seat, Block.modSeat, List.getD_eq_getElem?_getD, List.getElem?_eq_none (Nat.not_lt.mp hn), List.getElem?_eq_none (Nat.not_lt.mp hlen)]
  · rw [Block.seat_modSeat_ne b f h]

/-- Sending on a link takes no STAGE from those awaited. -/
theorem pumpSeat_stages (b : Block) (n m : Nat) : ((b.pumpSeat n).seat m).stages = (b.seat m).stages := by
  simp only [Block.pumpSeat]
  split
  · split
    · exact modSeat_stages b n m _ (sendCells_stages n _ _ _ _)
    · exact modSeat_stages b n m _ (sendCells_stages n _ _ _ _)
  · rfl

theorem seatSend_stages (b : Block) (n m : Nat) (p : SeatOut) : ((b.seatSend n p).seat m).stages = (b.seat m).stages := by
  unfold Block.seatSend
  split
  · rw [pumpSeat_stages, modSeat_stages]
    rfl
  · rfl

/-- Seats stay as many as they are. -/
theorem seatSend_length (b : Block) (n : Nat) (p : SeatOut) : (b.seatSend n p).seats.length = b.seats.length := by
  unfold Block.seatSend Block.pumpSeat
  split
  · simp only []
    split
    · split <;> simp [Block.modSeat]
    · simp [Block.modSeat]
  · rfl

/-- A STAGE of a run that a seat awaits the answer to. -/
def stageWait (r : RunRef) (k now : Nat) : StageWait := { tenant := r.tenant, handle := r.handle, stage := k, armed := now }

/-- All that sending a STAGE can do. -/
theorem sendStage_eq (b : Block) (n : Nat) (r : RunRef) (k : Nat) : ∃ ss cs o, b.sendStage n r k = { b with seats := ss, ctrs := cs, out := o } := by
  simp only [Block.sendStage]
  split
  · exact ⟨_, _, _, rfl⟩
  · exact Block.seatSend_eq (b.modSeat n _) n _

theorem sendStage_length (b : Block) (n : Nat) (r : RunRef) (k : Nat) : (b.sendStage n r k).seats.length = b.seats.length := by
  simp only [Block.sendStage]
  split
  · simp [Block.modSeat]
  · rw [seatSend_length]
    simp [Block.modSeat]

/-- The seat named awaits the STAGE's answer, and every other seat what it did. -/
theorem sendStage_stages (b : Block) (n m : Nat) (r : RunRef) (k : Nat) :
    ((b.sendStage n r k).seat m).stages = ((b.modSeat n (fun s => { s with stages := s.stages ++ [stageWait r k b.now] })).seat m).stages := by
  simp only [Block.sendStage]
  split
  · rfl
  · rw [seatSend_stages]
    rfl

theorem sendStage_self (b : Block) {n : Nat} (r : RunRef) (k : Nat) (hn : n < b.seats.length) :
    ((b.sendStage n r k).seat n).stages = (b.seat n).stages ++ [stageWait r k b.now] := by
  rw [sendStage_stages, Block.seat_modSeat_self _ _ _ hn]

theorem sendStage_ne (b : Block) {n m : Nat} (r : RunRef) (k : Nat) (h : n ≠ m) : ((b.sendStage n r k).seat m).stages = (b.seat m).stages := by
  rw [sendStage_stages, Block.seat_modSeat_ne _ _ h]

/-- STAGE of a stage to each of a list of seats. -/
def sendStages (r : RunRef) (k : Nat) (l : List Nat) (b : Block) : Block := l.foldl (fun x n => x.sendStage n r k) b

theorem sendStages_eq (r : RunRef) (k : Nat) (l : List Nat) (b : Block) : ∃ ss cs o, sendStages r k l b = { b with seats := ss, ctrs := cs, out := o } := by
  induction l generalizing b with
  | nil => exact ⟨_, _, _, rfl⟩
  | cons n l ih =>
    obtain ⟨ss, cs, o, h⟩ := sendStage_eq b n r k
    obtain ⟨ss', cs', o', h'⟩ := ih (b.sendStage n r k)
    exact ⟨ss', cs', o', by rw [sendStages, List.foldl_cons, ← sendStages, h', h]⟩

/-- What a seat awaits it still awaits when more STAGEs go out. -/
theorem sendStages_keeps (r : RunRef) (k : Nat) (l : List Nat) (b : Block) (m : Nat) (q : StageWait → Bool) (h : (b.seat m).stages.any q = true) :
    ((sendStages r k l b).seat m).stages.any q = true := by
  induction l generalizing b with
  | nil => exact h
  | cons n l ih =>
    refine ih (b.sendStage n r k) ?_
    by_cases hn : n = m
    · subst hn
      by_cases hlt : n < b.seats.length
      · rw [sendStage_self b r k hlt, List.any_append, h, Bool.true_or]
      · rw [Block.seat, List.getD_eq_getElem?_getD, List.getElem?_eq_none (Nat.not_lt.mp hlt)] at h
        cases h
    · rw [sendStage_ne b r k hn, h]

/-- Each seat of the list awaits the answer to its STAGE. -/
theorem sendStages_awaited (r : RunRef) (k : Nat) (l : List Nat) (b : Block) {m : Nat} (hm : m ∈ l) (hlt : m < b.seats.length) :
    ((sendStages r k l b).seat m).stages.any (fun w => decide (w.tenant = r.tenant ∧ w.handle = r.handle ∧ w.stage = k)) = true := by
  induction l generalizing b with
  | nil => cases hm
  | cons n l ih =>
    by_cases hn : n = m
    · subst hn
      refine sendStages_keeps r k l (b.sendStage n r k) n _ ?_
      rw [sendStage_self b r k hlt, List.any_append]
      simp [stageWait]
    · exact ih (b.sendStage n r k) ((List.mem_cons.mp hm).resolve_left fun e => hn e.symm) (by rwa [sendStage_length])

/-! ## Counters that answers and events leave -/

/-- A counter that no answer, event or cell counts in. -/
def quietCtr (a : Nat) : Prop := a ≠ Map.flsRangeCnt ∧ a ≠ Map.flsSeqCnt ∧ ∀ n, a ≠ Map.telSeatOut n

theorem quietCtr_runEndCnt : quietCtr Map.runEndCnt :=
  ⟨by decide, by decide, fun n => by simp only [Map.runEndCnt, Map.runBase, Map.telSeatOut, Map.telBase]; omega⟩

theorem quietCtr_runKillCnt : quietCtr Map.runKillCnt :=
  ⟨by decide, by decide, fun n => by simp only [Map.runKillCnt, Map.runBase, Map.telSeatOut, Map.telBase]; omega⟩

/-- The bits of an error register are no counter. -/
theorem setErr_ctr (b : Block) (a x : Nat) (m : Word) : (b.setErr x m).ctr a = b.ctr a := by
  obtain ⟨p, o, hb⟩ := b.setErr_eq x m
  rw [hb]
  rfl

section
variable {a : Nat} (h : quietCtr a)
include h

theorem pumpSeat_ctr (b : Block) (n : Nat) : (b.pumpSeat n).ctr a = b.ctr a := by
  simp only [Block.pumpSeat]
  split
  · split
    · rfl
    · exact Block.ctr_bump_ne _ _ (h.2.2 n).symm
  · rfl

theorem seatSend_ctr (b : Block) (n : Nat) (p : SeatOut) : (b.seatSend n p).ctr a = b.ctr a := by
  unfold Block.seatSend
  split
  · exact pumpSeat_ctr h _ n
  · rfl

theorem sendRecord_ctr (b : Block) (src : Nat) (ws : List Word) (e : Bool) : (b.sendRecord src ws e).ctr a = b.ctr a := by
  unfold Block.sendRecord
  split
  · exact seatSend_ctr h _ _ _
  · rfl

theorem countStatus_ctr (b : Block) (src status : Nat) : (b.countStatus src status).ctr a = b.ctr a := by
  unfold Block.countStatus Block.setErrBit
  split
  · rw [setErr_ctr, Block.ctr_bump_ne _ _ h.1.symm]
  · split
    · rw [setErr_ctr, Block.ctr_bump_ne _ _ h.1.symm]
    · split
      · rw [setErr_ctr, Block.ctr_bump_ne _ _ h.2.1.symm]
      · rfl

theorem complete_ctr (b : Block) (t : Nat) (p : Pkt) (status : Nat) (r0 r1 : Word) (d : Nat) : (b.complete t p status r0 r1 d).ctr a = b.ctr a := by
  simp only [Block.complete, Block.answer]
  split
  · exact countStatus_ctr h _ _ _
  · rw [sendRecord_ctr h, countStatus_ctr h]
    rfl

end

/-! ## Kills -/

/-- A kill of a run that no other cause has killed (R189, R190). -/
def killOf (b : Block) (r : Run) (cause station ord : Nat) (d : Word) : KillInfo :=
  { cause := cause, station := station, ord := ord, detail := d, stage := r.stageWord, at_ := b.now }

/-- All that the kill of a run changes: the run is marked, and the Ridge and the seats drop what is its. -/
theorem killOrd_eq {b : Block} {r : RunRef} {x : Run} (hr : b.findRun r = some x) (hk : x.killed = none) (cause station ord : Nat) (d : Word) :
    ∃ g ss, b.killOrd r cause station ord d = { b.modRun r (fun y => { y with killed := some (killOf b x cause station ord d) }) with ridge := g, seats := ss } := by
  simp only [Block.killOrd, hr, hk]
  exact ⟨_, _, rfl⟩

/-- A run that is killed bears its cause (R190). -/
theorem killRun_killedWith {b : Block} {r : RunRef} {x : Run} (hr : b.findRun r = some x) (hk : x.killed = none) (cause station : Nat) (d : Word) :
    (b.killRun r cause station d).canonMem.killedWith r cause station d := by
  obtain ⟨g, ss, h⟩ := killOrd_eq hr hk cause station 0 d
  refine ⟨{ x with killed := some (killOf b x cause station 0 d) }, killOf b x cause station 0 d, ?_, rfl, rfl, rfl, rfl⟩
  rw [Block.killRun, h]
  exact findRun_modRun_of (b := b) hr (fun _ h => h)

/-! ## What a run had is freed -/

/-- Freeing the stores and windows of a run's stations changes the Vatman alone (R460, R468). -/
theorem freeSplat_eq (b : Block) (r : Run) (only : Option Nat) : ∃ v, b.freeSplat r only = { b with vat := v } := by
  unfold Block.freeSplat
  induction r.stations generalizing b with
  | nil => exact ⟨_, rfl⟩
  | cons s l ih =>
    rw [List.foldl_cons]
    split
    · exact ih b
    · split
      · exact ih (b.freeCourse r.ref.tenant (binPar s.params))
      · exact ih (b.freeWindow r.ref.tenant (blendPar s.params))
      · exact ih b

/-- The Ridge of a block without items has nothing to return to the store and nothing to fire. -/
theorem matchFlow_nil {b : Block} (h : b.ridge.items = []) : b.matchFlow = b := by
  simp [Block.matchFlow, Block.fireAll, h, Block.returnSpilled]

end Sys2Proof.StationsAndRuns
end

section
/-! SUPPORT. O35: a run launches, goes from stage to stage, and ends (R177 to R179, R187 to R190, R371, R389, R390). -/
namespace Sys2Proof.StationsAndRuns
open Sys2Proof.Machine

/-! ## Launch -/

/-- A run that may launch has not been killed. -/
theorem mayLaunch_killed {b : Block} {r : Run} (h : b.mayLaunch r = true) : r.killed = none := by
  simp only [Block.mayLaunch, Bool.and_eq_true, Option.isNone_iff_eq_none] at h
  exact h.1.1.1.1

/-- The checks of a launch give the run back with what they have read, under its reference. -/
theorem launchChecks_ref {b b1 : Block} {r r1 : Run} (h : b.launchChecks r = .ok (b1, r1)) : r1.ref = r.ref := by
  simp only [Block.launchChecks] at h
  split at h
  · cases h; rfl
  · split at h
    · cases h
    · split at h
      · cases h
      · split at h
        · cases h
        · split at h
          · cases h
          · cases h; rfl

/-- A run as it takes its buffers and queues, its checks passed with `b1` and `r1` (R178, R371, R390). -/
def launched (b b1 : Block) (r r1 : Run) : Run :=
  giveQueues { r1 with bufs := b1.bufsOf r1, launchedAt := b.now, waitQ := false, waitPool := false }
    (freeQueues b1.queuesUsed 61440 4096 (descStations r.desc + descEdges r.desc))

/-- Giving queues changes no part of a station but its queue. -/
theorem giveQueues_map {β : Type} (r : Run) (qs : List Nat) (g : Station → β) (hg : ∀ s q, g { s with queue := q } = g s) :
    (giveQueues r qs).stations.map g = r.stations.map g := by
  apply List.ext_getElem?
  intro i
  simp [giveQueues, List.getElem?_map, List.getElem?_mapIdx, Function.comp_def, hg]

/-- The seats that a run names stand in its stations' entries. -/
theorem seatsNamed_congr {r x : Run} (h : x.stations.map (fun s => s.entry) = r.stations.map (fun s => s.entry)) : x.seatsNamed = r.seatsNamed := by
  have hany (y : Run) (n : Nat) : y.stations.any (fun s => decide (s.entry.type = .gate ∧ s.entry.gsource = n)) =
      (y.stations.map (fun s => s.entry)).any (fun e => decide (e.type = .gate ∧ e.gsource = n)) := by simp [List.any_map, Function.comp_def]
  simp only [Run.seatsNamed, hany, h]

theorem launched_seatsNamed (b b1 : Block) (r r1 : Run) : (launched b b1 r r1).seatsNamed = r1.seatsNamed :=
  seatsNamed_congr (giveQueues_map _ _ (fun s => s.entry) (fun _ _ => rfl))

/-- The launch of a run whose checks have passed and whose buffers there are. -/
def launchBegin (b b1 : Block) (ref : RunRef) (r r1 : Run) : Block := ((b1.modRun ref (fun _ => launched b b1 r r1)).bump Map.runLaunchCnt 1).startStage ref 0

section
variable {s : State} {t : Nat} {h : Word} {r r1 : Run} {b1 : Block} (hr : s.b.findRun { tenant := t, handle := h } = some r) (hm : s.b.mayLaunch r = true)
include hr hm

/-- RUN_LAUNCH of a run for which there are no queues (R371). -/
theorem exec_runLaunch_queues (hw : r.waitQ = false) (hq : s.b.queuesFree < descStations r.desc + descEdges r.desc) :
    exec (.runLaunch t h []) s = lift s (fun b => (b.waitQueues { tenant := t, handle := h }).setErrBit Map.rdgErr 2) := by
  show execRunLaunch t h [] s = _
  simp [execRunLaunch, lift, meeting_nil, hr, hm, hw, hq]

variable (hq : descStations r.desc + descEdges r.desc ≤ s.b.queuesFree)
include hq

/-- RUN_LAUNCH of a run whose descriptor is at fault (R175). -/
theorem exec_runLaunch_fault {i : Nat} (hread : r.read = false) (ht : r.ref.tenant = t) (hf : s.b.descFault t r.desc = some i) :
    exec (.runLaunch t h []) s = lift s (fun b => b.killRun { tenant := t, handle := h } stGraph i 0#32) := by
  have hc : s.b.launchChecks r = .error (.kill stGraph i) := by simp [Block.launchChecks, hread, ht, hf]
  show execRunLaunch t h [] s = _
  simp [execRunLaunch, lift, meeting_nil, hr, hm, Nat.not_lt.mpr hq, hc, stGraph, stTree]

variable (hc : s.b.launchChecks r = .ok (b1, r1))
include hc

/-- RUN_LAUNCH of a run that its tenant's quota does not hold (R178). -/
theorem exec_runLaunch_quota (hover : (b1.tenant t).quotaFelt * 256 < b1.useFelt t + sumNat ((b1.bufsOf r1).map (fun x => x.2.2))) :
    exec (.runLaunch t h []) s = lift s (fun b => b.killRun { tenant := t, handle := h } stQuota noStation 0#32) := by
  show execRunLaunch t h [] s = _
  simp [execRunLaunch, lift, meeting_nil, hr, hm, Nat.not_lt.mpr hq, hc, hover]

variable (hquota : b1.useFelt t + sumNat ((b1.bufsOf r1).map (fun x => x.2.2)) ≤ (b1.tenant t).quotaFelt * 256)
include hquota

/-- RUN_LAUNCH while the pool is short (R390). -/
theorem exec_runLaunch_pool (hp : b1.poolHas (b1.bufsOf r1) = false) :
    exec (.runLaunch t h []) s = lift s (fun _ => b1.modRun { tenant := t, handle := h } (fun _ => { r1 with waitQ := true, waitPool := true })) := by
  show execRunLaunch t h [] s = _
  simp [execRunLaunch, lift, meeting_nil, hr, hm, Nat.not_lt.mpr hq, hc, Nat.not_lt.mpr hquota, hp]

/-- RUN_LAUNCH of a run that has all it takes (R178). -/
theorem exec_runLaunch_begin (hp : b1.poolHas (b1.bufsOf r1) = true) :
    exec (.runLaunch t h []) s = lift s (fun b => launchBegin b b1 { tenant := t, handle := h } r r1) := by
  show execRunLaunch t h [] s = _
  simp [execRunLaunch, lift, meeting_nil, hr, hm, Nat.not_lt.mpr hq, hc, Nat.not_lt.mpr hquota, hp, launchBegin, launched]

end

/-! ## Stages -/

/-- A stage of a run that names no seat begins at once (R187). -/
theorem startStage_now {b : Block} {ref : RunRef} {r : Run} (k : Nat) (hr : b.findRun ref = some r) (hn : r.seatsNamed = []) :
    b.startStage ref k = (b.modRun ref (fun x => { x with phase := .active k })).runBegun ref k := by
  simp [Block.startStage, hr, hn]

/-- A stage of a run that names seats waits for each (R52, R187). -/
theorem startStage_seats {b : Block} {ref : RunRef} {r : Run} (k : Nat) (hr : b.findRun ref = some r) (hn : r.seatsNamed ≠ []) :
    b.startStage ref k = sendStages ref k r.seatsNamed (b.modRun ref (fun x => { x with phase := .staging k r.seatsNamed })) := by
  simp [Block.startStage, hr, hn, sendStages]

/-- All that the completion of a RUN can do (R179). -/
theorem runBegun_eq (b : Block) (ref : RunRef) (k : Nat) : ∃ ss gs ms cs es a o, b.runBegun ref k =
    { b with seats := ss, gables := gs, streams := ms, ctrs := cs, errs := es, pins := { b.pins with mgAlertN := a }, out := o } := by
  unfold Block.runBegun
  split
  · split
    · exact Block.complete_eq _ _ _ _ _ _ _
    · exact ⟨_, _, _, _, _, _, _, rfl⟩
  · exact ⟨_, _, _, _, _, _, _, rfl⟩

/-- Only the first stage completes the RUN. -/
theorem runBegun_later (b : Block) (ref : RunRef) {k : Nat} (hk : k ≠ 0) : b.runBegun ref k = b := by
  unfold Block.runBegun
  split
  · rw [if_neg (fun h => hk h.1)]
  · rfl

/-- A run without the buffers of a stage. -/
def dropBufs (k : Nat) (r : Run) : Run := { r with bufs := r.bufs.filter (fun y => y.1 ≠ k) }

/-- The end of a stage, before the next begins: caches, cores and what the stage had are free (R187). -/
def stageFreed (b : Block) (ref : RunRef) (r : Run) (k : Nat) : Block := (((b.clearCaches ref).dropCores ref).freeSplat r (some k)).modRun ref (dropBufs k)

theorem stageFreed_eq (b : Block) (ref : RunRef) (r : Run) (k : Nat) : ∃ cs ns es v,
    stageFreed b ref r k = { b.modRun ref (dropBufs k) with cores := cs, nodeCaches := ns, eaves := es, vat := v } := by
  obtain ⟨v, hv⟩ := freeSplat_eq ((b.clearCaches ref).dropCores ref) r (some k)
  exact ⟨_, _, _, v, by rw [stageFreed, hv]; rfl⟩

/-- The run whose stage has ended. -/
theorem stageFreed_findRun {b : Block} {ref : RunRef} {r : Run} (k : Nat) (hr : b.findRun ref = some r) : (stageFreed b ref r k).findRun ref = some (dropBufs k r) := by
  obtain ⟨cs, ns, es, v, hf⟩ := stageFreed_eq b ref r k
  rw [hf]
  exact findRun_modRun_of (b := b) hr (fun _ h => h)

section
variable {s : State} {t k : Nat} {h : Word} {r : Run} (hr : s.b.findRun { tenant := t, handle := h } = some r) (hph : r.phase = .active k) (hkill : r.killed = none)
  (hover : r.stageOver k = true)
include hr hph hkill hover

/-- STAGE_END of a stage that is not the last. -/
theorem exec_stageEnd_next (hk : k + 1 < r.nstage) :
    exec (.stageEnd t h) s = lift s (fun b => (stageFreed b { tenant := t, handle := h } r k).startStage { tenant := t, handle := h } (k + 1)) := by
  show execStageEnd t h s = _
  simp only [execStageEnd, lift, hr, hph, hkill, hover, hk]
  rfl

/-- STAGE_END of the last stage. -/
theorem exec_stageEnd_last (hk : r.nstage ≤ k + 1) :
    exec (.stageEnd t h) s = lift s (fun b => (stageFreed b { tenant := t, handle := h } r k).endRun (dropBufs k r)) := by
  have hr1 : (Block.modRun _ _ _).findRun _ = _ := stageFreed_findRun k hr
  show execStageEnd t h s = _
  simp only [execStageEnd, lift, hr, hph, hkill, hover, Nat.not_lt.mpr hk]
  unfold dropBufs at hr1
  simp only [hr1]
  rfl

end

end Sys2Proof.StationsAndRuns
end

section
/-! SUPPORT. O35, continued: what a launch, the end of the last stage and the end of a kill leave. -/
namespace Sys2Proof.StationsAndRuns
open Sys2Proof.Machine

/-! ## What a launch leaves -/

/-- A run launched, in a phase. -/
def launchedIn (b b1 : Block) (r r1 : Run) (ph : RunPhase) : Run :=
  { launched b b1 r r1 with phase := ph }

theorem launchedIn_units (b b1 : Block) (r r1 : Run) (ph : RunPhase) :
    (launchedIn b b1 r r1 ph).stations.map (fun z => z.units) = r1.stations.map (fun z => z.units) :=
  giveQueues_map _ _ (fun z => z.units) (fun _ _ => rfl)

/-- A run put in the place of another, counted, and changed once more. -/
theorem modRun_const_bump (b : Block) {ref : RunRef} {x : Run} (hx : x.ref = ref) (q n : Nat) (f : Run → Run) :
    ((b.modRun ref (fun _ => x)).bump q n).modRun ref f = (b.modRun ref (fun _ => f x)).bump q n := by
  rw [← modRun_modRun b ref (fun _ => x) f (fun _ _ => hx)]
  rfl

section
variable {b b1 : Block} {ref : RunRef} {r r1 : Run} (hr : b1.findRun ref = some r) (href : r1.ref = ref)
include hr href

theorem launched_findRun : ((b1.modRun ref (fun _ => launched b b1 r r1)).bump Map.runLaunchCnt 1).findRun ref = some (launched b b1 r r1) :=
  findRun_modRun_of (b := b1) hr (fun _ _ => href)

/-- A launch that names no seat leaves the run in stage 0, and answers its RUN (R178, R179). -/
theorem launchBegin_now (hn : r1.seatsNamed = []) : ∃ ss gs ms cs es a o, launchBegin b b1 ref r r1 =
    { b1.modRun ref (fun _ => launchedIn b b1 r r1 (.active 0)) with seats := ss, gables := gs, streams := ms, ctrs := cs, errs := es, pins := { b1.pins with mgAlertN := a }, out := o } := by
  obtain ⟨ss, gs, ms, cs, es, a, o, h⟩ := runBegun_eq ((b1.modRun ref (fun _ => launchedIn b b1 r r1 (.active 0))).bump Map.runLaunchCnt 1) ref 0
  refine ⟨ss, gs, ms, cs, es, a, o, ?_⟩
  rw [launchBegin, startStage_now 0 (launched_findRun hr href) (by rw [launched_seatsNamed, hn]), modRun_const_bump b1 (x := launched b b1 r r1) href]
  exact h

/-- A launch that names seats leaves the run waiting for each of them (R52, R178). -/
theorem launchBegin_seats (hn : r1.seatsNamed ≠ []) : ∃ cs, launchBegin b b1 ref r r1 =
    sendStages ref 0 r1.seatsNamed { b1.modRun ref (fun _ => launchedIn b b1 r r1 (.staging 0 r1.seatsNamed)) with ctrs := cs } := by
  refine ⟨((b1.modRun ref (fun _ => launchedIn b b1 r r1 (.staging 0 r1.seatsNamed))).bump Map.runLaunchCnt 1).ctrs, ?_⟩
  rw [launchBegin, startStage_seats 0 (launched_findRun hr href) (by rwa [launched_seatsNamed]), modRun_const_bump b1 (x := launched b b1 r r1) href, launched_seatsNamed]
  rfl

end

/-! ## What ends leave -/

/-- RUN_END: the last stage's end closes the run and counts it (R188). -/
theorem endRun_eq (b : Block) (r : Run) : ∃ ss gs cs o g, b.endRun r =
      { b with runs := b.runs.filter (fun x => x.ref ≠ r.ref), ended := b.ended ++ [r.ref], ridge := g, seats := ss, gables := gs, ctrs := cs, out := o } ∧
    (b.endRun r).ctr Map.runEndCnt = b.ctr Map.runEndCnt + 1#32 := by
  obtain ⟨ss, gs, cs, o, h⟩ := Block.sendEvent_eq ((b.closeRun r.ref).bump Map.runEndCnt 1) r.src evRunEnd 0 r.ref.handle
    [BitVec.ofNat 32 r.nstage, BitVec.ofNat 32 (b2n r.ovf + 2 * b2n r.unf), BitVec.ofNat 32 (b.ctlSince r.launchedAt / 1024), 0#32]
  refine ⟨ss, gs, cs, o, _, h, ?_⟩
  rw [Block.endRun, Block.sendEvent, sendRecord_ctr quietCtr_runEndCnt, Block.ctr_bump_self]
  rfl

/-- A killed run's caches, cores, stores and packets are gone, and it is closed (R189). -/
def killFreed (b : Block) (ref : RunRef) (r : Run) : Block := ((((b.clearCaches ref).dropCores ref).freeSplat r none).dropPackets ref).closeRun ref

theorem killFreed_eq (b : Block) (ref : RunRef) (r : Run) : ∃ hs cs ns es v ss gs, killFreed b ref r =
    { b with runs := b.runs.filter (fun x => x.ref ≠ ref), ended := b.ended ++ [ref], ridge := { b.ridge with held := hs }, cores := cs, nodeCaches := ns, eaves := es,
             vat := v, seats := ss, gables := gs } := by
  obtain ⟨v, hv⟩ := freeSplat_eq ((b.clearCaches ref).dropCores ref) r none
  exact ⟨_, _, _, _, v, _, _, by rw [killFreed, hv]; rfl⟩

/-- The first stage of a run has begun. -/
def hasBegun (r : Run) : Bool := match r.phase with | .waiting => false | .staging j _ => decide (j ≠ 0) | .active _ => true

/-- A killed run that is freed, its RUN answered where it had not begun (R179, R189). -/
def killAnswered (b : Block) (t : Nat) (ref : RunRef) (r : Run) (k : KillInfo) : Block :=
  if hasBegun r then killFreed b ref r
  else ((killFreed b ref r).modStrm t r.pkt.stream (fun x => { x with adm := x.adm.erase r.pkt })).complete t r.pkt k.cause ref.handle 0#32 0

theorem killAnswered_eq (b : Block) (t : Nat) (ref : RunRef) (r : Run) (k : KillInfo) : ∃ hs cs ns es v ss gs ms ts xs a o, killAnswered b t ref r k =
      { b with runs := b.runs.filter (fun x => x.ref ≠ ref), ended := b.ended ++ [ref], ridge := { b.ridge with held := hs }, cores := cs, nodeCaches := ns, eaves := es,
               vat := v, seats := ss, gables := gs, streams := ms, ctrs := ts, errs := xs, pins := { b.pins with mgAlertN := a }, out := o } := by
  obtain ⟨hs, cs, ns, es, v, ss, gs, h⟩ := killFreed_eq b ref r
  unfold killAnswered
  split
  · exact ⟨hs, cs, ns, es, v, ss, gs, _, _, _, _, _, h⟩
  · obtain ⟨ss', gs', ms, ts, xs, a, o, h'⟩ := Block.complete_eq ((killFreed b ref r).modStrm t r.pkt.stream (fun x => { x with adm := x.adm.erase r.pkt })) t r.pkt k.cause ref.handle 0#32 0
    exact ⟨hs, cs, ns, es, v, ss', gs', ms, ts, xs, a, o, by rw [h', h]; rfl⟩

theorem killAnswered_ctr {a : Nat} (ha : quietCtr a) (b : Block) (t : Nat) (ref : RunRef) (r : Run) (k : KillInfo) : (killAnswered b t ref r k).ctr a = b.ctr a := by
  obtain ⟨hs, cs, ns, es, v, ss, gs, h⟩ := killFreed_eq b ref r
  unfold killAnswered
  split
  · rw [h]; rfl
  · rw [complete_ctr ha, h]; rfl

/-- RUN_LAST_KILL of a kill (R190). -/
def lastKill (t : Nat) (k : KillInfo) : Word := BitVec.ofNat 32 (k.cause + 256 * (t % 16) + 4096 * (k.station % 256))

/-- The end of a kill: RUN_KILL_CNT, RUN_LAST_KILL and RUN_KILLED (R190). -/
def killTold (b : Block) (t : Nat) (ref : RunRef) (r : Run) (k : KillInfo) : Block :=
  (((killAnswered b t ref r k).bump Map.runKillCnt 1).setLast Map.runLastKill (lastKill t k)).sendEvent r.src evRunKilled k.cause ref.handle
    [k.stage, BitVec.ofNat 32 k.station, k.detail, 0#32]

theorem killTold_eq (b : Block) (t : Nat) (ref : RunRef) (r : Run) (k : KillInfo) : ∃ hs cs ns es v ss gs ms ts xs a o, killTold b t ref r k =
      { b with runs := b.runs.filter (fun x => x.ref ≠ ref), ended := b.ended ++ [ref], ridge := { b.ridge with held := hs }, cores := cs, nodeCaches := ns, eaves := es,
               vat := v, seats := ss, gables := gs, streams := ms, ctrs := ts, errs := xs, pins := { b.pins with mgAlertN := a }, out := o,
               lasts := b.lasts.set Map.runLastKill (lastKill t k) } := by
  obtain ⟨hs, cs, ns, es, v, ss, gs, ms, ts, xs, a, o, h⟩ := killAnswered_eq b t ref r k
  obtain ⟨ss', gs', ts', o', h'⟩ := Block.sendEvent_eq (((killAnswered b t ref r k).bump Map.runKillCnt 1).setLast Map.runLastKill (lastKill t k)) r.src evRunKilled k.cause ref.handle
    [k.stage, BitVec.ofNat 32 k.station, k.detail, 0#32]
  exact ⟨hs, cs, ns, es, v, ss', gs', ms, ts', xs, a, o', by rw [killTold, h', h]; rfl⟩

theorem killTold_ctr (b : Block) (t : Nat) (ref : RunRef) (r : Run) (k : KillInfo) : (killTold b t ref r k).ctr Map.runKillCnt = b.ctr Map.runKillCnt + 1#32 := by
  have h : ((killAnswered b t ref r k).bump Map.runKillCnt 1).ctr Map.runKillCnt = b.ctr Map.runKillCnt + 1#32 := by
    rw [Block.ctr_bump_self, killAnswered_ctr quietCtr_runKillCnt]
  rw [killTold, Block.sendEvent, sendRecord_ctr quietCtr_runKillCnt]
  exact h

/-- RUN_KILL_DONE of a run that a cause has killed, without items in the store (R189, R190). -/
theorem exec_runKillDone {s : State} {t : Nat} {h : Word} {r : Run} {k : KillInfo} (hr : s.b.findRun { tenant := t, handle := h } = some r) (hk : r.killed = some k)
    (hi : s.b.ridge.items = []) : exec (.runKillDone t h) s = lift s (fun b => killTold b t { tenant := t, handle := h } r k) := by
  have hflow : (killTold s.b t { tenant := t, handle := h } r k).matchFlow = killTold s.b t { tenant := t, handle := h } r k := by
    obtain ⟨hs, cs, ns, es, v, ss, gs, ms, ts, xs, a, o, h⟩ := killTold_eq s.b t { tenant := t, handle := h } r k
    exact matchFlow_nil (by rw [h]; exact hi)
  have hex : exec (.runKillDone t h) s = lift s (fun b => (killTold b t { tenant := t, handle := h } r k).matchFlow) := by
    show execRunKillDone t h s = _
    simp only [execRunKillDone, lift, hr, hk]
    rfl
  rw [hex]
  exact congrArg (fun b : Block => Host.Outcome.next ({ s with b := b.canonMem } : State)) hflow

/-- A run that is alone is gone once it is closed. -/
theorem filter_single {r : Run} {ref : RunRef} (h : r.ref = ref) : [r].filter (fun x => decide (x.ref ≠ ref)) = [] := by simp [h]

/-- What a launch sets in its run. -/
theorem launchedIn_fields (b b1 : Block) (r r1 : Run) (ph : RunPhase) : (launchedIn b b1 r r1 ph).phase = ph ∧ (launchedIn b b1 r r1 ph).bufs = b1.bufsOf r1 ∧
    (launchedIn b b1 r r1 ph).launchedAt = b.now ∧ (launchedIn b b1 r r1 ph).waitQ = false ∧ (launchedIn b b1 r r1 ph).killed = r1.killed := ⟨rfl, rfl, rfl, rfl, rfl⟩

/-- What every launch that goes on keeps: the other runs, the settings, and memory as the checks have left it. -/
def launchKept (b old b1 : Block) (ref : RunRef) : Prop :=
  (∀ x, x ≠ ref → b.findRun x = old.findRun x) ∧ b.start = b1.start ∧ b.vat = b1.vat ∧ ∀ a, b.byteAt a = b1.byteAt a

theorem launchKept_modRun {old b1 : Block} (h : b1.runs = old.runs) {ref : RunRef} {x : Run} (hx : x.ref = ref) : launchKept (b1.modRun ref (fun _ => x)).canonMem old b1 ref :=
  ⟨fun q hq => (findRun_modRun_ne b1 _ (fun _ _ => hx) hq).trans (findRun_congr h q), rfl, rfl, fun a => Block.canonMem_byteAt _ a⟩

/-- A killed run leaves the Vatman, the streams and memory. -/
theorem killRun_kept (b : Block) (r : RunRef) (cause station : Nat) (d : Word) :
    (b.killRun r cause station d).canonMem.vat = b.vat ∧ (b.killRun r cause station d).canonMem.streams = b.streams ∧ (b.killRun r cause station d).canonMem.memKept b := by
  obtain ⟨rs, g, ss, h⟩ := b.killRun_eq r cause station d
  rw [h]
  exact ⟨rfl, rfl, Block.memKept_canonMem rfl⟩

/-- The kill of a run that is alone. -/
theorem killOrd_runs {b : Block} {r : Run} {ref : RunRef} (h : b.runs = [r]) (href : r.ref = ref) (hk : r.killed = none) (cause station ord : Nat) (d : Word) :
    (b.killOrd ref cause station ord d).runs = [{ r with killed := some (killOf b r cause station ord d) }] := by
  obtain ⟨g, ss, hb⟩ := killOrd_eq (findRun_single h href) hk cause station ord d
  rw [hb]
  simp [h, href]

/-- The runs of a run that is alone, once the buffers of a stage are free. -/
theorem modRun_single {b : Block} {r : Run} {ref : RunRef} (h : b.runs = [r]) (href : r.ref = ref) (f : Run → Run) : (b.modRun ref f).runs = [f r] := by
  simp [h, href]

end Sys2Proof.StationsAndRuns

open Sys2Proof Sys2Proof.Machine Sys2Proof.StationsAndRuns in
/-- Settles O35: each command's answer on a run in the state named, by the equations of launch, stage end and kill. -/
theorem runLifecycle : Obligations.RunLifecycle := by
  refine ⟨fun s t h r r1 b1 hr hm hq hc hruns => ⟨fun hquota => ?launch, fun hover => ?quota⟩, fun s t h r hr hm hw hq => ?queues,
    fun s t i h r hruns href hm hq hread hf => ?fault, fun s t k h r hruns href hph hk hover hnext hn => ?next, fun s t k h r hruns href hph hk hover hlast => ?last,
    fun s t h r k hruns href hk hi => ?killed⟩
  case launch =>
    have href := (launchChecks_ref hc).trans (findRun_ref hr)
    have hr1 := (findRun_congr hruns _).trans hr
    refine ⟨fun hp hn => ?_, fun hp hn => ?_, fun hp => ?_⟩
    · refine completes_of_lift (exec_runLaunch_begin hr hm hq hc hquota hp) ?_
      obtain ⟨ss, gs, ms, cs, es, a, o, hb⟩ := launchBegin_now (b := s.b) hr1 href hn
      rw [hb]
      refine ⟨(Option.any_eq_true _ _).mpr ⟨_, findRun_modRun_of (b := b1) hr1 (fun _ _ => href), ?_⟩, launchKept_modRun (x := launchedIn s.b b1 r r1 (.active 0)) hruns href⟩
      simp only [decide_eq_true (launchedIn_fields s.b b1 r r1 _), decide_eq_true (launchedIn_units s.b b1 r r1 _), Bool.and_self]
    · refine completes_of_lift (exec_runLaunch_begin hr hm hq hc hquota hp) ?_
      obtain ⟨cs0, hb⟩ := launchBegin_seats (b := s.b) hr1 href hn
      have hwait := fun n hn hlt => sendStages_awaited { tenant := t, handle := h } 0 r1.seatsNamed
        ({ b1.modRun { tenant := t, handle := h } (fun _ => launchedIn s.b b1 r r1 (.staging 0 r1.seatsNamed)) with ctrs := cs0 } : Block) (m := n) hn hlt
      obtain ⟨ss, cs, o, hs⟩ := sendStages_eq { tenant := t, handle := h } 0 r1.seatsNamed
        ({ b1.modRun { tenant := t, handle := h } (fun _ => launchedIn s.b b1 r r1 (.staging 0 r1.seatsNamed)) with ctrs := cs0 } : Block)
      rw [hs] at hwait
      rw [hb, hs]
      refine ⟨(Option.any_eq_true _ _).mpr ⟨_, findRun_modRun_of (b := b1) hr1 (fun _ _ => href), ?_⟩, hwait, launchKept_modRun (x := launchedIn s.b b1 r r1 (.staging 0 r1.seatsNamed)) hruns href⟩
      exact decide_eq_true (launchedIn_fields s.b b1 r r1 _)
    · exact completes_of_lift (exec_runLaunch_pool hr hm hq hc hquota hp) ⟨findRun_modRun_of (b := b1) hr1 (fun _ _ => href), launchKept_modRun hruns href⟩
  case quota =>
    exact completes_of_lift (exec_runLaunch_quota hr hm hq hc hover) ⟨killRun_killedWith hr (mayLaunch_killed hm) _ _ _, killRun_kept _ _ _ _ _⟩
  case queues =>
    refine completes_of_lift (exec_runLaunch_queues hr hm hw hq) ?_
    have hbit : wbit ((s.b.waitQueues { tenant := t, handle := h }).setErrBit Map.rdgErr 2 |>.err Map.rdgErr) 2 = true := by
      rw [Block.setErrBit, Block.err_setErr_self, wbit_or_two_pow _ (by decide)]
    obtain ⟨p, o, hb⟩ := (s.b.waitQueues { tenant := t, handle := h }).setErr_eq Map.rdgErr (BitVec.ofNat 32 (2 ^ 2))
    refine ⟨hbit, ?_⟩
    rw [Block.setErrBit, hb]
    exact ⟨findRun_modRun_of (b := s.b) hr (fun _ h => h), rfl, rfl, Block.memKept_canonMem rfl⟩
  case fault =>
    have hr := findRun_single hruns href
    exact completes_of_lift (exec_runLaunch_fault hr hm hq hread (congrArg RunRef.tenant href) hf)
      ⟨killOrd_runs hruns href (mayLaunch_killed hm) _ _ _ _, killRun_kept _ _ _ _ _⟩
  case next =>
    have hr := findRun_single hruns href
    refine completes_of_lift (exec_stageEnd_next hr hph hk hover hnext) ?_
    rw [startStage_now (k + 1) (stageFreed_findRun k hr) hn, runBegun_later _ _ (Nat.succ_ne_zero k)]
    obtain ⟨cs, ns, es, v, hf⟩ := stageFreed_eq s.b { tenant := t, handle := h } r k
    rw [hf]
    exact ⟨modRun_single (modRun_single hruns href (dropBufs k)) href _, rfl, rfl, Block.memKept_canonMem rfl⟩
  case last =>
    have hr := findRun_single hruns href
    refine completes_of_lift (exec_stageEnd_last hr hph hk hover hlast) ?_
    obtain ⟨cs, ns, es, v, hf⟩ := stageFreed_eq s.b { tenant := t, handle := h } r k
    obtain ⟨ss, gs, cs', o, g, he, hctr⟩ := endRun_eq (stageFreed s.b { tenant := t, handle := h } r k) (dropBufs k r)
    have hempty : (stageFreed s.b { tenant := t, handle := h } r k).runs.filter (fun x => x.ref ≠ r.ref) = [] := by
      rw [hf]
      show ((s.b.modRun _ _).runs).filter _ = []
      rw [modRun_single hruns href]
      exact filter_single rfl
    refine ⟨?_, ?_, ?_, ?_, ?_⟩
    · rw [he]; exact hempty
    · rw [he, hf]; rfl
    · exact hctr.trans (by rw [hf]; rfl)
    · rw [he, hf]; rfl
    · exact Block.memKept_canonMem (by rw [he, hf]; rfl)
  case killed =>
    have hr := findRun_single hruns href
    refine completes_of_lift (exec_runKillDone hr hk hi) ?_
    obtain ⟨hs, cs, ns, es, v, ss, gs, ms, ts, xs, a, o, hb⟩ := killTold_eq s.b t { tenant := t, handle := h } r k
    refine ⟨?_, ?_, killTold_ctr s.b t _ r k, ?_, Block.memKept_canonMem (by rw [hb])⟩
    · rw [hb]
      show s.b.runs.filter _ = []
      rw [hruns]
      exact filter_single href
    · rw [hb, href]; rfl
    · rw [hb]
      exact Kv.getD_set_self _ _ _ _
end

section
/-! SUPPORT. Tiles that flow (R183, R186): what the emitting, releasing and finishing of a station leave of the items in the Ridge and on the units. -/
namespace Sys2Proof.StationsAndRuns
open Sys2Proof.Machine

/-- The items of a station: how many were made, dispatched and completed, and those on its units. -/
def itemsOf (s : Station) : Nat × Nat × Nat × List Active := (s.made, s.dispatched, s.completed, s.active)

/-- Tiles have flowed and no item has moved: the Vatman, the start, the cores, memory and the store are as they were, and so are the items of each station. -/
structure Flows (b c : Block) : Prop where
  vat : c.vat = b.vat
  start : c.start = b.start
  cores : c.cores = b.cores
  mem : c.mem = b.mem
  items : c.ridge.items = b.ridge.items
  stations : ∀ a, (c.stAt a).map itemsOf = (b.stAt a).map itemsOf

namespace Flows

theorem refl (b : Block) : Flows b b := ⟨rfl, rfl, rfl, rfl, rfl, fun _ => rfl⟩

theorem trans {b c d : Block} (h : Flows b c) (k : Flows c d) : Flows b d :=
  ⟨k.vat.trans h.vat, k.start.trans h.start, k.cores.trans h.cores, k.mem.trans h.mem, k.items.trans h.items, fun a => (k.stations a).trans (h.stations a)⟩

/-- Steps that let tiles flow, one after another. -/
theorem foldl {α : Type} {f : Block → α → Block} (hf : ∀ b x, Flows b (f b x)) (l : List α) (b : Block) : Flows b (l.foldl f b) := by
  induction l generalizing b with
  | nil => exact refl b
  | cons x l ih => exact (hf b x).trans (ih (f b x))

/-- The station that a flow leaves has its items. -/
theorem stAt {b c : Block} (h : Flows b c) {a : StRef} {s : Station} (hs : b.stAt a = some s) : ∃ z, c.stAt a = some z ∧ itemsOf z = itemsOf s := by
  have ha := h.stations a
  rw [hs, Option.map_some] at ha
  exact Option.map_eq_some_iff.mp ha

theorem bump (b : Block) (q n : Nat) : Flows b (b.bump q n) := ⟨rfl, rfl, rfl, rfl, rfl, fun _ => rfl⟩

theorem modRun (b : Block) (r : RunRef) (f : Run → Run) (hf : ∀ x, x.ref = r → (f x).ref = r) (hs : ∀ x, (f x).stations = x.stations) : Flows b (b.modRun r f) :=
  ⟨rfl, rfl, rfl, rfl, rfl, fun a => by rw [stAt_modRun b r f hf hs a]⟩

theorem modEdge (b : Block) (r : RunRef) (j : Nat) (f : Edge → Edge) : Flows b (b.modEdge r j f) := ⟨rfl, rfl, rfl, rfl, rfl, fun a => by rw [stAt_modEdge]⟩

theorem modSt (b : Block) (a : StRef) (f : Station → Station) (hf : ∀ s, itemsOf (f s) = itemsOf s) : Flows b (b.modSt a f) := by
  refine ⟨rfl, rfl, rfl, rfl, rfl, fun c => ?_⟩
  rw [stAt_modSt, Option.map_map]
  congr 1
  funext s
  by_cases hc : c = a <;> simp [hc, hf]

theorem setErrBit (b : Block) (x i : Nat) : Flows b (b.setErrBit x i) := by
  obtain ⟨p, o, h⟩ := b.setErr_eq x (BitVec.ofNat 32 (2 ^ i))
  rw [Block.setErrBit, h]
  exact ⟨rfl, rfl, rfl, rfl, rfl, fun _ => rfl⟩

theorem hold (b : Block) (t : Nat) (q : HeldQueue) : Flows b (b.hold t q) := by
  unfold Block.hold
  split
  · exact refl b
  · refine trans ?_ (setErrBit _ _ _)
    exact ⟨rfl, rfl, rfl, rfl, rfl, fun _ => rfl⟩

theorem pushEdge {b c : Block} {r : RunRef} {j : Nat} {t : Tile} (h : b.pushEdge r j t = some c) : Flows b c := by
  unfold Block.pushEdge at h
  split at h
  · cases h
  · split at h
    · cases h
    · split at h
      · cases h
      · cases h
        exact (modEdge b r j _).trans (bump _ _ _)

theorem holdEdge (b : Block) (r : RunRef) (j : Nat) : Flows b (b.holdEdge r j) := by
  unfold Block.holdEdge
  split
  · split
    · exact hold b _ _
    · exact refl b
  · exact refl b

theorem flushTiles (a : StRef) (l : List (Nat × Tile)) (b : Block) (kept : List (Nat × Tile)) : Flows b (Block.flushTiles a l b kept).1 := by
  induction l generalizing b kept with
  | nil => exact refl b
  | cons x l ih =>
    unfold Block.flushTiles
    split
    · exact ih b kept
    · split
      · exact ih b _
      · split
        · next h => exact (pushEdge h).trans (ih _ kept)
        · exact (holdEdge b _ _).trans (ih _ _)

theorem flushOut (b : Block) (a : StRef) : Flows b (b.flushOut a) := by
  unfold Block.flushOut
  split
  · exact refl b
  · exact (flushTiles a _ b []).trans (modSt _ a _ (fun _ => rfl))

theorem emit (b : Block) (a : StRef) (port : Nat) (t : Tile) : Flows b (b.emit a port t) := by
  refine trans (trans (modRun b (stRun a) (fun r => { r with ovf := r.ovf || t.ovf, unf := r.unf || t.unf }) (fun _ h => h) (fun _ => rfl)) ?_) (flushOut _ a)
  exact modSt _ a _ (fun _ => rfl)

theorem release (b : Block) (a : StRef) (port n : Nat) : Flows b (b.release a port n) := by
  unfold Block.release
  split
  · exact refl b
  · exact (modEdge b _ _ _).trans (flushOut _ _)

theorem releaseSlots (b : Block) (a : StRef) (s : Station) (l : List (Nat × Operand)) : Flows b (b.releaseSlots a s l) := by
  unfold Block.releaseSlots
  split
  · exact refl b
  · exact release b a 0 _
  · exact foldl (fun x (y : Nat × Tile) => release x a y.1 1) _ b

theorem closePort (b : Block) (a : StRef) (port : Nat) : Flows b (b.closePort a port) := by
  unfold Block.closePort
  split
  · exact refl b
  · split
    · exact modSt b a _ (fun _ => rfl)
    · split
      · exact emit b a port _
      · exact modEdge b _ _ _

theorem finish (b : Block) (a : StRef) : Flows b (b.finish a) := by
  unfold Block.finish
  split
  · exact refl b
  · exact (foldl (fun x p => closePort x a p) _ b).trans (modSt _ a _ (fun _ => rfl))

theorem finishLath (b : Block) (a : StRef) (r : Run) (s : Station) : Flows b (b.finishLath a r s) := by
  have hports (l : List Nat) (g : Nat → Tile) : Flows b (l.foldl (fun (x : Block) p => x.emit a p (g p)) b) := foldl (fun x p => emit x a p (g p)) l b
  simp only [Block.finishLath]
  split
  · refine trans ?_ (modSt _ a _ (fun _ => rfl))
    exact (hports _ _).trans (modRun _ _ _ (fun _ h => h) (fun _ => rfl))
  · exact (hports _ _).trans (modSt _ a _ (fun _ => rfl))

theorem settle (b : Block) (a : StRef) : Flows b (b.settle a) := by
  unfold Block.settle
  split
  · exact refl b
  · split
    · exact refl b
    · split
      · exact finishLath b a _ _
      · exact finish b a

end Flows

end Sys2Proof.StationsAndRuns
end

section
/-! SUPPORT. O36: items from their operand to their station's queue (R364, R370, R374), and from their work to their completion (R335, R361, R365). -/
namespace Sys2Proof.StationsAndRuns
open Sys2Proof.Machine

/-! ## Items that arrive -/

/-- The only item of the store fires once its slots are filled and nothing is HELD: its queue is empty, and its first entry needs no Gutter (R364, R370, R374). -/
theorem fireItem_fires {b : Block} {x : Item} {r : Run} (hr : b.findRun x.run = some r) (hi : b.ridge.items = [x]) (hh : b.ridge.held = []) (hf : x.fired = false)
    (hsp : x.spilled = false) (hfull : x.need ≤ x.slots.length) :
    ∃ cs, b.fireItem x = { b with ridge := { b.ridge with items := [{ x with fired := true, prio := b.capPrio r }] }, ctrs := cs } := by
  have hwaits : (x.fired || x.spilled || decide (x.slots.length < x.need) || b.isHeld x.run.tenant (.items x.run x.station)) = false := by
    simp [hf, hsp, hfull, Block.isHeld, hh]
  have hqueue : b.firedOf x.run x.station = 0 := by simp [Block.firedOf, hi, hf]
  have hroom : ¬ b.gutterFree x.run.tenant < needsPage 0 (0 + 1) := Nat.not_lt.mpr (Nat.zero_le _)
  have hset : b.setItem { x with fired := true, prio := b.capPrio r } = { b with ridge := { b.ridge with items := [{ x with fired := true, prio := b.capPrio r }] } } := by
    simp [Block.setItem, hi, Item.is]
  simp only [Block.fireItem, hr, hwaits, hqueue, if_neg hroom, hset]
  exact ⟨_, rfl⟩

/-- The item that a station makes next, as it stands once it has fired. -/
def nextItem (b : Block) (a : StRef) (r : Run) (s : Station) (slots : List (Nat × Operand)) : Item :=
  { run := stRun a, station := a.station, ordinal := s.made, slots := slots, need := slots.length, fired := true, spilled := false, prio := b.capPrio r }

/-- One more item of a station has been made. -/
def countMade (s : Station) : Station := { s with made := s.made + 1 }

/-- A block whose station has made the one item of the store. -/
def withItem (b : Block) (a : StRef) (x : Item) : Block := { b.modSt a countMade with ridge := { b.ridge with items := [x] } }

/-- In an empty store with nothing HELD, an item that has all its operands is made and fires (R364, R365). -/
theorem createItem_fires {b : Block} {a : StRef} {r : Run} {s : Station} (hr : b.findRun (stRun a) = some r) (hs : r.stations[a.station]? = some s)
    (hi : b.ridge.items = []) (hh : b.ridge.held = []) (hm : 0 < b.matchSize) (q : HeldQueue) (slots : List (Nat × Operand)) :
    ∃ cs, b.createItem a q slots slots.length = some { withItem b a (nextItem b a r s slots) with ctrs := cs } := by
  have hspill : decide (b.matchSize ≤ b.matchUsed) = false := by
    rw [Block.matchUsed, hi]
    exact decide_eq_false (Nat.not_le.mpr hm)
  have hr1 : (withItem b a { nextItem b a r s slots with fired := false, prio := 0 }).findRun (stRun a) = some (r.modSt a.station countMade) := findRun_modSt_of countMade hr
  obtain ⟨cs, hfire⟩ := fireItem_fires (x := { nextItem b a r s slots with fired := false, prio := 0 }) hr1 rfl hh rfl rfl (Nat.le_refl _)
  refine ⟨cs, ?_⟩
  simp only [Block.createItem, hr, Option.bind_some, hs, hspill, hi]
  exact congrArg some hfire

/-- Where an item can be made, the station's next one fires and what follows it goes on. -/
theorem newItemOr_fires {b : Block} {a : StRef} {r : Run} {s : Station} (hr : b.findRun (stRun a) = some r) (hs : r.stations[a.station]? = some s)
    (hi : b.ridge.items = []) (hh : b.ridge.held = []) (hm : 0 < b.matchSize) (q : HeldQueue) (slots : List (Nat × Operand)) (go : Block → Block) :
    ∃ cs, b.newItemOr a q slots slots.length go = go { withItem b a (nextItem b a r s slots) with ctrs := cs } := by
  obtain ⟨cs, h⟩ := createItem_fires hr hs hi hh hm q slots
  exact ⟨cs, by rw [Block.newItemOr, h]⟩

/-- The types of station that end once every item has completed and their input is drained, or their count is reached. -/
def countsItems (ty : StType) : Prop := ty = .size ∨ ty = .lath ∨ ty = .vat

/-- A station with an item that has not completed does not end (R186). -/
theorem settle_of_busy {b : Block} {a : StRef} {s : Station} (hs : b.stAt a = some s) (hty : countsItems s.entry.type) (hb : s.completed < s.made) : b.settle a = b := by
  have hdone : s.allDone = false := decide_eq_false (Nat.ne_of_gt hb)
  unfold Block.settle
  cases hl : b.live a with
  | none => rfl
  | some p =>
    obtain ⟨r, z⟩ := p
    have hz : z = s := Option.some.inj ((live_stAt hl).symm.trans hs)
    subst hz
    have hover : r.over a.station z = false := by
      unfold Run.over
      obtain h | h | h := hty <;> simp [h, hdone]
    simp [hover]

/-- An edge whose first tile is taken and keeps its place (R183). -/
def takeTile (t : Tile) (e : Edge) : Edge := { e with tiles := e.tiles.drop 1, taken := e.taken + 1, drained := e.drained || t.last }

/-- A station that has taken a tile at a port. -/
def countTaken (port : Nat) (t : Tile) (s : Station) : Station :=
  { s with takenAt := s.takenAt.set port (s.takenAt.getD port 0 + 1), closedIn := if t.last then s.closedIn ++ [port] else s.closedIn }

theorem take_eq {b : Block} {a : StRef} {port j : Nat} {r : Run} {e : Edge} {t : Tile} {l : List Tile} (hr : b.findRun (stRun a) = some r) (he : r.inEdge a.station port = some (j, e))
    (ht : e.tiles = t :: l) : b.take a port = (b.modEdge (stRun a) j (takeTile t)).modSt a (countTaken port t) := by
  simp only [Block.take, hr, Option.bind_some, he, ht]
  rfl

/-- The block once a station has made the one item of the store and taken its tile. -/
def tookTile (b : Block) (a : StRef) (x : Item) (j : Nat) (t : Tile) (cs : Kv Nat Ctr) : Block :=
  (({ withItem b a x with ctrs := cs } : Block).modEdge (stRun a) j (takeTile t)).modSt a (countTaken 0 t)

theorem tookTile_post {b : Block} {a : StRef} {r : Run} {s : Station} {j : Nat} {e : Edge} (hr : b.findRun (stRun a) = some r) (hs : r.stations[a.station]? = some s)
    (he : r.edges[j]? = some e) (x : Item) (t : Tile) (cs : Kv Nat Ctr) : (tookTile b a x j t cs).ridge.items = [x] ∧
    (tookTile b a x j t cs).stAt a = some (countTaken 0 t (countMade s)) ∧ (tookTile b a x j t cs).edgeAt (stRun a) j = some (takeTile t e) ∧
    (tookTile b a x j t cs).vat = b.vat ∧ (tookTile b a x j t cs).start = b.start ∧ (tookTile b a x j t cs).mem = b.mem := by
  have hr1 : ({ withItem b a x with ctrs := cs } : Block).findRun (stRun a) = some (r.modSt a.station countMade) := findRun_modSt_of countMade hr
  have hr2 : (({ withItem b a x with ctrs := cs } : Block).modEdge (stRun a) j (takeTile t)).findRun (stRun a) =
      some { r.modSt a.station countMade with edges := modAt r.edges j (takeTile t) } := findRun_modRun_of hr1 (fun _ h => h)
  have hr3 := findRun_modSt_of (countTaken 0 t) hr2
  refine ⟨rfl, ?_, ?_, rfl, rfl, rfl⟩
  · rw [tookTile, stAt_eq hr3]
    simp [Run.modSt, getElem?_modAt_self, hs]
  · rw [tookTile, Block.edgeAt, hr3]
    exact (getElem?_modAt_self r.edges j (takeTile t)).trans (by rw [he, Option.map_some])

/-- OPERAND_ARRIVAL without errors met, at an empty store. -/
theorem exec_operandArrival {s : State} (a : StRef) (port : Nat) (hi : s.b.ridge.items = []) :
    exec (.operandArrival a port []) s = lift s (fun _ => s.b.operandIn a port) := by
  show execOperandArrival a port [] s = _
  simp only [execOperandArrival, lift, meeting_nil, matchFlow_nil hi]

/-- The head tile of a SIZE station's input makes the next item. -/
theorem operandIn_size {b : Block} {a : StRef} {r : Run} {s : Station} {j : Nat} {e : Edge} {t : Tile} {l : List Tile} (hl : b.live a = some (r, s)) (hty : s.entry.type = .size)
    (he : r.inEdge a.station 0 = some (j, e)) (ht : e.tiles = t :: l) (hc : t.closing = false) :
    b.operandIn a 0 = (b.newItemOr a (.edge r.ref j) [(0, .tile t)] [((0 : Nat), Operand.tile t)].length (fun x => x.take a 0)).settle a := by
  simp only [Block.operandIn, hl, he, ht, Block.arrive1, hty, hc]
  rfl

/-- At an empty store the tile makes the station's next item and is taken, and the station, which has an item to complete, does not end. -/
theorem operandIn_size_fires {b : Block} {a : StRef} {r : Run} {s : Station} {j : Nat} {e : Edge} {t : Tile} {l : List Tile} (hi : b.ridge.items = []) (hh : b.ridge.held = [])
    (hm : 0 < b.matchSize) (hl : b.live a = some (r, s)) (hty : s.entry.type = .size) (he : r.inEdge a.station 0 = some (j, e)) (ht : e.tiles = t :: l) (hc : t.closing = false)
    (hle : s.completed ≤ s.made) : ∃ cs, b.operandIn a 0 = tookTile b a (nextItem b a r s [(0, .tile t)]) j t cs := by
  obtain ⟨hr, hs, -⟩ := live_eq_some.mp hl
  obtain ⟨cs, hnew⟩ := newItemOr_fires hr hs hi hh hm (.edge r.ref j) [(0, .tile t)] (fun x => x.take a 0)
  have hr1 : ({ withItem b a (nextItem b a r s [(0, .tile t)]) with ctrs := cs } : Block).findRun (stRun a) = some (r.modSt a.station countMade) := findRun_modSt_of countMade hr
  obtain ⟨-, hst, -⟩ := tookTile_post hr hs (inEdge_getElem? he) (nextItem b a r s [(0, .tile t)]) t cs
  refine ⟨cs, ?_⟩
  rw [operandIn_size hl hty he ht hc, hnew, take_eq hr1 he ht]
  exact settle_of_busy hst (.inl hty) (Nat.lt_succ_of_le hle)

/-- A station with no input makes its next item, within its count and its 64 undispatched. -/
theorem operandIn_noInput {b : Block} {a : StRef} {r : Run} {s : Station} {port : Nat} (hl : b.live a = some (r, s)) (he : r.inEdge a.station port = none)
    (hn : r.noInput a.station = true) (hcount : s.made < s.inputless) (h64 : s.made < s.dispatched + 64) :
    b.operandIn a port = (b.newItemOr a (.items (stRun a) a.station) [] ([] : List (Nat × Operand)).length (fun x => x)).settle a := by
  have h : s.made < s.inputless ∧ s.made - s.dispatched < 64 := ⟨hcount, by omega⟩
  simp only [Block.operandIn, hl, he, hn, Block.makeItem, if_pos h]
  rfl

/-- At an empty store that item fires, and the station, which has it to complete, does not end. -/
theorem operandIn_noInput_fires {b : Block} {a : StRef} {r : Run} {s : Station} {port : Nat} (hi : b.ridge.items = []) (hh : b.ridge.held = []) (hm : 0 < b.matchSize)
    (hl : b.live a = some (r, s)) (hty : countsItems s.entry.type) (he : r.inEdge a.station port = none) (hn : r.noInput a.station = true) (hcount : s.made < s.inputless)
    (h64 : s.made < s.dispatched + 64) (hle : s.completed ≤ s.made) :
    ∃ cs, b.operandIn a port = { withItem b a (nextItem b a r s []) with ctrs := cs } ∧ (b.operandIn a port).stAt a = some (countMade s) := by
  obtain ⟨hr, hs, -⟩ := live_eq_some.mp hl
  obtain ⟨cs, hnew⟩ := newItemOr_fires hr hs hi hh hm (.items (stRun a) a.station) [] (fun x => x)
  have hst : ({ withItem b a (nextItem b a r s []) with ctrs := cs } : Block).stAt a = some (countMade s) :=
    (stAt_modSt_self b a countMade).trans (by rw [live_stAt hl, Option.map_some])
  have hin : b.operandIn a port = { withItem b a (nextItem b a r s []) with ctrs := cs } := by
    rw [operandIn_noInput hl he hn hcount h64, hnew]
    exact settle_of_busy hst hty (Nat.lt_succ_of_le hle)
  exact ⟨cs, hin, by rw [hin, hst]⟩

/-! ## Items whose work is done -/

/-- A station without an item that has ended, which counts as completed. -/
def dropItem (n : Nat) (s : Station) : Station := { s with active := s.active.filter (fun y => y.ordinal ≠ n), completed := s.completed + 1 }

/-- The end of an item: it leaves its station, and then tiles flow. -/
theorem endItem_flows {b : Block} (a : StRef) (s : Station) (x : Active) (hi : b.ridge.items = []) : Flows (b.modSt a (dropItem x.ordinal)) (b.endItem a s x) := by
  have hrel := Flows.releaseSlots (b.modSt a (dropItem x.ordinal)) a s x.slots
  have hflow := matchFlow_nil (hrel.items.trans hi)
  have hend : b.endItem a s x = (((b.modSt a (dropItem x.ordinal)).releaseSlots a s x.slots).matchFlow).settle a := rfl
  rw [hend, hflow]
  exact hrel.trans (Flows.settle _ a)

/-- What the end of an item leaves: its station's counts, and everything but runs and the record of what flowed. -/
theorem endItem_post {b : Block} {a : StRef} {z : Station} (s : Station) (x : Active) (hi : b.ridge.items = []) (hz : b.stAt a = some z) :
    ((b.endItem a s x).canonMem.stAt a).any (fun y => decide (y.completed = z.completed + 1 ∧ y.active = z.active.filter (fun y => y.ordinal ≠ x.ordinal))) = true ∧
    (b.endItem a s x).canonMem.vat = b.vat ∧ (b.endItem a s x).canonMem.start = b.start ∧ (b.endItem a s x).canonMem.cores = b.cores ∧
    (b.endItem a s x).canonMem.memKept b := by
  have h := endItem_flows a s x hi
  generalize b.endItem a s x = b' at h ⊢
  obtain ⟨y, hy, hitems⟩ := h.stAt (s := dropItem x.ordinal z) (by rw [stAt_modSt_self, hz, Option.map_some])
  simp only [itemsOf, Prod.mk.injEq] at hitems
  obtain ⟨-, -, hcompleted, hactive⟩ := hitems
  exact ⟨(Option.any_eq_true _ _).mpr ⟨y, hy, decide_eq_true ⟨hcompleted, hactive⟩⟩, h.vat, h.start, h.cores, Block.memKept_canonMem h.mem⟩

section
variable {s : State} {a : StRef} {n : Nat} {r : Run} {st : Station} {x : Active} (hl : s.b.live a = some (r, st)) (hx : st.item n = some x)
include hl hx

/-- ITEM_COMPLETE of an item whose unit has done its work. -/
theorem exec_itemComplete_done (hd : x.done = true) (hty : st.entry.type ≠ .lath) : exec (.itemComplete a n) s = lift s (fun b => b.endItem a st x) := by
  show execItemComplete a n s = _
  simp only [execItemComplete, lift, hl, hx, if_neg hty, hd]
  rfl

/-- ITEM_COMPLETE of an item whose unit is at work (log entry 10). -/
theorem exec_itemComplete_early (hd : x.done = false) (hty : st.entry.type ≠ .lath) : exec (.itemComplete a n) s = lift s (fun b => b) := by
  show execItemComplete a n s = _
  simp only [execItemComplete, lift, hl, hx, if_neg hty, hd]
  rfl

/-- ITEM_COMPLETE of an item of a LATH station whose threads have exited. -/
theorem exec_itemComplete_lath (hty : st.entry.type = .lath) {k : Nat} {it : LItem} (hk : (s.b.core (72 * x.field + x.unit)).slotOf a n = some (k, it))
    (ho : (s.b.core (72 * x.field + x.unit)).itemOver k it = true) :
    exec (.itemComplete a n) s = lift s (fun b => b.endLath a st x (72 * x.field + x.unit) k it) := by
  show execItemComplete a n s = _
  simp only [execItemComplete, lift, hl, hx, if_pos hty, hk, if_pos ho]

/-- WATCHDOG_TIMEOUT of an item that has run as long as the watchdog allows (R361). -/
theorem exec_watchdogTimeout {g : Image} (hg : s.b.start.img = some g) (hw : g.watchdog ≤ s.b.coreSince x.at_) :
    exec (.watchdogTimeout a n) s = lift s (fun b => if st.entry.type = .lath then b.killLath (72 * x.field + x.unit) a n stWatchdog (BitVec.ofNat 32 n) else b.killAt a stWatchdog (BitVec.ofNat 32 n)) := by
  show execWatchdogTimeout a n s = _
  simp only [execWatchdogTimeout, lift, hl, hg, hx, if_neg (Nat.not_lt.mpr hw)]

/-- WATCHDOG_TIMEOUT that comes early (R10, log entry 11). -/
theorem exec_watchdogTimeout_early {g : Image} (hg : s.b.start.img = some g) (hw : s.b.coreSince x.at_ < g.watchdog) : exec (.watchdogTimeout a n) s = lift s (fun b => b) := by
  show execWatchdogTimeout a n s = _
  simp only [execWatchdogTimeout, lift, hl, hg, hx, if_pos hw]

end

/-- The core of an item that has ended, the launch left where it was withdrawn. -/
theorem leave_items (c : LCore) : c.leave.items = c.items := by
  unfold LCore.leave
  split <;> rfl

/-- A kill of a Lath item sets its error registers and kills its run (R362). -/
theorem killLath_eq (b : Block) (core : Nat) (a : StRef) (ord cause : Nat) (d : Word) : ∃ es ls p o,
    b.killLath core a ord cause d = ({ b with errs := es, lasts := ls, pins := { b.pins with mgAlertN := p }, out := o } : Block).killOrd (stRun a) cause a.station ord d := by
  obtain ⟨p, o, h⟩ := b.setErr_eq (Map.lthErr (core / 72)) (BitVec.ofNat 32 (2 ^ lathErrBit cause))
  exact ⟨_, _, p, o, by rw [Block.killLath, Block.setErrBit, h]; rfl⟩

/-- The kill of a run that is alone, raised by an item: the run is marked, and nothing but the Ridge and the seats follows. -/
theorem killOrd_post {b : Block} {r : Run} {ref : RunRef} (hruns : b.runs = [r]) (href : r.ref = ref) (hk : r.killed = none) (cause station ord : Nat) (d : Word) :
    (b.killOrd ref cause station ord d).canonMem.runs = [{ r with killed := some (killOf b r cause station ord d) }] ∧ (b.killOrd ref cause station ord d).canonMem.errs = b.errs ∧
    (b.killOrd ref cause station ord d).canonMem.lasts = b.lasts ∧ (b.killOrd ref cause station ord d).canonMem.vat = b.vat ∧ (b.killOrd ref cause station ord d).canonMem.streams = b.streams ∧
    (b.killOrd ref cause station ord d).canonMem.memKept b := by
  refine ⟨killOrd_runs hruns href hk _ _ _ _, ?_⟩
  obtain ⟨g, ss, h⟩ := killOrd_eq (findRun_single hruns href) hk cause station ord d
  rw [h]
  exact ⟨rfl, rfl, rfl, rfl, Block.memKept_canonMem rfl⟩

/-- A LATH item leaves its slot, is counted, and its flags join its station's; then it ends (R335, R360). -/
def leftCore (b : Block) (a : StRef) (x : Active) (c k : Nat) (it : LItem) : Block :=
  (((b.modCore c (fun y => ({ y with items := y.items.del k } : LCore).leave)).bump (Map.lthItemCnt x.field) 1).bump (Map.rdgCoreItems c) 1).modLath a
    (fun l => { l with ovf := l.ovf || it.ovf, unf := l.unf || it.unf })

theorem endLath_eq (b : Block) (a : StRef) (s : Station) (x : Active) (c k : Nat) (it : LItem) : b.endLath a s x c k it = (leftCore b a x c k it).endItem a s x := rfl

theorem leftCore_keeps (b : Block) (a : StRef) (x : Active) (c k : Nat) (it : LItem) (hi : b.ridge.items = []) :
    (leftCore b a x c k it).ridge.items = [] ∧ (leftCore b a x c k it).vat = b.vat ∧ (leftCore b a x c k it).start = b.start ∧ (leftCore b a x c k it).memKept b :=
  ⟨hi, rfl, rfl, fun _ => rfl⟩

theorem leftCore_stAt {b : Block} {a : StRef} {s : Station} (x : Active) (c k : Nat) (it : LItem) (h : b.stAt a = some s) :
    ∃ z, (leftCore b a x c k it).stAt a = some z ∧ z.completed = s.completed ∧ z.active = s.active := by
  have hmod : (leftCore b a x c k it).stAt a = (b.modLath a (fun l => { l with ovf := l.ovf || it.ovf, unf := l.unf || it.unf })).stAt a := rfl
  refine ⟨{ s with body := .lath { s.lath with ovf := s.lath.ovf || it.ovf, unf := s.lath.unf || it.unf } }, ?_, rfl, rfl⟩
  rw [hmod, Block.modLath, stAt_modSt_self, h]
  rfl

/-- The core's slot is empty, its other slots and the other cores are as they were. -/
theorem leftCore_cores (b : Block) (a : StRef) (x : Active) (c k : Nat) (it : LItem) : ((leftCore b a x c k it).core c).items.get k = none ∧
    (∀ j, j ≠ k → ((leftCore b a x c k it).core c).items.get j = (b.core c).items.get j) ∧ ∀ d, d ≠ c → (leftCore b a x c k it).core d = b.core d := by
  have hcore (d : Nat) : (leftCore b a x c k it).core d = (b.modCore c (fun y => ({ y with items := y.items.del k } : LCore).leave)).core d := rfl
  refine ⟨?_, fun j hj => ?_, fun d hd => ?_⟩
  · rw [hcore, Block.core_modCore_self, leave_items, Kv.get_del_self]
  · rw [hcore, Block.core_modCore_self, leave_items, Kv.get_del_ne _ (Ne.symm hj)]
  · rw [hcore, Block.core_modCore_ne b _ (Ne.symm hd)]

theorem core_congr {b c : Block} (h : c.cores = b.cores) (d : Nat) : c.core d = b.core d := by rw [Block.core, Block.core, h]

/-- What the end of a LATH item leaves: its station's counts, its slot free and every other slot and core as it was (R335, R360). -/
theorem endLath_post {b : Block} {a : StRef} {s : Station} (x : Active) (c k : Nat) (it : LItem) (hi : b.ridge.items = []) (hs : b.stAt a = some s) :
    ((b.endLath a s x c k it).canonMem.stAt a).any (fun z => decide (z.completed = s.completed + 1 ∧ z.active = s.active.filter (fun y => y.ordinal ≠ x.ordinal))) = true ∧
    ((b.endLath a s x c k it).canonMem.core c).items.get k = none ∧
    (∀ j, j ≠ k → ((b.endLath a s x c k it).canonMem.core c).items.get j = (b.core c).items.get j) ∧
    (∀ d, d ≠ c → (b.endLath a s x c k it).canonMem.core d = b.core d) ∧ (b.endLath a s x c k it).canonMem.vat = b.vat ∧
    (b.endLath a s x c k it).canonMem.start = b.start ∧ (b.endLath a s x c k it).canonMem.memKept b := by
  obtain ⟨z, hz, hzc, hza⟩ := leftCore_stAt x c k it hs
  obtain ⟨hslot, hslots, hothers⟩ := leftCore_cores b a x c k it
  obtain ⟨hi0, hv0, hstart0, hmem0⟩ := leftCore_keeps b a x c k it hi
  obtain ⟨hpost, hv, hstart, hcores, hmem⟩ := endItem_post s x hi0 hz
  rw [hzc, hza] at hpost
  rw [endLath_eq]
  generalize (leftCore b a x c k it).endItem a s x = b' at *
  exact ⟨hpost, by rw [core_congr hcores]; exact hslot, fun j hj => by rw [core_congr hcores]; exact hslots j hj, fun d hd => (core_congr hcores d).trans (hothers d hd),
    hv.trans hv0, hstart.trans hstart0, fun i => (hmem i).trans (hmem0 i)⟩

end Sys2Proof.StationsAndRuns
end

section
/-! SUPPORT. O36: loads leave the Ridge and the runs (R388, R400 to R406), and the former of a YEALM leaves what is dispatched (R285, R294). -/
namespace Sys2Proof.StationsAndRuns
open Sys2Proof.Machine

/-! ## Loads -/

/-- The runs and the Ridge are as they were. -/
def SameWork (b c : Block) : Prop := c.runs = b.runs ∧ c.ridge = b.ridge

namespace SameWork

theorem refl (b : Block) : SameWork b b := ⟨rfl, rfl⟩

theorem trans {b c d : Block} (h : SameWork b c) (k : SameWork c d) : SameWork b d := ⟨k.1.trans h.1, k.2.trans h.2⟩

theorem foldl {α : Type} {f : Block → α → Block} (hf : ∀ b x, SameWork b (f b x)) (l : List α) (b : Block) : SameWork b (l.foldl f b) := by
  induction l generalizing b with
  | nil => exact refl b
  | cons x l ih => exact (hf b x).trans (ih (f b x))

theorem bump (b : Block) (q n : Nat) : SameWork b (b.bump q n) := ⟨rfl, rfl⟩

theorem modSheet (b : Block) (t num : Nat) (f : Sheet → Sheet) : SameWork b (b.modSheet t num f) := ⟨rfl, rfl⟩

theorem xlate (b : Block) (f t va : Nat) : SameWork b (b.xlate f t va) := by
  simp only [Block.xlate]
  split
  · exact ⟨rfl, rfl⟩
  · refine trans ?_ (bump _ _ _)
    split
    · exact ⟨rfl, rfl⟩
    · exact refl b

theorem cross (b : Block) (x y : Nat) : SameWork b (b.cross x y) := by
  unfold Block.cross
  split
  · exact refl b
  · exact (bump b _ _).trans (bump _ _ _)

theorem wakeStack (b : Block) (pa : Nat) : SameWork b (b.wakeStack pa) := by
  unfold Block.wakeStack
  split
  · exact ⟨rfl, rfl⟩
  · exact refl b

theorem rebuild {b c : Block} {pa : Nat} (h : b.rebuild pa = some c) : SameWork b c := by
  unfold Block.rebuild at h
  split at h
  · split at h
    · cases h
      exact ⟨rfl, rfl⟩
    · cases h
  · cases h

theorem readSector (b : Block) (pa n : Nat) : SameWork b (b.readSector pa n).1 := by
  unfold Block.readSector
  split
  · split
    · exact refl b
    · exact bump b _ _
  · split
    · simp only []
      split
      · split
        · next h => exact (wakeStack b pa).trans (rebuild h)
        · exact wakeStack b pa
      · exact wakeStack b pa
    · exact refl b

theorem takeSlot {b c : Block} {kind : RowKind} {d : Nat × Nat} (h : b.takeSlot kind = some (c, d)) : SameWork b c := by
  unfold Block.takeSlot at h
  split at h
  · cases h
    exact refl b
  · split at h
    · cases h
    · split at h
      · cases h
      · cases h
        exact ⟨rfl, rfl⟩

theorem takeSheet {b c : Block} {kind : RowKind} {d : Nat × Nat} (h : b.takeSheet kind = some (c, d)) : SameWork b c := by
  unfold Block.takeSheet at h
  split at h
  · cases h
  · split at h
    · obtain ⟨g, -, hg⟩ := List.exists_of_findSome?_eq_some h
      exact takeSlot hg
    · exact takeSlot h

theorem startPaging (b : Block) (t num : Nat) (d : Nat × Nat) : SameWork b (b.startPaging t num d) := ⟨rfl, rfl⟩

theorem beginEvict (b : Block) (v : Sheet) : SameWork b (b.beginEvict v) := by
  unfold Block.beginEvict
  split
  · simp only []
    split
    · exact refl b
    · refine trans ?_ (modSheet _ _ _ _)
      split
      · exact refl b
      · exact ⟨rfl, rfl⟩
  · exact refl b

theorem findRoom (b : Block) (t num : Nat) (kind : RowKind) : SameWork b (b.findRoom t num kind) := by
  unfold Block.findRoom
  split
  · exact refl b
  · split
    · next x h =>
      have hslot : b.takeSlot kind = some x := by
        split at h
        · cases h
        · exact h
      exact (takeSlot hslot).trans (startPaging _ _ _ _)
    · split
      · exact refl b
      · simp only []
        split
        · exact beginEvict b _
        · split
          · next h => exact (takeSheet h).trans (startPaging _ _ _ _)
          · exact refl b

theorem serveWaits (b : Block) : SameWork b b.serveWaits := by
  unfold Block.serveWaits
  refine foldl (fun x s => ?_) _ b
  split
  · exact findRoom x _ _ _
  · exact refl x

theorem cancelEvict (b : Block) (t num : Nat) : SameWork b (b.cancelEvict t num) := by
  unfold Block.cancelEvict
  split
  · split
    · split
      · exact refl b
      · exact (modSheet b t num _).trans (serveWaits _)
    · exact refl b
  · exact refl b

theorem loadPiece (b : Block) (f t va n : Nat) (acc : Acc) : SameWork b (b.loadPiece f t va n acc).1 := by
  unfold Block.loadPiece
  simp only []
  split
  · exact (((xlate b f t va).trans (cancelEvict _ _ _)).trans (modSheet _ _ _ _)).trans ((cross _ _ _).trans (readSector _ _ _))
  · exact xlate b f t va

theorem loadPieces (f t : Nat) (acc : Acc) (l : List (Nat × Nat)) (b : Block) (d : List Byte) : SameWork b (Block.loadPieces f t acc l b d).1 := by
  induction l generalizing b d with
  | nil => exact refl b
  | cons p l ih =>
    unfold Block.loadPieces
    simp only []
    split
    · exact (loadPiece b f t _ _ acc).trans (ih _ _)
    · exact loadPiece b f t _ _ acc

theorem readAll (b : Block) (f t : Nat) (l : List (Nat × Nat)) : SameWork b (b.readAll f t l) :=
  foldl (fun x (r : Nat × Nat) => loadPieces f t .load (pieces r.1 r.2) x []) l b

end SameWork

/-! ## The former of a YEALM -/

/-- Stations have dispatched what they had, and an empty store stays empty. -/
structure KeepsDispatch (b c : Block) : Prop where
  items : b.ridge.items = [] → c.ridge.items = []
  stations : ∀ a, (c.stAt a).map (fun s => s.dispatched) = (b.stAt a).map (fun s => s.dispatched)

namespace KeepsDispatch

theorem refl (b : Block) : KeepsDispatch b b := ⟨fun h => h, fun _ => rfl⟩

theorem trans {b c d : Block} (h : KeepsDispatch b c) (k : KeepsDispatch c d) : KeepsDispatch b d :=
  ⟨fun hi => k.items (h.items hi), fun a => (k.stations a).trans (h.stations a)⟩

theorem foldl {α : Type} {f : Block → α → Block} (hf : ∀ b x, KeepsDispatch b (f b x)) (l : List α) (b : Block) : KeepsDispatch b (l.foldl f b) := by
  induction l generalizing b with
  | nil => exact refl b
  | cons x l ih => exact (hf b x).trans (ih (f b x))

theorem of_sameWork {b c : Block} (h : SameWork b c) : KeepsDispatch b c :=
  ⟨fun hi => by rw [h.2, hi], fun a => by rw [stAt_congr h.1 a]⟩

theorem modSt (b : Block) (a : StRef) (f : Station → Station) (hf : ∀ s, (f s).dispatched = s.dispatched) : KeepsDispatch b (b.modSt a f) := by
  refine ⟨fun h => h, fun c => ?_⟩
  rw [stAt_modSt, Option.map_map]
  congr 1
  funext s
  by_cases hc : c = a <;> simp [hc, hf]

theorem itemDone (b : Block) (a : StRef) (n : Nat) : KeepsDispatch b (b.itemDone a n) := modSt b a _ (fun _ => rfl)

theorem killOrd (b : Block) (r : RunRef) (cause station ord : Nat) (d : Word) : KeepsDispatch b (b.killOrd r cause station ord d) := by
  have hmark (k : KillInfo) (a : StRef) : (b.modRun r (fun x => { x with killed := some k })).stAt a = b.stAt a :=
    stAt_modRun b r (fun x => { x with killed := some k }) (fun _ h => h) (fun _ => rfl) a
  unfold Block.killOrd
  split
  · exact refl b
  · simp only []
    split
    · split
      · exact ⟨fun h => h, fun a => by rw [hmark]⟩
      · exact refl b
    · exact ⟨fun h => by simp [h], fun a => congrArg (Option.map _) (hmark _ a)⟩

theorem formRays (b : Block) (a : StRef) (r : Run) (s : Station) : KeepsDispatch b (b.formRays a r s) := by
  have hread (c : Prop) [Decidable c] (f t : Nat) (l : List (Nat × Nat)) : KeepsDispatch b (if c then b.readAll f t l else b) := by
    split
    · exact of_sameWork (SameWork.readAll b f t l)
    · exact refl b
  have hform (x : Block) (n : Nat) (g : YealmSt → YealmSt) : KeepsDispatch x ((x.bump (Map.yeaRayCnt s.homeField) n).modYealm a g) :=
    (of_sameWork (SameWork.bump x _ n)).trans (modSt _ a _ (fun _ => rfl))
  simp only [Block.formRays]
  split
  · exact ((hread _ _ _ _).trans (hform _ _ _)).trans (foldl (fun x (i : Active) => itemDone x a i.ordinal) _ _)
  · exact (hread _ _ _ _).trans (hform _ _ _)

theorem yealmForm (b : Block) (a : StRef) : KeepsDispatch b (b.yealmForm a) := by
  unfold Block.yealmForm
  split
  · exact refl b
  · simp only []
    split
    · exact refl b
    · split
      · exact refl b
      · split
        · exact killOrd b _ _ _ _ _
        · exact formRays b a _ _

theorem yealmStart (b : Block) (a : StRef) (l : List (Nat × Operand)) : KeepsDispatch b (b.yealmStart a l) := by
  unfold Block.yealmStart
  split
  · refine trans ?_ (yealmForm _ a)
    exact modSt b a _ (fun _ => rfl)
  · exact refl b

end KeepsDispatch

end Sys2Proof.StationsAndRuns
end

section
/-! SUPPORT. O36: a fired item goes to a unit (R367, R375), and what dispatch leaves for each type of station (R333, R364). -/
namespace Sys2Proof.StationsAndRuns
open Sys2Proof.Machine

/-! ## The port's choice -/

/-- An item that has fired and stands in the store waits for nothing of it. -/
theorem matchFlow_fired {b : Block} {x : Item} (hi : b.ridge.items = [x]) (hf : x.fired = true) (hsp : x.spilled = false) : b.matchFlow = b := by
  have hret : Block.returnSpilled b.ridge.items.length b = b := by simp [hi, Block.returnSpilled, hsp]
  have hfire : b.fireItem x = b := by
    unfold Block.fireItem
    split
    · rfl
    · simp [hf]
  rw [Block.matchFlow, hret, Block.fireAll, hi]
  exact hfire

section
variable {b : Block} {f u k : Nat} {x : Item} {r : Run} {st : Station} (hi : b.ridge.items = [x]) (hl : b.live x.at_ = some (r, st)) (hf : x.fired = true)
  (hsp : x.spilled = false) (ho : x.ordinal = st.dispatched) (hw : b.withheldPrio f x.prio = false) (hp : b.placeFor r x.station st f = some (u, k))
include hi hl hf hsp ho hw hp

theorem candidates_single : b.candidates f = [(x, r, st, u, k)] := by
  have hallowed : b.allowed x = some (r, st) := by simp [Block.allowed, hl, hf, hsp, ho]
  simp [Block.candidates, hi, hallowed, hw, hp]

/-- A port with one candidate serves it (R375). -/
theorem choose_single : b.choose f = some (x, r, st, u, k) := by
  simp [Block.choose, candidates_single hi hl hf hsp ho hw hp, sortBy, insertBy]

end

/-- Without items no core is marked for withdrawal (R379). -/
theorem withdrawFor_nil {b : Block} (f : Nat) (h : b.ridge.items = []) : b.withdrawFor f = b := by simp [Block.withdrawFor, h]

/-! ## What a dispatch leaves -/

/-- An item as its unit begins it. -/
def begun (b : Block) (f u : Nat) (x : Item) : Active := { ordinal := x.ordinal, field := f, unit := u, slots := x.slots, at_ := b.now, done := false, freed := false }

/-- A station that has dispatched an item. -/
def countDispatched (y : Active) (s : Station) : Station := { s with dispatched := s.dispatched + 1, active := s.active ++ [y] }

/-- The block as an item has left the store, before its unit begins it. -/
def leftStore (b : Block) (f u : Nat) (x : Item) (s : Station) : Block :=
  ((({ b with ridge := { b.ridge with items := b.ridge.items.filter (fun y => !y.is x.run x.station x.ordinal), served := b.ridge.served.set (f, x.prio) s.queue } } : Block).modSt
    x.at_ (countDispatched (begun b f u x))).bump Map.rdgDispCnt 1).bump (Map.rdgPrioDisp x.prio) 1

/-- What every dispatch begins with: the store is empty, the item stands on its unit and is counted, and nothing else has changed. -/
structure LeftStore (old b : Block) (f u : Nat) (x : Item) (s : Station) : Prop where
  items : b.ridge.items = []
  ctr : b.ctr Map.rdgDispCnt = old.ctr Map.rdgDispCnt + 1#32
  stAt : b.stAt x.at_ = some (countDispatched (begun old f u x) s)
  cores : b.cores = old.cores
  vat : b.vat = old.vat
  start : b.start = old.start
  mem : b.mem = old.mem

theorem leftStore_post {b : Block} {x : Item} {s : Station} (f u : Nat) (hi : b.ridge.items = [x]) (hs : b.stAt x.at_ = some s) : LeftStore b (leftStore b f u x s) f u x s := by
  refine ⟨?_, ?_, ?_, rfl, rfl, rfl, rfl⟩
  · have hfilter : (leftStore b f u x s).ridge.items = b.ridge.items.filter (fun y => !y.is x.run x.station x.ordinal) := rfl
    rw [hfilter, hi]
    simp [Item.is]
  · have hne : Map.rdgPrioDisp x.prio ≠ Map.rdgDispCnt := by simp only [Map.rdgPrioDisp, Map.rdgDispCnt]; omega
    rw [leftStore, Block.ctr_bump_ne _ _ hne, Block.ctr_bump_self]
    rfl
  · have hmod : (leftStore b f u x s).stAt x.at_ = (b.modSt x.at_ (countDispatched (begun b f u x))).stAt x.at_ := rfl
    rw [hmod, stAt_modSt_self, hs, Option.map_some]

/-! ## What a GATE sends -/

/-- A packet to a source moves no item (R63, R167). -/
theorem sendPacket_flows (b : Block) (src : Nat) (l : List Byte) (r : Option (Nat × Word)) : Flows b (b.sendPacket src l r) := by
  unfold Block.sendPacket
  split
  · obtain ⟨ss, cs, o, h⟩ := b.seatSend_eq src { kind := 5, hdr := mkHdr 5 (ceilDiv l.length 16) 0 0 0 0 0, data := padTo 16 l, cells := 1 + ceilDiv l.length 16, sent := 0, run := r }
    rw [Block.seatCommandOut, h]
    exact ⟨rfl, rfl, rfl, rfl, rfl, fun _ => rfl⟩
  · exact ⟨rfl, rfl, rfl, rfl, rfl, fun _ => rfl⟩

theorem countSizing_flows (b : Block) (f : Nat) (y : Tally) : Flows b (b.countSizing f y) := by
  obtain ⟨cs, h, -⟩ := countSizing_eq b f y
  rw [h]
  exact ⟨rfl, rfl, rfl, rfl, rfl, fun _ => rfl⟩

/-- What a GATE sends flows to its source, and moves no item (R185). -/
theorem gateOut_flows (b : Block) (a : StRef) (r : Run) (s : Station) (t : Tile) : Flows b (b.gateOut a r s t) := by
  have hcount (c : Prop) [Decidable c] (y : Tally) : Flows b (if c then b else b.countSizing s.homeField y) := by
    split
    · exact Flows.refl b
    · exact countSizing_flows b _ y
  simp only [Block.gateOut]
  refine Flows.trans ?_ (Flows.foldl (fun x p => sendPacket_flows x _ p _) _ _)
  refine Flows.trans ?_ (Flows.modSt _ a _ (fun _ => rfl))
  exact (hcount _ _).trans (Flows.modRun _ _ _ (fun _ h => h) (fun _ => rfl))

/-- Work that is done stays done. -/
theorem workDone_workDone (l : List Active) (n : Nat) : workDone (workDone l n) n = workDone l n := by
  simp only [workDone, List.map_map]
  congr 1
  funext y
  by_cases h : y.ordinal = n <;> simp [h]

/-- A GATE that sends the tiles of an item, whose work is then done. -/
def gateSend (a : StRef) (r : Run) (s : Station) (n : Nat) (l : List (Nat × Tile)) (b : Block) : Block := l.foldl (fun y t => (y.gateOut a r s t.2).itemDone a n) b

/-- What the sending of an item's tiles leaves: the counts of its station, and its work done with the first tile. -/
theorem gateSend_post (a : StRef) (r : Run) (s : Station) (n : Nat) (l : List (Nat × Tile)) {b : Block} {z : Station} (hz : b.stAt a = some z) :
    (gateSend a r s n l b).vat = b.vat ∧ (gateSend a r s n l b).start = b.start ∧ (gateSend a r s n l b).cores = b.cores ∧ (gateSend a r s n l b).mem = b.mem ∧
    (gateSend a r s n l b).ridge.items = b.ridge.items ∧
    ∃ y, (gateSend a r s n l b).stAt a = some y ∧ y.dispatched = z.dispatched ∧ y.active = if l = [] then z.active else workDone z.active n := by
  induction l generalizing b z with
  | nil => exact ⟨rfl, rfl, rfl, rfl, rfl, z, hz, rfl, rfl⟩
  | cons t l ih =>
    have hcons : gateSend a r s n (t :: l) b = gateSend a r s n l ((b.gateOut a r s t.2).itemDone a n) := rfl
    have hflow := gateOut_flows b a r s t.2
    rw [hcons]
    generalize b.gateOut a r s t.2 = c at hflow ⊢
    obtain ⟨y, hy, hitems⟩ := hflow.stAt hz
    simp only [itemsOf, Prod.mk.injEq] at hitems
    obtain ⟨-, hd, -, ha⟩ := hitems
    obtain ⟨hv, hs, hc, hm, hi, w, hw, hwd, hwa⟩ := ih (b := c.itemDone a n) (z := { y with active := workDone y.active n })
      (by rw [Block.itemDone, stAt_modSt_self, hy]; rfl)
    refine ⟨hv.trans hflow.vat, hs.trans hflow.start, hc.trans hflow.cores, hm.trans hflow.mem, hi.trans hflow.items, w, hw, hwd.trans hd, ?_⟩
    rw [hwa, ha]
    by_cases hl : l = [] <;> simp [hl, workDone_workDone]

/-! ## Dispatch by type -/

section
variable (b : Block) (f u k : Nat) (x : Item) (r : Run) (s : Station)

theorem dispatch_gate (hty : s.entry.type = .gate) : b.dispatch f x r s u k = gateSend x.at_ r s x.ordinal (slotTiles x.slots) (leftStore b f u x s) := by
  simp only [Block.dispatch, hty]
  rfl

theorem dispatch_yealm (hty : s.entry.type = .yealm) : b.dispatch f x r s u k = (leftStore b f u x s).yealmStart x.at_ x.slots := by
  simp only [Block.dispatch, hty]
  rfl

theorem dispatch_lath (hty : s.entry.type = .lath) :
    b.dispatch f x r s u k = { (leftStore b f u x s).hostItem r x.station s (72 * f + u) k x with free := b.free + 2 ^ 18 } := by
  simp only [Block.dispatch, hty]
  rfl

theorem dispatch_plain (hl : s.entry.type ≠ .lath) (hy : s.entry.type ≠ .yealm) (hg : s.entry.type ≠ .gate) : b.dispatch f x r s u k = leftStore b f u x s := by
  simp only [Block.dispatch]
  rfl

/-- Hosting an item changes cores alone. -/
theorem hostItem_eq (i core slot : Nat) : ∃ cs, b.hostItem r i s core slot x = { b with cores := cs } := ⟨_, rfl⟩

/-- The core that hosts an item: the launch of its station, and the item in the slot (R333, R334). -/
theorem hostItem_core (i core slot : Nat) : ((b.hostItem r i s core slot x).core core).launch = some (r.launchOf i s) ∧
    (((b.hostItem r i s core slot x).core core).items.get slot).any (fun y => y.ordinal = x.ordinal) = true := by
  simp only [Block.hostItem, Block.core_modCore_self, Kv.get_set_self]
  exact ⟨trivial, decide_eq_true rfl⟩

end

/-- The tiles of an item that holds some. -/
theorem slotTiles_ne_nil {l : List (Nat × Operand)} (h : l ≠ []) : slotTiles l ≠ [] := by simpa [slotTiles] using h

/-- What the dispatch of an item leaves, by its station's type. -/
def Dispatched (old : Block) (f u k : Nat) (x : Item) (r : Run) (s : Station) (b : Block) : Prop :=
  b.ridge.items = [] ∧ (s.entry.type ≠ .yealm → s.entry.type ≠ .gate → b.ctr Map.rdgDispCnt = old.ctr Map.rdgDispCnt + 1#32) ∧
  (b.stAt x.at_).any (fun z => decide (z.dispatched = s.dispatched + 1)) = true ∧
  (s.entry.type ≠ .yealm → s.entry.type ≠ .gate → (b.stAt x.at_).any (fun z => decide (z.active = s.active ++ [begun old f u x])) = true) ∧
  (s.entry.type = .gate → x.slots ≠ [] → (b.stAt x.at_).any (fun z => decide (z.active = workDone (s.active ++ [begun old f u x]) x.ordinal)) = true) ∧
  (s.entry.type = .lath → (b.core (72 * f + u)).launch = some (r.launchOf x.station s) ∧ ((b.core (72 * f + u)).items.get k).any (fun y => y.ordinal = x.ordinal) = true) ∧
  (s.entry.type ≠ .yealm → (s.entry.type ≠ .lath → b.cores = old.cores) ∧ b.vat = old.vat ∧ b.start = old.start ∧ b.memKept old)

section
variable {old b : Block} {f u : Nat} {x : Item} {s : Station} (h : LeftStore old b f u x s) (k : Nat) (r : Run)
include h

/-- An item with no more to do than to stand on its unit. -/
theorem dispatched_plain (hl : s.entry.type ≠ .lath) (hg : s.entry.type ≠ .gate) : Dispatched old f u k x r s b.canonMem :=
  ⟨h.items, fun _ _ => h.ctr, (Option.any_eq_true _ _).mpr ⟨_, h.stAt, decide_eq_true rfl⟩, fun _ _ => (Option.any_eq_true _ _).mpr ⟨_, h.stAt, decide_eq_true rfl⟩,
    fun hty => absurd hty hg, fun hty => absurd hty hl, fun _ => ⟨fun _ => h.cores, h.vat, h.start, Block.memKept_canonMem h.mem⟩⟩

/-- An item that a core hosts (R333, R334). -/
theorem dispatched_lath (hl : s.entry.type = .lath) (n : Nat) :
    Dispatched old f u k x r s ({ b.hostItem r x.station s (72 * f + u) k x with free := n } : Block).canonMem := by
  have hcore := hostItem_core b x r s x.station (72 * f + u) k
  obtain ⟨cs, hhost⟩ := hostItem_eq b x r s x.station (72 * f + u) k
  rw [hhost] at hcore ⊢
  exact ⟨h.items, fun _ _ => h.ctr, (Option.any_eq_true _ _).mpr ⟨_, h.stAt, decide_eq_true rfl⟩, fun _ _ => (Option.any_eq_true _ _).mpr ⟨_, h.stAt, decide_eq_true rfl⟩,
    fun hty => absurd (hl.symm.trans hty) (by decide), fun _ => hcore, fun _ => ⟨fun hty => absurd hl hty, h.vat, h.start, Block.memKept_canonMem h.mem⟩⟩

/-- An item whose rows the former of a YEALM takes (R285). -/
theorem dispatched_yealm (hy : s.entry.type = .yealm) : Dispatched old f u k x r s (b.yealmStart x.at_ x.slots).canonMem := by
  have hkeeps := KeepsDispatch.yealmStart b x.at_ x.slots
  have hcount := hkeeps.stations x.at_
  rw [h.stAt] at hcount
  obtain ⟨z, hz, hzd⟩ := Option.map_eq_some_iff.mp hcount
  exact ⟨hkeeps.items h.items, fun hty => absurd hy hty, (Option.any_eq_true _ _).mpr ⟨z, hz, decide_eq_true hzd⟩, fun hty => absurd hy hty,
    fun hty => absurd (hy.symm.trans hty) (by decide), fun hty => absurd (hy.symm.trans hty) (by decide), fun hty => absurd hy hty⟩

/-- An item whose tiles a GATE sends, and which is done with them (R185, log entry 123). -/
theorem dispatched_gate (hg : s.entry.type = .gate) : Dispatched old f u k x r s (gateSend x.at_ r s x.ordinal (slotTiles x.slots) b).canonMem := by
  obtain ⟨hv, hstart, hcores, hmem, hitems, z, hz, hzd, hza⟩ := gateSend_post x.at_ r s x.ordinal (slotTiles x.slots) h.stAt
  refine ⟨hitems.trans h.items, fun _ hty => absurd hg hty, (Option.any_eq_true _ _).mpr ⟨z, hz, decide_eq_true hzd⟩, fun _ hty => absurd hg hty,
    fun _ hne => (Option.any_eq_true _ _).mpr ⟨z, hz, decide_eq_true ?_⟩, fun hty => absurd (hg.symm.trans hty) (by decide),
    fun _ => ⟨fun _ => hcores.trans h.cores, hv.trans h.vat, hstart.trans h.start, Block.memKept_canonMem (hmem.trans h.mem)⟩⟩
  rw [hza, if_neg (slotTiles_ne_nil hne)]
  rfl

end

/-- The dispatch of the one item of the store. -/
theorem dispatch_dispatched {b : Block} {x : Item} {s : Station} (f u k : Nat) (r : Run) (hi : b.ridge.items = [x]) (hs : b.stAt x.at_ = some s) :
    Dispatched b f u k x r s (b.dispatch f x r s u k).canonMem := by
  have h := leftStore_post f u hi hs
  by_cases hl : s.entry.type = .lath
  · rw [dispatch_lath b f u k x r s hl]
    exact dispatched_lath h k r hl _
  by_cases hy : s.entry.type = .yealm
  · rw [dispatch_yealm b f u k x r s hy]
    exact dispatched_yealm h k r hy
  by_cases hg : s.entry.type = .gate
  · rw [dispatch_gate b f u k x r s hg]
    exact dispatched_gate h k r hg
  · rw [dispatch_plain b f u k x r s hl hy hg]
    exact dispatched_plain h k r hl hg

/-- ITEM_DISPATCH of the one item of the store (R367, R375). -/
theorem exec_itemDispatch {s : State} {f u k : Nat} {x : Item} {r : Run} {st : Station} (hi : s.b.ridge.items = [x]) (hl : s.b.live x.at_ = some (r, st)) (hf : x.fired = true)
    (hsp : x.spilled = false) (ho : x.ordinal = st.dispatched) (hw : s.b.withheldPrio f x.prio = false) (hp : s.b.placeFor r x.station st f = some (u, k)) :
    exec (.itemDispatch f []) s = lift s (fun b => b.dispatch f x r st u k) := by
  have hempty : (s.b.dispatch f x r st u k).ridge.items = [] := (dispatch_dispatched f u k r hi (live_stAt hl)).1
  show execItemDispatch f [] s = _
  simp only [execItemDispatch, lift, meeting_nil, matchFlow_fired hi hf hsp, choose_single hi hl hf hsp ho hw hp, matchFlow_nil hempty, withdrawFor_nil f hempty]

end Sys2Proof.StationsAndRuns
end

section
open Sys2Proof Sys2Proof.Machine Sys2Proof.StationsAndRuns

/-- Settles O36: each command moves the one item named along its way, and tiles that flow move no other. -/
theorem ridgeItems : Obligations.RidgeItems := by
  refine ⟨fun s a r st e j t l hi hh hm hl hty he ht hc hle => ?size, fun s a port r st hi hh hm hl hty he hn hcount h64 hle => ?noInput,
    fun s f u k x r st hi hl hf hsp ho hw hp hlt => ?dispatch, fun s a n r st x hi hl hx => ⟨fun hd hty => ?done, fun k it hty hk hov => ?lath, fun hd hty => ?early⟩,
    fun s a n r st x g hruns href hl hg hx => ⟨fun hw => ?watchdog, fun hw => ?watchdogEarly⟩⟩
  case size =>
    obtain ⟨hr, hs, -⟩ := live_eq_some.mp hl
    refine completes_of_lift (exec_operandArrival a 0 hi) ?_
    obtain ⟨cs, hin⟩ := operandIn_size_fires hi hh hm hl hty he ht hc hle
    obtain ⟨hitem, hst, hedge, hv, hstart, hmem⟩ := tookTile_post hr hs (inEdge_getElem? he) (nextItem s.b a r st [(0, .tile t)]) t cs
    rw [hin]
    refine ⟨hitem, (Option.any_eq_true _ _).mpr ⟨_, hst, decide_eq_true ⟨rfl, rfl⟩⟩, (Option.any_eq_true _ _).mpr ⟨_, hedge, decide_eq_true ⟨?_, rfl⟩⟩, hv, hstart,
      Block.memKept_canonMem hmem⟩
    rw [takeTile, ht]
    rfl
  case noInput =>
    have hcounts : countsItems st.entry.type := hty.elim (fun h => .inr (.inl h)) (fun h => .inr (.inr h))
    obtain ⟨cs, hin, hst⟩ := operandIn_noInput_fires hi hh hm hl hcounts he hn hcount h64 hle
    refine completes_of_lift (exec_operandArrival a port hi) ?_
    rw [hin] at hst ⊢
    exact ⟨rfl, (Option.any_eq_true _ _).mpr ⟨_, hst, decide_eq_true ⟨rfl, rfl⟩⟩, rfl, rfl, Block.memKept_canonMem rfl⟩
  case dispatch =>
    exact completes_of_lift (exec_itemDispatch hi hl hf hsp ho hw hp) (dispatch_dispatched f u k r hi (live_stAt hl))
  case done => exact completes_of_lift (exec_itemComplete_done hl hx hd hty) (endItem_post st x hi (live_stAt hl))
  case lath => exact completes_of_lift (exec_itemComplete_lath hl hx hty hk hov) (endLath_post x _ k it hi (live_stAt hl))
  case early => exact completes_of_lift (exec_itemComplete_early hl hx hd hty) ⟨rfl, Block.memKept_canonMem rfl⟩
  case watchdog =>
    obtain ⟨-, -, hk, -⟩ := live_eq_some.mp hl
    refine completes_of_lift (exec_watchdogTimeout hl hx hg hw) ?_
    by_cases hty : st.entry.type = .lath
    · obtain ⟨es, ls, p, o, hb⟩ := killLath_eq s.b (72 * x.field + x.unit) a n stWatchdog (BitVec.ofNat 32 n)
      obtain ⟨hrun, -, -, hv, hstrm, hmem⟩ := killOrd_post (b := { s.b with errs := es, lasts := ls, pins := { s.b.pins with mgAlertN := p }, out := o })
        hruns href hk stWatchdog a.station n (BitVec.ofNat 32 n)
      rw [if_pos hty, if_pos hty, hb]
      exact ⟨hrun, fun h => absurd hty h, hv, hstrm, hmem⟩
    · obtain ⟨hrun, he, hls, hv, hstrm, hmem⟩ := killOrd_post hruns href hk stWatchdog a.station 0 (BitVec.ofNat 32 n)
      rw [if_neg hty, if_neg hty]
      exact ⟨hrun, fun _ => ⟨he, hls⟩, hv, hstrm, hmem⟩
  case watchdogEarly => exact completes_of_lift (exec_watchdogTimeout_early hl hx hg hw) ⟨rfl, Block.memKept_canonMem rfl⟩

end
